-- ==== Sys2Proof/Word.lean ====
section
/-! DEFINITION. The word types of the F48: a register is 32 bits wide (R426), a doorbell 64 (R52), a stored
byte 8, and the elements of the narrow formats 16 (R45). Nothing else: every bit-field helper stands in
Machine/Ops.lean. -/

namespace Sys2Proof

/-- A stored byte. -/
abbrev Byte := BitVec 8
/-- A 16-bit quantity: a hive ID (R5), a BF16 or FP16 element (R45). -/
abbrev W16 := BitVec 16
/-- A register, a descriptor word or a 32-bit element (R39, R426). -/
abbrev W32 := BitVec 32
/-- A doorbell (R52), a table entry (R182) or a global address (R288). -/
abbrev W64 := BitVec 64

end Sys2Proof
end

