-- ==== Sys2Proof/Syntax.lean ====
section
/-! DEFINITION. The commands of the F48 block: one constructor of `Instr` per row of spec/opcode_table.json, in the
table's order, with the operands that tell one occurrence of the row from another. A command is a write or a read
of a register, a message that arrives on a link, or an event the environment brings about; the values that only the
environment knows (a measured margin, a received flit, whether a lane failed its test) are the row's operands. -/

namespace Sys2Proof

/-- Names one descriptor of one queue: context, queue and command sequence number (R40, R51). -/
structure CmdId where
  ctx : Fin 4096
  q   : Fin 4
  seq : W32
deriving DecidableEq, Repr

/-- What a scrubber meets in one stored word (R177, R205). -/
inductive BitFault where
  | clean
  /-- The stack's on-die ECC reports an error that it corrected (R201). -/
  | report
  | single
  | double
deriving DecidableEq, Repr

/-- What a cell BIST finds of a cell (R328): whether it passes, and the banks it finds `DEGRADED` (R179). -/
structure CellTest where
  pass     : Bool
  degraded : W64
deriving DecidableEq, Repr

/-- What a comb's BIST finds (R377): bit *p* of `pass` is 1 when physical cell *p* passes; the banks of each physical cell
that it finds `DEGRADED` (R179). -/
structure CombTest where
  pass     : BitVec 17
  degraded : List W64
deriving DecidableEq, Repr

/-- What the training of a stack gives (R377): whether it trains at 8.0 Gb/s, and the lanes remapped to spare ones (R224). -/
structure StackTest where
  up    : Bool
  lanes : List (BitVec 12)
deriving DecidableEq, Repr

/-- What forward error correction did with a flit (R260): symbols corrected, and codewords that could not be and have ended with it. -/
structure FecCount where
  corrected : Nat
  bad       : Nat
deriving DecidableEq, Repr

/-- The bundle whose via fails (R340). A physical cell is comb × 17 + cell. -/
inductive ViaBundle where
  | bankData (phys : Fin 136) (bank : Fin 64)
  | control  (phys : Fin 136)
  | power    (comb : Fin 8)
deriving DecidableEq, Repr

/-- A microring that can lose its line: a lane's ring at a die port, or the ring of a scout for a line of a
source with a grid offset index (R132, R239, R240). -/
inductive Ring where
  | lane  (dp : Fin 17) (rx : Bool) (bundle : Fin 28) (lane : Fin 16)
  | scout (unit : Fin 12) (grid : Fin 4) (line : Fin 16)
deriving DecidableEq, Repr

/-- A clock island (R323, code 0x0B): a logical cell's or a store die's. -/
inductive Island where
  | cell (c : Fin 128)
  | sd   (n : Fin 8)
deriving DecidableEq, Repr

/-- The reset inputs of R450. -/
inductive ResetPin where
  | resetN
  | perstN
deriving DecidableEq, Repr

/-- Where a register write lands: a register of a BAR0 block page, or of the doorbell page that page number `page` of
function `fn`'s BAR2 shows (R47, R440). -/
inductive RegTarget where
  | bar0     (fn : Fin 256) (off : BitVec 26)
  | doorbell (fn : Fin 256) (page : Fin 4096) (off : BitVec 12)
deriving DecidableEq, Repr

/-- The light measured at an external inlet (R252): lines seen, worst frequency error in GHz, lowest and highest power
per line in 0.01 dBm, and relative intensity noise in dB/Hz. -/
structure InletLight where
  lines   : Nat
  freqErr : Int
  powMin  : Int
  powMax  : Int
  powMean : Int
  rin     : Int
deriving DecidableEq, Repr

/-- A microcode bank image as the security root sees it (R392): its content, its signature, its security version and
its revision. -/
structure BankImage where
  content : Nat
  sig     : Nat
  svn     : Nat
  rev     : W32
deriving DecidableEq, Repr

/-- What a port's peer shows in a link key exchange (R401). -/
structure LinkPeer where
  chainOk  : Bool
  dataOpen : Bool
  enc      : Bool
deriving DecidableEq, Repr

/-- The transport an SPDM request arrives on (R394): HP0 vendor-defined messages or I3C. -/
inductive Transport where
  | hp0
  | i3c
deriving DecidableEq, Repr

/-- The two ways an I3C target takes a dynamic address (R443). -/
inductive AddrMethod where
  | setdasa
  | entdaa
deriving DecidableEq, Repr

/-- The Tediade register message over I3C (R446). -/
inductive RegMessage where
  | read  (off : BitVec 26)
  | write (off : BitVec 26) (val : W32)
deriving DecidableEq, Repr

/-- A PCI Express configuration request on HP0 (R378): a read of a configuration register, or a write. -/
inductive CfgReq where
  | read  (reg : BitVec 12)
  | write (reg : BitVec 12) (val : W32)
deriving DecidableEq, Repr

/-- The commands. Each docstring cites the row's rule and says what the operands are. -/
inductive Instr where
  /-- CTX_LOAD (R15): a write of code 0x1 to `CTX_CMD`. -/
  | ctxLoad
  /-- CTX_READ (R15): a write of code 0x2 to `CTX_CMD`. -/
  | ctxRead
  /-- CTX_UPDATE (R15): a write of code 0x3 to `CTX_CMD`. -/
  | ctxUpdate
  /-- QUIESCE (R15): a write of code 0x4 to `CTX_CMD`. -/
  | quiesce
  /-- QUIESCE_DONE (R15): no command of the context runs any more. -/
  | quiesceDone (ctx : Fin 4096)
  /-- RESUME (R15): a write of code 0x5 to `CTX_CMD`. -/
  | resume
  /-- TEARDOWN (R18): a write of code 0x6 to `CTX_CMD`. -/
  | teardown
  /-- TEARDOWN_QUEUES_DISABLED (R18): no command of the torn-down context runs any more. -/
  | teardownQueuesDisabled (ctx : Fin 4096)
  /-- ZEROING_DONE (R403): the zeroing of the context's memory ends. -/
  | zeroingDone (ctx : Fin 4096)
  /-- STREAM_OPEN (R20): a write of code 0x1 to `STR_CMD`. -/
  | streamOpen
  /-- STREAM_READ (R20): a write of code 0x2 to `STR_CMD`. -/
  | streamRead
  /-- STREAM_CLOSE (R20): a write of code 0x3 to `STR_CMD`. -/
  | streamClose
  /-- DOORBELL (R53): the 8-byte write of R52 to `DB_Qq` of a doorbell page of function `fn`. -/
  | doorbell (fn : Fin 256) (page : Fin 4096) (q : Fin 4) (value : W64)
  /-- DOORBELL_PAGE_BAD_ACCESS (R47): a doorbell-page access of `size` bytes at byte `off` of the page. -/
  | doorbellPageBadAccess (fn : Fin 256) (page : Fin 4096) (off : BitVec 12) (size : Nat) (write : Bool)
  /-- EVT_VALUE_WRITE (R63): a write of `EVT_VALUE`. -/
  | evtValueWrite (fn : Fin 256) (page : Fin 4096) (value : W32)
  /-- EVT_ADD_WRITE (R63): a write of `EVT_ADD`. -/
  | evtAddWrite (fn : Fin 256) (page : Fin 4096) (value : W32)
  /-- QUEUE_ENABLE (R50): a write of `Qq_CFG` whose EN bit is 1. -/
  | queueEnable (fn : Fin 256) (page : Fin 4096) (q : Fin 4) (value : W32)
  /-- QUEUE_DISABLE (R50): a write of `Qq_CFG` whose EN bit is 0. -/
  | queueDisable (fn : Fin 256) (page : Fin 4096) (q : Fin 4) (value : W32)
  /-- QUEUE_DRAINED (R50): the last in-flight command of a draining queue has completed. -/
  | queueDrained (ctx : Fin 4096) (q : Fin 4)
  /-- RESTART (R68): a write of `Qq_CTRL` with bit 0 set. -/
  | restart (fn : Fin 256) (page : Fin 4096) (q : Fin 4)
  /-- DESCRIPTOR_FETCH (R41): the front end fetches the descriptor at HEAD. -/
  | descriptorFetch (ctx : Fin 4096) (q : Fin 4)
  /-- SCHEDULER_PICK (R31): logical cell `cell` is at a command boundary. -/
  | schedulerPick (cell : Fin 128)
  /-- COMMAND_START (R56): the head of the queue's fetched descriptors is tested and, if it may, starts. -/
  | commandStart (ctx : Fin 4096) (q : Fin 4)
  /-- SPILL (R35): room is made on `cell` for the banks of context `ctx`. -/
  | spill (cell : Fin 128) (ctx : Fin 4096)
  /-- REFILL (R35, R461): the banks of context `ctx` become resident on `cell`. -/
  | refill (cell : Fin 128) (ctx : Fin 4096)
  /-- SPAD_NO_FIT_TIMEOUT (R35): the ready command at the head of the queue has waited 10 ms for room. -/
  | spadNoFitTimeout (ctx : Fin 4096) (q : Fin 4)
  /-- WATCHDOG_TIMEOUT (R29): a running cell command passes its command limit. -/
  | watchdogTimeout (id : CmdId)
  /-- COMMAND_COMPLETION (R66): a command whose work has ended completes. `secondary` is the digest of the twin
  cell when a fault made it differ (R327); `hostOk` says whether a write of the record to host memory succeeds (R439). -/
  | commandCompletion (id : CmdId) (secondary : Option W64) (hostOk : Bool)
  /-- MATMUL (R79): the running MATMUL computes what is left of it. -/
  | matmul (id : CmdId)
  /-- MATMUL_MICRO_OP (R93): the running MATMUL issues its next panel micro-operation. -/
  | matmulMicroOp (id : CmdId)
  /-- TILE_DRAIN (R95): the oldest finished output tile of the running MATMUL drains. -/
  | tileDrain (id : CmdId)
  /-- VSTREAM (R162). -/
  | vstream (id : CmdId)
  /-- VCHAIN (R174). -/
  | vchain (id : CmdId)
  /-- MOVE (R194): a COPY in MODE 0. -/
  | move (id : CmdId)
  /-- ATOMIC (R196): a COPY in MODE 1. -/
  | atomic (id : CmdId)
  /-- KV_WRITE (R214): a COPY in MODE 2. -/
  | kvWrite (id : CmdId)
  /-- ROUTE (R104). -/
  | route (id : CmdId)
  /-- COMBINE (R111). -/
  | combine (id : CmdId)
  /-- SCOUT (R141): the pool assigns scout `unit`, if it is in `SCOUT_READY` (R132). -/
  | scout (id : CmdId) (unit : Fin 12)
  /-- SCOUT_LOCK_LOSS (R146): a ring of the scout running a SCOUT loses lock. -/
  | scoutLockLoss (unit : Fin 12)
  /-- SCOUT_RELOCK_TIMEOUT (R146): the scout has not relocked within 200 µs. -/
  | scoutRelockTimeout (unit : Fin 12)
  /-- SCOUT_READY_TIMEOUT (R147): a SCOUT has found no ready scout for 20 µs; store die `sd` runs it. -/
  | scoutReadyTimeout (id : CmdId) (sd : Fin 8)
  /-- GATHER_KV (R153). -/
  | gatherKv (id : CmdId)
  /-- COLLECTIVE (R320): the running COLLECTIVE starts its protocol. -/
  | collective (id : CmdId)
  /-- FENCE (R57): a running FENCE tests whether its acknowledgements have arrived. -/
  | fence (id : CmdId)
  /-- FENCE_DRAIN_TIMEOUT (R301): the drain timer of an FFAB wait expires. -/
  | fenceDrainTimeout (id : CmdId)
  /-- EVENT_SIGNAL (R64). -/
  | eventSignal (id : CmdId)
  /-- EVENT_WAIT (R64). -/
  | eventWait (id : CmdId)
  /-- EVENT_WAIT_TIMEOUT (R64): TIMEOUT expires. -/
  | eventWaitTimeout (id : CmdId)
  /-- TIMESTAMP (R64). -/
  | timestamp (id : CmdId)
  /-- SPEC_BEGIN (R116). -/
  | specBegin (id : CmdId)
  /-- SPEC_COMMIT (R123). -/
  | specCommit (id : CmdId)
  /-- SPEC_ABORT (R124). -/
  | specAbort (id : CmdId)
  /-- STEP_BEGIN (R331). -/
  | stepBegin (id : CmdId)
  /-- STEP_COMMIT (R334). -/
  | stepCommit (id : CmdId)
  /-- SKR_SET (R137): a write of code 0b01 to `SKR_CMD`. -/
  | skrSet
  /-- SKR_READ (R137): a write of code 0b10 to `SKR_CMD`. -/
  | skrRead
  /-- SKR_CLEAR (R137): a write of code 0b11 to `SKR_CMD`. -/
  | skrClear
  /-- POOL_MM_CLEAR (R137): a write of the register. -/
  | poolMmClear (value : W32)
  /-- SCOUT_CALIBRATION (R145): the scout's interval has passed. -/
  | scoutCalibration (unit : Fin 12)
  /-- CALIBRATION_DONE (R145): the worst residuals of the calibration: gain error in 0.01 % of the full-scale range,
  offset in score units, weight error in 0.01 % of the full range, and whether every ring sees its own tone. -/
  | calibrationDone (unit : Fin 12) (gain offset weight : Nat) (tones : Bool)
  /-- INVAL (R184): a write of code 0x1 to `MM_CMD`. -/
  | inval
  /-- KVL_SET (R187): a write of code 0x2 to `MM_CMD`. -/
  | kvlSet
  /-- KVL_READ (R187): a write of code 0x3 to `MM_CMD`. -/
  | kvlRead
  /-- POOL_ADD (R187): a write of code 0x4 to `MM_CMD`. -/
  | poolAdd
  /-- DIR_ASSIGN (R187): a write of code 0x5 to `MM_CMD`. -/
  | dirAssign
  /-- DIR_RELEASE (R187): a write of code 0x6 to `MM_CMD`. -/
  | dirRelease
  /-- RET_READ (R187): a write of code 0x7 to `MM_CMD`. -/
  | retRead
  /-- PT_WRITE (R187): a write of code 0x8 to `MM_CMD`. -/
  | ptWrite
  /-- PT_READ (R187): a write of code 0x9 to `MM_CMD`. -/
  | ptRead
  /-- PT_CLEAR (R187): a write of code 0xA to `MM_CMD`. -/
  | ptClear
  /-- BAR4_READ (R442): a host read of `len` bytes at BAR4 offset `off`. -/
  | bar4Read (off : BitVec 40) (len : Nat)
  /-- BAR4_WRITE (R442): a host write of `data` at BAR4 offset `off`. -/
  | bar4Write (off : BitVec 40) (data : List Byte)
  /-- PATROL_SCRUB (R205): the scrubber reads HBM word `word` (32-bit words from page 0 up) and meets `fault`; `spare`
  says whether the bank has a soft-repair resource left (R218). -/
  | patrolScrub (word : BitVec 38) (fault : BitFault) (spare : Bool)
  /-- SPAD_SCRUB (R177): an idle bank cycle reads word `word` of the partition of logical cell `cell`. -/
  | spadScrub (cell : Fin 128) (word : BitVec 22) (fault : BitFault)
  /-- CACHE_SCRUB (R205): an idle slice cycle reads word `word` of the slice's direct area. -/
  | cacheScrub (slice : Fin 8) (word : BitVec 24) (fault : BitFault)
  /-- KV_PAGE_MIGRATE (R220): the retired page `ppn` in use by the stream is migrated. -/
  | kvPageMigrate (stream : Fin 16384) (ppn : BitVec 24)
  /-- HARD_GO (R218): a write of code 0b01 to `REP_CMD` of the store die. -/
  | hardGo (sd : Fin 8)
  /-- BUDGET (R223): a write of code 0b10 to `REP_CMD` of the store die. -/
  | budget (sd : Fin 8)
  /-- T1500_ACCESS (R224): an access to `T1500_CTRL` (`data` false) or `T1500_DATA` (`data` true); a write carries its
  value. -/
  | t1500Access (sd : Fin 8) (data : Bool) (write : Option W32)
  /-- REGULATOR_CYCLE (R207): one store-die cycle of one stack's regulator, of up to 1,280 bytes: the stack controller offers
  `slot` sector slots in it; bit *p* of the word of each is 1 while partition *p* has a request waiting. -/
  | regulatorCycle (stack : Fin 16) (waiting : List W64) (slot : Fin 21)
  /-- VIA_FAILURE (R340). -/
  | viaFailure (bundle : ViaBundle)
  /-- QUEUE_REPORT (R227): the report round; entry *d* of row *s* is the bytes that die port *s* has queued for *d*. -/
  | queueReport (bytes : List (List Nat))
  /-- DROP_FILTER_RETUNE (R228): the flows of the receive bundle's old grant have drained. -/
  | dropFilterRetune (dp : Fin 17) (bundle : Fin 28)
  /-- DIE_FLIT_RECEIVE (R231): the 256 bytes of a flit arrive on a receive bundle. -/
  | dieFlitReceive (dp : Fin 17) (bundle : Fin 28) (flit : List Byte)
  /-- DIE_FLIT_RETRY (R231): the retry delay of the oldest unacknowledged flit of a transmit bundle has passed. -/
  | dieFlitRetry (dp : Fin 17) (bundle : Fin 28)
  /-- DIE_ACK_TIMEOUT (R231): 1 µs has passed without acknowledgement. -/
  | dieAckTimeout (dp : Fin 17) (bundle : Fin 28)
  /-- BUNDLE_RETRAIN (R236): the retrain of the pair formed by a transmit bundle of `dp` and a receive bundle of
  `peer`; the masks name the lanes that fail the lane test at each end. -/
  | bundleRetrain (dp : Fin 17) (txb : Fin 28) (peer : Fin 17) (rxb : Fin 28) (failTx failRx : W16)
  /-- LANE_LOSS_OF_LIGHT (R234): the receiver of a lane has seen no light for 1 µs while locked. -/
  | laneLossOfLight (dp : Fin 17) (bundle : Fin 28) (lane : Fin 16)
  /-- RING_RELOCK_TIMEOUT (R234): the ring has not relocked within 5 ms. -/
  | ringRelockTimeout (ring : Ring)
  /-- WIDTH_DISPUTED (R237): the die reports these trained working lanes, one mask a bundle, transmit and receive. -/
  | widthDisputed (dp : Fin 17) (tx rx : List W16)
  /-- RING_WRONG_LOCK (R241): the ring sees an identity tone at 10 kHz × (1 + `tone`). -/
  | ringWrongLock (ring : Ring) (tone : Fin 4)
  /-- RING_LOCK_LOSS (R242). -/
  | ringLockLoss (ring : Ring)
  /-- SLEW_SAMPLE (R243): the eight combs' powers in W from the layer-0 telemetry. -/
  | slewSample (power : List Nat)
  /-- LASER_MONITOR (R248): a source's margin averaged over 1 ms, in 0.01 dB. -/
  | laserMonitor (src : Fin 108) (margin : Int)
  /-- ARMING_CLEAR (R248): the armed source has stayed at −0.5 dB or better for 10 s. -/
  | armingClear (src : Fin 108)
  /-- SPARE_WARM_DONE (R248): the warming spare has reached its temperature and its lines are locked. -/
  | spareWarmDone (spare : Fin 108)
  /-- SPARE_SWITCH (R249): the substitute of source `src` is switched in at a flit boundary. -/
  | spareSwitch (src : Fin 108)
  /-- SOURCE_ABRUPT_FAIL (R250). -/
  | sourceAbruptFail (src : Fin 108)
  /-- INLET_CHECK (R252): the light measured at inlet `el`. -/
  | inletCheck (el : Fin 2) (light : InletLight)
  /-- CHAVER_FLIT_RECEIVE (R263): the 256 bytes of a flit arrive; `fecOk` is false when a codeword that overlaps it
  could not be corrected (R260). -/
  | chaverFlitReceive (port : Fin 32) (flit : List Byte) (fecOk : Bool) (fec : FecCount)
  /-- LINK_ACK_TIMEOUT (R263): T_RTT + 2 µs has passed without acknowledgement. -/
  | linkAckTimeout (port : Fin 32)
  /-- LINK_TIMEOUT (R264): no valid flit for LTO. -/
  | linkTimeout (port : Fin 32)
  /-- TRAINING_RETRY (R264): a `CP_DOWN` port's 1 s has passed. -/
  | trainingRetry (port : Fin 32)
  /-- PORT_TRAINING (R265): a training's steps 1 to 3: whether clock and FEC locked, and T_RTT in ns. -/
  | portTraining (port : Fin 32) (locked : Bool) (trtt : Nat)
  /-- IDENTITY_SEND (R266). -/
  | identitySend (port : Fin 32)
  /-- IDENTITY_FLIT (R266): the payload fields of a received identity flit. -/
  | identityFlit (port : Fin 32) (hive : W16) (peerPort : Byte) (peerPlan : W32)
  /-- NO_PEER_TIMEOUT (R267): 10 ms after FEC lock without an identity flit. -/
  | noPeerTimeout (port : Fin 32)
  /-- CP_PLAN_WRITE (R267). -/
  | cpPlanWrite (port : Fin 32) (value : W32)
  /-- TAKEOVER_REQUEST (R272): a takeover request naming port `failed` of the sender arrives on `port`; `local` is this
  hive's port at the other end of the failed link. -/
  | takeoverRequest (port : Fin 32) (failed : Fin 32)
  /-- TAKEOVER_REQUEST_REPEAT (R272): 10 µs without a reply for the failed port. -/
  | takeoverRequestRepeat (failed : Fin 32)
  /-- TAKEOVER_BUFFER_DRAINED (R272): the receive buffer of the failed port has been emptied. -/
  | takeoverBufferDrained (failed : Fin 32)
  /-- TAKEOVER_REPLY (R272): the reply for this hive's failed port arrives with the last in-order LSEQ. -/
  | takeoverReply (failed : Fin 32) (lseq : W16)
  /-- JOIN_MARKER (R273): the marker naming the sender's returned port leaves the substitute's receive buffer. -/
  | joinMarker (port : Fin 32) (returned : Fin 32)
  /-- JOIN_REPLY (R273): the reply for this hive's returned member arrives. -/
  | joinReply (returned : Fin 32)
  /-- HANDOVER_TIMEOUT (R273): a takeover or join reply for the port is missing after 2 × LTO. -/
  | handoverTimeout (port : Fin 32)
  /-- CP_CFG_WRITE (R275). -/
  | cpCfgWrite (port : Fin 32) (value : W32)
  /-- RETRAIN (R287): a write of `CP_CFG` with RETRAIN set. -/
  | retrain (port : Fin 32) (value : W32)
  /-- RT_HOLD (R281): a write of 0b001 to `RT_CMD`. -/
  | rtHold
  /-- RT_DRAINED (R281): no message to a held destination awaits completion. -/
  | rtDrained
  /-- RT_SWAP (R281): a write of 0b010 to `RT_CMD`. -/
  | rtSwap
  /-- RT_RELEASE (R281): a write of 0b011 to `RT_CMD`. -/
  | rtRelease
  /-- RT_COPY (R281): a write of 0b100 to `RT_CMD`. -/
  | rtCopy
  /-- CONGESTION_UPDATE (R283): the 10 µs update. -/
  | congestionUpdate
  /-- SCHED_SLOT_START (R284): slot `slot` of the frame begins. -/
  | schedSlotStart (slot : Fin 1024)
  /-- MFM_SEND (R293): the waiting request with this tag is sent if it may be. -/
  | mfmSend (tag : W32)
  /-- MFM_REQUEST (R294): a request from hive `src` arrives: its 32-byte header and its data. -/
  | mfmRequest (src : W16) (payload : List Byte)
  /-- MFM_RESPONSE (R292): a response from hive `src` arrives: its 16-byte header and its data. -/
  | mfmResponse (src : W16) (payload : List Byte)
  /-- MFM_RETRY (R297): bound/4 has passed since the last sending of the request with this tag. -/
  | mfmRetry (tag : W32)
  /-- MFM_TIMEOUT (R297): the bound has passed. -/
  | mfmTimeout (tag : W32)
  /-- ATOMIC_START_DELAY (R298): 2 ms have passed after `FAB_CTRL.EN` was set. -/
  | atomicStartDelay
  /-- DOM_WRITE (R295): a write of 0b01 to `DOM_CMD`. -/
  | domWrite
  /-- DOM_READ (R303): a write of 0b10 to `DOM_CMD`. -/
  | domRead
  /-- GRP_WRITE (R308): a write of 0b01 to `GRP_CMD`. -/
  | grpWrite
  /-- GRP_READ (R307): a write of 0b10 to `GRP_CMD`. -/
  | grpRead
  /-- GRANT (R320): a collective message of KIND 0x3 arrives from hive `src`. -/
  | grant (src : W16) (payload : List Byte)
  /-- PARTIAL (R320): a collective message of KIND 0x1 arrives. -/
  | partialChunk (src : W16) (payload : List Byte)
  /-- FINAL (R320): a collective message of KIND 0x2 arrives. -/
  | finalChunk (src : W16) (payload : List Byte)
  /-- TOKEN (R320): a collective message of KIND 0x4 arrives. -/
  | token (src : W16) (payload : List Byte)
  /-- ABORT (R321): a collective message of KIND 0x5 arrives. -/
  | abort (src : W16) (payload : List Byte)
  /-- MEMBER_TIMEOUT (R321): a running operation of the group has received no message for TMO. -/
  | memberTimeout (group : Fin 256)
  /-- NF_REC_CLEAR (R317): a write of `NF_REC0`. -/
  | nfRecClear (value : W32)
  /-- LOCKSTEP_MISMATCH (R323, code 0x01). -/
  | lockstepMismatch
  /-- HEARTBEAT_LOSS (R323, code 0x02). -/
  | heartbeatLoss
  /-- HUB_TABLE_ECC (R322, code 0x03). -/
  | hubTableEcc
  /-- REFCLK_LOSS (R323, code 0x0A). -/
  | refclkLoss
  /-- ISLAND_CLOCK_LOSS (R323, code 0x0B). -/
  | islandClockLoss (island : Island)
  /-- ISLAND_RELOCK (R323). -/
  | islandRelock (island : Island)
  /-- TWIN_PAIR_REBUILD (R328): cell BIST of the two cells of a mismatched pair ends. -/
  | twinPairRebuild (a b : Fin 128) (testA testB : CellTest)
  /-- SPARE_TAKEOVER_DONE (R339): the comb's spare cell finishes taking the number. -/
  | spareTakeoverDone (comb : Fin 8)
  /-- RESERVE_PAIR_REPLACE (R341): a lost cell of the pair is replaced by `cell`, if it is suitable; with `none` no
  suitable cell exists. -/
  | reservePairReplace (pair : Fin 16) (cell : Option (Fin 128))
  /-- HEALTH_SCORE (R342): the 60 s round; `heat` gives, by unit code, the heater power above commissioning in %. -/
  | healthScore (heat : List (Nat × Nat))
  /-- PROBATION_SIGNAL_DEFERRED (R344): the 10 min since the unit's last signal end. -/
  | probationSignalDeferred (unit : Fin 273)
  /-- PROBATION_EXIT (R344): the unit's score has stayed high for 1 h. -/
  | probationExit (unit : Fin 273)
  /-- VIN_MAIN_WARNING (R354): VIN_MAIN, in mV, falls below 11.2 V. -/
  | vinMainWarning (mv : Nat)
  /-- VIN_MAIN_RECOVER (R355): VIN_MAIN rises to 11.5 V. -/
  | vinMainRecover (mv : Nat)
  /-- PWR_OK_TIMER (R355): 1 ms at or above 11.5 V. -/
  | pwrOkTimer
  /-- LIMIT_SUSPEND_EXPIRE (R356): the command has spent 2 ms in suspension. -/
  | limitSuspendExpire (id : CmdId)
  /-- BROWNOUT (R357): VIN_MAIN falls below 10.2 V. -/
  | brownout (mv : Nat)
  /-- VIN_MAIN_RESTORE (R357): VIN_MAIN rises to 10.6 V. -/
  | vinMainRestore (mv : Nat)
  /-- VIN_AUX_RESET (R353): VIN_AUX falls below 2.95 V. -/
  | vinAuxReset (mv : Nat)
  /-- OVER_VOLTAGE (R353): VIN_MAIN rises above 13.4 V. -/
  | overVoltage (mv : Nat)
  /-- PWR_GOOD_LOW (R449). -/
  | pwrGoodLow
  /-- HOLDUP_CHECK (R358): VHOLD measured, in units of 10 mV. -/
  | holdupCheck (vhold : W16)
  /-- PERSISTENT_WRITE_START (R359): the next persistent write, with VHOLD measured immediately before it. -/
  | persistentWriteStart (vhold : W16)
  /-- PERSISTENT_WRITE_DONE (R359): the running write ends. -/
  | persistentWriteDone
  /-- THERMAL_LEVEL (R361): the level of a thermal domain (R420 numbering) is evaluated. -/
  | thermalLevel (dom : Fin 50)
  /-- CLOCK_STEP (R362): the 1 ms step of a comb's cell clock. -/
  | clockStep (comb : Fin 8)
  /-- THERMAL_TRIP (R363): the trip comparator of a sensor fires at this reading, in 0.25 °C. -/
  | thermalTrip (sensor : Fin 404) (reading : Int)
  /-- AUTO_RESTART (R364): every sensor has been below 80 °C for 30 s. -/
  | autoRestart
  /-- SENSOR_CROSS_CHECK (R366): the readings of the 404 sensors in 0.25 °C and the 128 cell powers in mW. -/
  | sensorCrossCheck (readings : List Int) (power : List Nat)
  /-- SENSOR_SUSPECT (R367). -/
  | sensorSuspect (sensor : Fin 320)
  /-- SENSOR_RECOVER (R367). -/
  | sensorRecover (sensor : Fin 320)
  /-- CELL_CLK_WRITE (R372): a write of `PWR_CTRL`. -/
  | cellClkWrite (value : W32)
  /-- RESET_ASSERT (R375). -/
  | resetAssert (pin : ResetPin)
  /-- RESET_RELEASE (R375). -/
  | resetRelease (pin : ResetPin)
  /-- MGMT_BOOT (R377): step 1. -/
  | mgmtBoot
  /-- REGULATOR_UP (R377): step 2. -/
  | regulatorUp
  /-- HUB_START (R377): step 3a, with the outcome of the lockstep self-test. -/
  | hubStart (selfTest : Bool)
  /-- HOST_LINK_TRAIN (R377): step 3b. -/
  | hostLinkTrain (up : Bool)
  /-- SOURCE_LIGHT (R377): step 3c for one source: whether it lights and its rings lock. -/
  | sourceLight (src : Fin 108) (lit : Bool)
  /-- DIE_PORT_TRAIN (R377): step 4: the working lanes of each bundle, transmit and receive. -/
  | diePortTrain (dp : Fin 17) (tx rx : List W16)
  /-- STORE_DIE_READY (R377): step 5: the training of the die's two stacks. -/
  | storeDieReady (sd : Fin 8) (stack0 stack1 : StackTest)
  /-- COMB_BIST (R377): step 6: the BIST of a comb's cells. -/
  | combBist (comb : Fin 8) (test : CombTest)
  /-- LOCK (R381): a write of `RST_CTRL` with LOCK set. -/
  | lock (value : W32)
  /-- DIE_GO (R388): a write of `RST_CTRL` with DIE_GO set. -/
  | dieGo (value : W32)
  /-- DIE_RESET_DONE (R388): the die's steps have ended. -/
  | dieResetDone
  /-- ACTIVATE (R386): a write of 0b01 to `UC_CTRL`. -/
  | activate
  /-- CANCEL (R386): a write of 0b10 to `UC_CTRL`. -/
  | cancel
  /-- MICROCODE_SWITCH (R386): step 3 of the activation. -/
  | microcodeSwitch
  /-- FUNCTION_LEVEL_RESET (R389): of a VF (`fn` from 1). -/
  | functionLevelReset (fn : Fin 256)
  /-- PF0_RESET (R389): a PF0 Function Level Reset, a Hot Reset or a loss of the HP0 link (`linkLost`). -/
  | pf0Reset (linkLost : Bool)
  /-- KEY_LOAD (R398): a write of 0b01 to `KEY_CMD`. -/
  | keyLoad
  /-- KEY_CLEAR (R398): a write of 0b10 to `KEY_CMD`. -/
  | keyClear
  /-- SET_KEK (R397): the 256-bit KEK and the PERSIST flag, inside session `session`. -/
  | setKek (session : Fin 4) (kek : BitVec 256) (persist : Bool)
  /-- GET_VERSION (R394). -/
  | getVersion (via : Transport)
  /-- GET_CAPABILITIES (R394). -/
  | getCapabilities (via : Transport)
  /-- NEGOTIATE_ALGORITHMS (R394): whether the requester offers the supported algorithms. -/
  | negotiateAlgorithms (via : Transport) (offered : Bool)
  /-- GET_DIGESTS (R394). -/
  | getDigests (via : Transport)
  /-- GET_CERTIFICATE (R394): of certificate slot `slot`. -/
  | getCertificate (via : Transport) (slot : Fin 8)
  /-- CHALLENGE (R394): of certificate slot `slot`, with the requester's nonce. -/
  | challenge (via : Transport) (slot : Fin 8) (nonce : BitVec 256)
  /-- GET_MEASUREMENTS (R393): of one index, or of all (`none`). -/
  | getMeasurements (via : Transport) (index : Option (Fin 256)) (nonce : BitVec 256)
  /-- KEY_EXCHANGE (R394): with the requester's ECDHE public key. -/
  | keyExchange (via : Transport) (slot : Fin 8) (share : BitVec 768)
  /-- FINISH (R394): completes the session's handshake; whether the requester's verify data check. -/
  | finish (session : Fin 4) (verifyOk : Bool)
  /-- KEY_UPDATE (R394): of a session. -/
  | keyUpdate (session : Fin 4)
  /-- HEARTBEAT (R394): of a session. -/
  | heartbeat (session : Fin 4)
  /-- END_SESSION (R394). -/
  | endSession (session : Fin 4)
  /-- VENDOR_DEFINED_REQUEST (R394, R404): one that carries an owner public key. -/
  | vendorDefinedRequest (via : Transport) (ownerKey : BitVec 768)
  /-- LINK_KEY_EXCHANGE (R401): the exchange of a port ends, with what the peer shows. -/
  | linkKeyExchange (port : Fin 32) (peer : LinkPeer)
  /-- LINK_KEY_ROTATE (R402). -/
  | linkKeyRotate (port : Fin 32)
  /-- DBG_CHALLENGE (R404): a write of 0b001 to `DBG_CTRL`. -/
  | dbgChallenge
  /-- SUBMIT (R404): a write of 0b010 to `DBG_CTRL`. -/
  | submit
  /-- RELOCK (R405): a write of 0b100 to `DBG_CTRL`. -/
  | relock
  /-- CNT_SNAP (R416): a write of `CNT_SEL` of the page at BAR0 offset `page`. -/
  | cntSnap (page : BitVec 26) (value : W32)
  /-- LOG_FLUSH (R422): the PERIOD has passed. -/
  | logFlush
  /-- FLUSH (R422): a write of `LOG_CTRL` with FLUSH set. -/
  | flush (value : W32)
  /-- LOG_ENABLE_WRITE (R424): a write of `LOG_CTRL`. -/
  | logEnableWrite (value : W32)
  /-- REGISTER_WRITE (R428): a 4-byte aligned write of a register. -/
  | registerWrite (target : RegTarget) (value : W32)
  /-- BAR0_BAD_ACCESS (R426): a BAR0 access of `size` bytes at offset `off`. -/
  | bar0BadAccess (fn : Fin 256) (off : BitVec 26) (size : Nat) (write : Bool)
  /-- BLK_ERR_INJECT (R431): a write of the register of the page at BAR0 offset `page`. -/
  | blkErrInject (page : BitVec 26) (value : W32)
  /-- DYNAMIC_ADDRESS_ASSIGN (R443). -/
  | dynamicAddressAssign (how : AddrMethod) (addr : BitVec 7)
  /-- REGISTER_MESSAGE (R446). -/
  | registerMessage (msg : RegMessage)
  /-- UPDATE_COMPONENT (R445): of component A (`bankB` false) or B, with the image. -/
  | updateComponent (bankB : Bool) (image : BankImage)
  /-- ACTIVATE_FIRMWARE (R445). -/
  | activateFirmware
  /-- BYPASS (R453). -/
  | bypass
  /-- IDCODE (R453). -/
  | idcode
  /-- SAMPLE/PRELOAD (R453): the lands sampled, and the value shifted in. -/
  | samplePreload (lands : BitVec 46) (load : BitVec 46)
  /-- EXTEST (R453). -/
  | extest
  /-- CLAMP (R453). -/
  | clamp
  /-- HIGHZ (R453). -/
  | highz
  /-- RING_RELOCK (R242): the ring relocks on its own line. -/
  | ringRelock (ring : Ring)
  /-- PORT_ARBITRATION (R269): one flit slot of a port. -/
  | portArbitration (port : Fin 32)
  /-- CONFIGURATION_REQUEST (R378): to function `fn`. -/
  | configurationRequest (fn : Fin 256) (req : CfgReq)
  /-- COMPLETION_TIMEOUT (R439): a DMA read of the command ends in an error or times out; with `none`, a completion
  arrives after its timeout. -/
  | completionTimeout (id : Option CmdId)
  /-- MIN_SVN_RAISE (R392): the new minimum, with the request's signature. -/
  | minSvnRaise (svn : Nat) (sig : Nat)
  /-- LINK_KEY_EXCHANGE_TIMEOUT (R401): 100 ms without completion. -/
  | linkKeyExchangeTimeout (port : Fin 32)
  /-- LIFE_LOG_ACCUMULATION (R420): one power-on minute. -/
  | lifeLogAccumulation
deriving DecidableEq, Repr

end Sys2Proof
end

