-- ==== Sys2Proof/Decode.lean ====
section
/-! DEFINITION. The command that a word of the opcode table spells. No row of spec/opcode_table.json gives bits (its
"fields" are all empty: the rows are commands, not encodings), so no word spells a command (log entry 2). -/

namespace Sys2Proof

/-- The command that the table's word of `nbits` bits spells: none, since no row gives bits. -/
def decodeTableWord (_nbits _w : Nat) : Option Instr := none

end Sys2Proof
end

