-- ==== Sys2Proof/Config.lean ====
section
/-! DEFINITION. What the manual leaves open: the free values, and the functions of standards the manual names without
restating. Each is a constant WITHOUT a body, so that nothing can be proved of the value it takes; a claim that
mentions one holds whatever it is. Each docstring names its rule and its log entry under notes/assumptions/. -/

namespace Sys2Proof.Config

/-- The byte that an unspecified output holds: R98, R170, R199, R318, R321 leave the outputs of a command unspecified
after a status other than `OK`. Applied to the machine's free counter and the byte's position. Log entry 4. -/
opaque freeByte : Nat → Nat → Byte

/-- A 32-bit free value, for a register or word the manual does not state. Log entry 4. -/
opaque freeWord : Nat → Nat → W32

/-- A free choice between two outcomes the manual allows. Log entry 4. -/
opaque freeBool : Nat → Nat → Bool

/-- The byte read through key `k` where the sector was last written under key `w` (`none`: the stored bytes were written as zero
without encryption, R396, R403): `tweak` is R395's, PPN × 1,024 + sector index; `block` counts the 16-byte blocks of the sector; `bytes`
are those written to the block, and `i` the place in it. AES-256-XTS (R395) is not restated by the manual. Log entry 5. -/
opaque wrongKeyByte : (w : Option (BitVec 512)) → (k : Option (BitVec 512)) → (tweak block : Nat) → (bytes : List Byte) → (i : Nat) → Byte

/-- The analogue error e of R141 for one query and one sketch, in score units, rounded to an integer. R143 bounds only
its standard deviation. Log entry 6. -/
opaque analogueError : (free query sketch : Nat) → Int

/-- AES key wrap (RFC 3394) undone under the KEK (R398): `none` where the integrity check fails. Log entry 7. -/
opaque keyUnwrap : (kek : BitVec 256) → (wrapped : List W32) → Option (BitVec 512)

/-- ECDSA P-384 verification over a SHA-384 digest (R392, R404): key, message digest, signature. Log entry 7. -/
opaque ecdsaVerify : (key : Nat) → (digest : BitVec 384) → (sig : Nat) → Bool

/-- The SHA-384 digest of a byte string or image written as a number (R391, R393, R404). Log entry 7. -/
opaque sha384 : Nat → BitVec 384

/-- An ECDSA P-384 signature by the device identity key (R394), which never leaves the hub. Log entry 7. -/
opaque deviceSign : (digest : BitVec 384) → Nat

/-- The key that an SPDM key exchange or key update derives from the shares (R394, R401, R402). Log entry 7. -/
opaque sessionKey : (share : Nat) → (free : Nat) → BitVec 256

/-- AES-256-GCM (R400): key, 12-byte IV, additional data, plaintext to ciphertext and tag. Log entry 7. -/
opaque gcmSeal : (key : BitVec 256) → (iv : Nat) → (aad text : List Byte) → List Byte × List Byte

/-- AES-256-GCM opened (R400): `none` where the tag fails. Log entry 7. -/
opaque gcmOpen : (key : BitVec 256) → (iv : Nat) → (aad text tag : List Byte) → Option (List Byte)

/-- A message protected inside an SPDM session as DSP0277 protects it (R394): the session's key, the messages sent before it, its code and
payload. Log entry 7. -/
opaque spdmSeal : (key : BitVec 256) → (count : Nat) → (code : Byte) → (payload : List Nat) → Nat

/-- The 4-byte direction salt that goes with a link key (R400), whose derivation the manual leaves to SPDM. Log entry 7. -/
opaque linkSalt : (key : BitVec 256) → W32

/-- The fabric source that feeds a transmit bundle of a die port (R225, R247): the manual gives no map. Log entry 9. -/
opaque bundleSource : (dp bundle : Nat) → Nat

/-- The digest of Tediade's microcode signing key, held in fuses (R391). Log entry 7. -/
opaque microcodeKey : Nat

/-- The Tediade key that signs debug tokens of SIGNER 0 (R404). Log entry 7. -/
opaque tokenKey : Nat

/-- The device identity certificate chain of slot 0 (R394). Log entry 7. -/
opaque certChain : Nat

/-- The fused AUTO_RESTART bit (R364, R374). Log entry 8. -/
opaque autoRestart : Bool

/-- The fused owner anchor, the SHA-384 digest of an owner public key, or none (R391). Log entry 8. -/
opaque ownerAnchor : Option (BitVec 384)

/-- The device serial number that a debug token names (R404). Log entry 8. -/
opaque deviceId : BitVec 128

/-- The mask ROM image (R391, R393). Log entry 8. -/
opaque romImage : Nat

/-- The silicon stepping, `BLK_REV.STEP` (R431). Log entry 8. -/
opaque stepping : BitVec 8

/-- The major and minor revision of a block type (R431), which the manual leaves to the part. Log entry 8. -/
opaque blockRev : (type : Nat) → BitVec 16

/-- The commissioning coefficients of R366 for each comb, in 1/65536: A, K in °C/W and K_b in °C/W. Log entry 8. -/
opaque thermA : (comb : Nat) → Nat
opaque thermK : (comb : Nat) → Nat
opaque thermKb : (comb : Nat) → Nat

/-- Hard repairs that a bank's fuses allow (R218, R223), by stack, pseudo-channel and bank. Log entry 8. -/
opaque repairBudget : (stack pc bank : Nat) → Nat

/-- A bank for the local page PPN[23:4] of a stack, from which R203's fixed mapping is made (`hbmBank`), and the row of the mapping;
the manual states neither. Log entry 9. -/
opaque bankOf : (page : Nat) → BitVec 8
opaque hbmRow : (page : Nat) → Nat

/-- The HBM word, by address / 4, that a word of a slice beyond its direct area caches, if its line is valid (R188); what the cache
holds at any time is a free value. Log entry 13. -/
opaque cacheLine : (free slice word : Nat) → Option Nat

/-- Whether an interrupted hard repair took, read from the stack at its next training (R363). Log entry 4. -/
opaque repairTook : (free row : Nat) → Bool

/-- The credit, in units of 64 bytes, that the sender of a flow holds when the hub sets up its engine pair (R229, R230). Log entry 85. -/
opaque startCredit : (flow : Nat) → Nat

/-- The power that one eighth of issue duty adds to a cell running a command of an opcode (R244), in 0.25 W. Log entry 86. -/
opaque dutyStep : (op : Nat) → Nat

/-- The issue duty, in eighths over all cells, that the load shed (R354) or the pacing of R352 leaves. Log entry 86. -/
opaque paceDuty : (free : Nat) → Nat

/-- The power at the lands, in W, of what the combs' regulators do not tell of (R352): HBM, store dies, optics, hub. Log entry 86. -/
opaque otherPower : (free : Nat) → Nat

/-- Whether a word of a life-log entry in MRAM is found uncorrectable (R322). Log entry 97. -/
opaque mramBad : (free entry : Nat) → Bool

/-- The TYPE of the events of R361 (a thermal warning) and R367 (a sensor `SENSOR_OK` again), which the table of R421 does not give. Log entry 36. -/
opaque warnType : Byte
opaque sensorOkType : Byte

/-- The hub time, in ns, of the peer on a port, as this hive measures it at a µs (R287, `CP_OFFSET`). Log entry 9. -/
opaque peerClock : (port now : Nat) → W32

/-- How many responses, beyond one, a hive can reserve space for (R285, R293). Log entry 73. -/
opaque responseSlots : Nat

/-- A PCI Express configuration register that the manual does not give (R438), by function and offset, after a value was
written to it (0 if none). Log entry 21. -/
opaque cfgWord : (fn reg : Nat) → (written : W32) → W32

end Sys2Proof.Config
end

