-- ==== Sys2Proof/Machine/State.lean ====
section
/-! DEFINITION. The state of the F48 block, as plain data, and the machine right after a full reset. Every record says
in its docstring which rule names what it holds. Sparse tables are lists of (key, value) pairs in one canonical form:
keys strictly rising and no value equal to the value an unlisted key has (`Tab`, kept by `Tab.set` of Machine/Ops.lean);
the memories are such tables of bytes, and an unlisted byte is 0 (R376). Times are in microseconds of `Clock.now`. -/

namespace Sys2Proof.Machine

/-- A sparse table in canonical form: keys strictly rising, no default value listed. -/
abbrev Tab (α : Type) := List (Nat × α)

/-- A byte memory in canonical form; an unlisted address reads as 0 (R376: zeroed before its unit is ready). -/
abbrev Mem := List Host.Cell

/-! ### Contexts and streams -/

/-- Context states (R15). Reset `free` (R376). -/
inductive CtxState where
  | free | opened | quiesced | zeroing | quiescing
deriving DecidableEq, Repr

/-- One stream's part of an open epoch (R116, R119, R217): the base; the positions appended under the epoch; the head
of the chain in the epoch's view, if the chain has a page; the pages copied, original to copy; and the pages allocated
by tagged commands. -/
structure EpStream where
  stream   : Nat
  base     : W32
  appended : Nat
  head     : Option Nat
  map      : List (Nat × Nat)
  fresh    : List Nat
deriving DecidableEq, Repr

/-- An open speculation epoch (R114 to R122): its slot and tag, its streams, its home and shadow ranges, the (cell,
home bank) pairs that have a shadow, the pending sums by counter, whether R131 marked it, and whether a SPEC_ABORT waits to
end it (R124). -/
structure Epoch where
  slot    : Nat
  tag     : Byte
  streams : List EpStream
  home    : Nat
  nbanks  : Nat
  shadow  : Nat
  written : List (Nat × Nat)
  adds    : List (Nat × W32)
  marked  : Bool
  aborting : Bool
deriving DecidableEq, Repr

/-- Step states (R348). -/
inductive StepSt where
  | none | opened | failed
deriving DecidableEq, Repr

/-- The step of a context (R330, R348): number, mode (R330 codes), the journal slot's words (R43), first failing
status, and the journal's COUNT and USED (R128). -/
structure StepRec where
  st      : StepSt := .none
  num     : W64 := 0
  mode    : BitVec 2 := 0
  journal : List W32 := []
  fail    : Byte := 0
  count   : Nat := 0
  used    : Nat := 0
deriving DecidableEq, Repr

/-- Everything the hub holds for one context: its state; the words of its entry (R10); its `CTX_ERR` (R433); RSLAB
(R187, 1 from LOAD); the recipe bound (R137); the SCOUT count (R154); its free list of KV pages (R20, R216) and the KV
pages counted against KV_PAGES (R211); open epochs and, for R125, the last fate of each tag (true: aborted); its step;
for each cell where an UPDATE has not yet taken effect, the entry still in force there (R18); the cells on which a
spill faulted since the last RESUME (R37); and whether its queues are to be disabled and zeroing has begun (R18). -/
structure CtxRec where
  st      : CtxState := .free
  ent     : List W32 := []
  err     : W32 := 0
  rslab   : Nat := 0
  recipe  : Option Nat := none
  scouts  : Nat := 0
  kvFree  : List Nat := []
  kvUsed  : Nat := 0
  epochs  : List Epoch := []
  fates   : List (Byte × Bool) := []
  step    : StepRec := {}
  stale   : List (Nat × List W32) := []
  noSpill : List Nat := []
  drained : Bool := false
deriving DecidableEq, Repr

/-- A stream entry (R19), every field 0 while `FREE`; `kvHas` is true while the chain has a page, which KV_HEAD names. -/
structure StreamRec where
  live     : Bool := false
  ctx      : Nat := 0
  seqPos   : W32 := 0
  kvHead   : BitVec 24 := 0
  kvHas    : Bool := false
  deadline : W16 := 0
  period   : W16 := 0
  start    : W32 := 0
  specOpen : BitVec 4 := 0
  lastAct  : W32 := 0
  miss     : W16 := 0
deriving DecidableEq, Repr

/-! ### Queues and commands -/

/-- Queue states (R49). -/
inductive QState where
  | disabled | running | halted | draining
deriving DecidableEq, Repr

/-- What one accepted doorbell released (R53, R22): the tail it set, the stream it named, the deadline as a `HUB_TIME`
value, and when it was written. -/
structure Release where
  upTo     : W32
  stream   : Option Nat
  deadline : Option W32
  bell     : Nat
deriving DecidableEq, Repr

/-- A fetched descriptor that has not started (R41): its absolute count, its words, the status and DETAIL of the first
failing check of R463, what its doorbell gave it, the waits already met (R60), and the SEQ that its queue expected (R51). -/
structure Fetched where
  count    : W32
  words    : List W32
  bad      : Option (Byte × W32)
  stream   : Option Nat
  deadline : Option W32
  bell     : Nat
  ready    : Nat
  met0     : Bool
  met1     : Bool
  expect   : W32
deriving DecidableEq, Repr

/-- A command queue: its registers (R47, R48), state and last error (R49), the SEQ expected next (R51), the fetched
descriptors in ring order, what its doorbells released, and since when its head has waited for room (R35). -/
structure QueueRec where
  baseLo   : W32 := 0
  baseHi   : W32 := 0
  cfg      : W32 := 0x4
  seq      : W32 := 0
  head     : W32 := 0
  tail     : W32 := 0
  cqBaseLo : W32 := 0
  cqBaseHi : W32 := 0
  cqHead   : W32 := 0
  cqTail   : W32 := 0
  st       : QState := .disabled
  lastErr  : Byte := 0
  expect   : W32 := 0
  fetched  : List Fetched := []
  rel      : List Release := []
  noRoom   : Option Nat := none
deriving DecidableEq, Repr

/-- Where the array stands in a running MATMUL (R93 to R95): the tile being filled and its next panel; for each bank
the tile it holds, with its accumulators in row order; and the tiles drained. -/
structure MmProg where
  tile    : Nat := 0
  panel   : Nat := 0
  bank0   : Option (Nat × List W32) := none
  bank1   : Option (Nat × List W32) := none
  drained : Nat := 0
deriving DecidableEq, Repr

/-- A running SCOUT (R146, R147, R154): whether it is checked for margin misses;
the scout assigned, or the store die of the digital path; whether it was restarted, whether it is paused for a relock,
and since when it waits for a ready scout or for the relock. -/
structure ScoutRun where
  checked   : Bool
  unit      : Option Nat
  die       : Option Nat
  restarted : Bool
  paused    : Bool
  since     : Nat
deriving DecidableEq, Repr

/-- A running collective at this member (R312, R320): the group entry's and the command's fields; credits from the
successor; the ranks from which a GRANT has arrived; by shard and chunk, the partials sent, the final sums kept, the
sums that wait for a credit, the final chunks sent and received, and those to be forwarded; whether a non-finite value was
found; the TOKEN held (PASS, NF), and whether rank 0 has sent its first; when the last message arrived (R321); and the
messages that wait for the context's banks; and whether it has sent its initial GRANTs. -/
structure CollRun where
  group    : Nat
  gen      : Nat
  opseq    : W32
  rank     : Nat
  ranks    : List W16
  op       : Nat
  red      : Nat
  trap     : Bool
  chunkLog : Nat
  sh       : Nat
  root     : Nat
  mc       : Bool
  credits  : Nat
  granted  : List Nat
  sentP    : List (Nat × Nat)
  doneP    : List (Nat × Nat)
  waitP    : List (Nat × Nat × List W32)
  sentF    : List (Nat × Nat)
  doneF    : List (Nat × Nat)
  fwdF     : List (Nat × Nat × List Byte)
  nf       : Bool
  token    : Option (Bool × Bool)
  sentT    : Bool
  lastMsg  : Nat
  inbox    : List (W16 × List Byte)
  begun    : Bool
deriving DecidableEq, Repr

/-- A running command, from its start (R56, R31) to its completion record (R66): the descriptor; what the doorbell
gave it; the logical cell and the twin partner; when it started and the time its limit was suspended (R356); whether
it has begun to execute (R41); the status and DETAIL once its work has ended; the epoch slot of a tagged command;
whether it belongs to the step (R330); the state of its engine; how far a command that uses fabric memory has come
(0: nothing requested, 1: loads, 2: stores), what its loads and atomics returned by address or element index, and the
first failure met (R292, R297); since when the drain timer of its FFAB wait runs (R301); the digest of the bytes
written, where its engine keeps it (R327); the cells on which a hub or store-die command needs its context's banks, and
since when its access waits for them (R461); whether the condition of an EVENT_WAIT has been met (R60, R64); the extension block of a
VSTREAM as it was read (R157); the list of a SCOUT that is still to be recorded, and whether its record has been appended (R130); and
the SEQ_POS that a SCOUT or GATHER_KV found as it started (R141, R153). -/
structure Run where
  id        : CmdId
  words     : List W32
  stream    : Option Nat
  deadline  : Option W32
  cell      : Option Nat
  partner   : Option Nat
  start     : Nat
  suspended : Nat
  suspEnded : Bool
  begun     : Bool
  res       : Option (Byte × W32)
  slot      : Option Nat
  inStep    : Bool
  mm        : Option MmProg
  scout     : Option ScoutRun
  coll      : Option CollRun
  phase     : Nat
  remote    : List (Nat × List Byte)
  err       : Option (Byte × W32)
  fabSince  : Option Nat
  dig       : Option W64
  wants     : List Nat
  wantAt    : Option Nat
  met       : Bool
  ext       : Option (List W32)
  list      : Option (List Byte)
  logged    : Bool
  seqPos    : Nat
deriving DecidableEq, Repr

/-! ### Cells -/

/-- The cell state a context switch saves and restores (R33) that outlives a command: both accumulator banks. -/
structure CellState where
  acc0 : List W32 := []
  acc1 : List W32 := []
deriving DecidableEq, Repr

/-- Banks of a context resident on a cell (R35, R175): the physical bank of each logical bank, and when the context
last left the cell. -/
structure Resident where
  ctx  : Nat
  map  : List Nat
  away : Nat
deriving DecidableEq, Repr

/-- A logical cell: the physical cell of its comb that holds the number (none: absent, R11), whether it is ready
(R382), whether a spare is taking the number over (R339), whether its clock island is held (R323), whether it is under
cell BIST after a twin mismatch (R328); the context whose state is in the cell, the B-class holder and since when its slice runs (R32), the round-robin position; the command
running and the command picked that has not started (R31); the resident banks, the contexts whose banks are in their
spill area, with the number of banks written there (R35, R37); the live cell state and the saved ones by context (R33); the clock in force (R372), in MHz;
and what the slew governor has admitted: the issue duty in eighths, the power in 0.25 W, and whether a picked command waits for it (R244). -/
structure CellRec where
  phys    : Option Nat := none
  ready   : Bool := false
  takeover : Bool := false
  held    : Bool := false
  bist    : Bool := false
  cur     : Option Nat := none
  holder  : Option Nat := none
  slice   : Nat := 0
  rr      : Nat := 0
  run     : Option CmdId := none
  picked  : Option CmdId := none
  res     : List Resident := []
  spilled : List (Nat × Nat) := []
  acc     : CellState := {}
  saved   : Tab CellState := []
  mhz     : Nat := 1500
  duty    : Nat := 0
  power   : Nat := 0
  gated   : Bool := false
deriving DecidableEq, Repr

/-- A physical cell (R339, R340): retired, the spare vias used in its worst bundle by bundle key (bank, or 64 for the
control bundle), and its `DEGRADED` banks (R179). -/
structure PhysCell where
  retired  : Bool := false
  vias     : Tab Nat := []
  degraded : W64 := 0
deriving DecidableEq, Repr

/-- A reserve pair (R27, R341): its number, its two logical cells, and which of them were lost. -/
structure Pair where
  n      : Nat
  a      : Nat
  b      : Nat
  lostA  : Bool
  lostB  : Bool
deriving DecidableEq, Repr

/-! ### Memory -/

/-- The key a sector was last written under (R395, R396): none for stored bytes written as zero, else the 512-bit key
pair of the data key and the tweak key. -/
abbrev KeyTag := Option (BitVec 512)

/-- A page of the KV pool (R211, R216): free, or taken by a context. Default `notPool`. -/
inductive PoolPage where
  | notPool | free | taken (ctx : Nat)
deriving DecidableEq, Repr

/-- The value a table entry had before PT_WRITE or PT_CLEAR changed it, which a guard or forager may still cache until
an INVAL (R184): table page, index, old entry, and the serial number of the change. -/
structure OldEntry where
  ppn    : Nat
  index  : Nat
  entry  : W64
  serial : Nat
deriving DecidableEq, Repr

/-- An INVAL that was made (R184, R187): context, first VPN, pages (0 for all), serial number. -/
structure InvalRec where
  ctx    : Nat
  first  : Nat
  count  : Nat
  serial : Nat
deriving DecidableEq, Repr

/-- What is known of a row (R218), which page × 64 + pseudo-channel names (R203): whether it is soft-repaired and on its
die's pending list, whether MRAM's list holds it (R221), its hard repairs, whether a thermal trip abandoned one (R363), and
the times of its corrected errors. -/
structure RowRec where
  soft   : Bool := false
  kept   : Bool := false
  hard   : Nat := 0
  broken : Bool := false
  errs   : List Nat := []
deriving DecidableEq, Repr

/-- A host access through BAR4 that waits for its HBM (R207, R382): the context, the virtual address, how many bytes are read, or the bytes
written (R442). -/
structure HostAcc where
  ctx  : Nat
  addr : Nat
  len  : Nat
  data : Option (List Byte)
deriving DecidableEq, Repr

/-- The memories: HBM bytes by physical address (R203) as plaintext, with the key of each page and of the sectors
written under another, the poisoned 32-bit words, and those of them that a scrub found in a cache line (R205); the scratchpad by logical cell × 2^24 + physical bank ×
2^18 + offset (R175) and its poisoned words (R177); the direct area by SPACE 3 offset (R190), its poisoned words and
its page owners (R191); host memory; the KV pool (R216); `RETIRED_PAGES`, those of its entries not yet in MRAM, and the
pages retired past its end (R221); rows under repair (R218), the lanes remapped at a training and those of
them not yet in MRAM, as (stack, lane) (R224), the bank budgets used by stack × 2^14 + pseudo-channel ×
2^8 + bank (R223); the stale translations (R184); and the BAR4 accesses that wait (R442). -/
structure MemRec where
  hbm       : Mem := []
  pageKey   : Tab KeyTag := []
  secKey    : Tab (Option KeyTag) := []
  hbmPoison : Tab Bool := []
  lines     : List Nat := []
  spad      : Mem := []
  spadPoison : Tab Bool := []
  direct    : Mem := []
  directPoison : Tab Bool := []
  directOwner : Tab (Option Nat) := []
  host      : Mem := []
  pool      : Tab PoolPage := []
  retired   : List W32 := []
  retiredNew : List W32 := []
  retiredOver : List Nat := []
  rows      : Tab RowRec := []
  remaps    : List (Nat × Nat) := []
  remapsNew : List (Nat × Nat) := []
  budget    : Tab Nat := []
  oldPt     : List OldEntry := []
  invals    : List InvalRec := []
  serial    : Nat := 0
  bar4      : List HostAcc := []
deriving DecidableEq, Repr

/-- The two token buckets of a partition at a stack (R207), in bytes; and the round-robin position is kept per stack. -/
structure Bucket where
  g : Nat := 0
  c : Nat := 0
deriving DecidableEq, Repr

/-! ### Scouts -/

/-- Scout states (R138). Reset `off`. -/
inductive ScoutSt where
  | off | ready | cal | fenced
deriving DecidableEq, Repr

/-- A scout (R138, R145): its state, its lock-loss pauses, consecutive failed calibrations, when its last calibration
ended, when it last left `SCOUT_READY` (R147), and the SCOUT it runs. -/
structure ScoutRec where
  st     : ScoutSt := .off
  losses : Byte := 0
  fails  : Nat := 0
  last   : Nat := 0
  left   : Nat := 0
  run    : Option CmdId := none
deriving DecidableEq, Repr

/-! ### Base layer and lasers -/

/-- Die-port states (R254). Reset `down`. -/
inductive DpState where
  | down | training | up | disputed
deriving DecidableEq, Repr

/-- A die port: its state and its retrains (R254), whether its training has ended (R383). -/
structure DiePort where
  st       : DpState := .down
  retrains : Nat := 0
  ended    : Bool := false
deriving DecidableEq, Repr

/-- One bundle of one direction: its retired lanes (R235), whether a retrain retired it whole (R236), and whether its lanes are masked
since its source gave no light (R250). -/
structure Bundle where
  lost : W16 := 0
  out  : Bool := false
  dark : Bool := false
deriving DecidableEq, Repr

/-- A flit in a replay buffer of a die port (R231): when it was last sent, and the dies that have not acknowledged it (R226). -/
structure DieSent where
  flit : List Byte
  at_  : Nat
  left : List Nat
deriving DecidableEq, Repr

/-- A transmit bundle (R231): the next LSEQ, the replay buffer (oldest first), the NAKs in a row of the oldest flit, when the last NAK
fell, whether a retry is due, and whether its pair is under retrain (R236). -/
structure DieTx where
  next     : Byte := 0
  replay   : List DieSent := []
  naks     : Nat := 0
  stamp    : Nat := 0
  due      : Bool := false
  training : Bool := false
deriving DecidableEq, Repr

/-- A flow at its sender (R229, R230): the die that sends it, the credit used and the credit returned, in units of 64 bytes. -/
structure FlowRec where
  src   : Option Nat := none
  used  : Nat := 0
  given : Nat := 0
deriving DecidableEq, Repr

/-- A flow at a receiving die (R229): what has arrived of the transfer in progress, and the transfers acknowledged. -/
structure FlowIn where
  part : List Byte := []
  done : Nat := 0
deriving DecidableEq, Repr

/-- The receiving end of a bundle pair (R231): the LSEQ expected next, and whether flits are being discarded after a
failed one. -/
structure DieRx where
  next    : Byte := 0
  failing : Bool := false
deriving DecidableEq, Repr

/-- A grant-ledger entry (R226): the transmit bundle that a receive bundle hears, and the grant it is to move to once
its flows drain (R228); and when the pair last reported bytes (R227 rule 4). -/
structure Grant where
  src   : Option (Nat × Nat) := none
  next  : Option (Nat × Nat) := none
  since : Nat := 0
deriving DecidableEq, Repr

/-- Source states (R256). Reset `off`. -/
inductive SrcState where
  | active | armed | replaced | retired | spareIdle | spareArmed | spareWarm | spareInUse | off
deriving DecidableEq, Repr

/-- A comb source (R248, R256): state, partner code, margin in 0.01 dB, since when its margin has been at −0.5 dB or
better, whether a replacement of it is under way and with which substitute (source number, 0x7E for EL0, 0x7F for
EL1), whether the substitute is locked, and whether its lanes are masked. -/
structure SrcRec where
  st      : SrcState := .off
  partner : Nat := 0
  margin  : Int := 0
  goodAt  : Option Nat := none
  subst   : Option Nat := none
  warm    : Bool := false
  masked  : Bool := false
deriving DecidableEq, Repr

/-- Inlet states (R256). Reset `dark`. -/
inductive ElState where
  | dark | ready | inUse | bad
deriving DecidableEq, Repr

/-- An external inlet (R252, R256). -/
structure ElRec where
  st    : ElState := .dark
  subst : Nat := 0
  power : Int := 0
deriving DecidableEq, Repr

/-- The base layer and the lasers. `slew` holds, for each comb, the last ten 1 µs power samples, newest first (R243);
`flows` holds the flows by ID, `inflow` by ID × 32 + receiving die; `rise` and `fall` what the governor has admitted since the last sample for
each comb, in 0.25 W (R244, R245); `sdHeld` marks the store dies whose clock island is held (R323). -/
structure Base where
  dp      : Tab DiePort := []
  bundles : Tab Bundle := []
  tx      : Tab DieTx := []
  rx      : Tab DieRx := []
  ledger  : Tab Grant := []
  reports : Tab Nat := []
  rings   : List Ring := []
  wrong   : List Ring := []
  slew    : Tab (List Nat) := []
  rise    : Tab Nat := []
  fall    : Tab Nat := []
  flows   : Tab FlowRec := []
  inflow  : Tab FlowIn := []
  src     : Tab SrcRec := []
  el0     : ElRec := {}
  el1     : ElRec := {}
  rr16    : Nat := 0
  sdHeld  : BitVec 8 := 0
deriving DecidableEq, Repr

/-! ### Chaver links, routing and fabric memory -/

/-- Port states (R287). Reset `off`. -/
inductive CpState where
  | off | training | check | up | miscabled | down
deriving DecidableEq, Repr

/-- A flit as the port engines handle it: the fields of R261. -/
structure Flit where
  dst     : W16
  src     : W16
  type    : BitVec 4
  tc      : BitVec 3
  vcd     : Bool
  mc      : Bool
  hops    : BitVec 7
  len     : Byte
  key     : Byte
  lseq    : W16
  ackSeq  : W16
  ackV    : Bool
  nak     : Bool
  xoff    : BitVec 12
  otc     : BitVec 3
  payload : List Byte
deriving DecidableEq, Repr

/-- A flit waiting at a port: since when it has been eligible at the head of its queue (R269), when it came to this hive
(R293), the port and virtual channel whose receive buffer holds it, and whether in the shared pool (R270; none: it starts here),
and whether it is the first of its message. -/
structure Queued where
  flit    : Flit
  since   : Nat
  entered : Nat
  via     : Option (Nat × Nat × Bool)
  first   : Bool
deriving DecidableEq, Repr

/-- A flit in a replay buffer: as it left its queue, for another link (R272, R293); as it was first sent on this one, in clear
and on the wire (R400); and when it was last sent (R263). -/
structure Sent where
  orig : Queued
  flit : Flit
  wire : List Byte
  at_  : Nat
deriving DecidableEq, Repr

/-- A handover of a member's hash set (R272, R273). `takeover`: this hive's failed port awaits the reply on a
substitute. `join`: the returned member awaits its reply. -/
inductive Handover where
  | none
  | takeover (subst : Nat) (since : Nat) (sent : Nat)
  | join (subst : Nat) (since : Nat)
deriving DecidableEq, Repr

/-- Link-key states (R407). -/
inductive LinkSt where
  | clear | keying | secure
deriving DecidableEq, Repr

/-- A Chaver port: state and cause, trainings (R287); the peer seen (R266); T_RTT in ns, headroom in bytes
(R265, R270). `queue` and `resend` are those of the hash set whose number (R271: direction × 4 + member, or 24 + XP for
an express port) is the record's: the waiting flits (R269), and the flits to be sent first after a takeover (R272); `hand`
is the handover of that member, and `stopBy` the failed port whose takeover the set waits for. The replay buffer (oldest first),
the next LSEQ, NAKs in a row (R263); the last LSEQ received in order and whether later flits are being discarded; the bytes
held in the receive buffer by virtual channel, in the reservations and in the shared pool (R270), and the join markers in it: the
returned port, the last LSEQ received before it, and whether it lies in the pool (R273); the XOFF state sent and the one received; when the last valid flit arrived
(R264), when the port went down, locked (R267), sent an identity flit (R266); the port on which a takeover reply is owed,
while acceptance is stopped (R272); TC 4 slots used in the running µs (R268); the weighted-round-robin class and credit
(R269), and by class the input queue and channel served last; the link key state, keys, IV counts, when the key was set, and tag failures (R400 to R407). -/
structure PortRec where
  st       : CpState := .off
  cause    : BitVec 4 := 0
  trains   : Byte := 0
  seen     : W32 := 0
  trtt     : Nat := 0
  headroom : Nat := 0
  queue    : List Queued := []
  resend   : List Queued := []
  stopBy   : Option Nat := none
  replay   : List Sent := []
  next     : W16 := 0
  naks     : Nat := 0
  rxLast   : W16 := 0xFFFF
  failing  : Bool := false
  rxBytes  : List Nat := []
  rxPool   : List Nat := []
  marks    : List (Nat × W16 × Bool) := []
  xoffTx   : BitVec 12 := 0
  xoffRx   : BitVec 12 := 0
  lastRx   : Nat := 0
  downAt   : Nat := 0
  lockAt   : Nat := 0
  idAt     : Nat := 0
  hand     : Handover := .none
  stopFor  : Option Nat := none
  tc4At    : Nat := 0
  tc4Used  : Nat := 0
  wrrTc    : Nat := 0
  wrrLeft  : Nat := 0
  rrIn     : List Nat := []
  link     : LinkSt := .clear
  txKey    : Option (BitVec 256) := none
  rxKey    : Option (BitVec 256) := none
  txCount  : Nat := 0
  rxCount  : Nat := 0
  keyAt    : Nat := 0
  authFail : W16 := 0
deriving DecidableEq, Repr

/-- A message this hive originates that is not yet injected: held by HOLD (R281), by a slot (R284) or by throttling
(R283). -/
structure Message where
  dst     : W16
  tc      : BitVec 3
  key     : Byte
  mc      : Bool
  payload : List Byte
deriving DecidableEq, Repr

/-- An MFM request of this hive (R291, R293, R297): tag, command (none once the command has ended without it), its context
and whether the command belongs to a step, destination, header fields, data, whether it travels in TC 3 (R268), whether it has been
sent, when it was first and last sent, how many copies were sent and how many of them this hive itself discarded (R297), the
OPID of an atomic, the key under which the command keeps its result, and whether the command's queue has been enabled anew since (R50),
so that a later command may bear its name. -/
structure MfmReq where
  tag    : W32
  id     : Option CmdId
  ctx    : Nat
  inStep : Bool
  domain : W16
  dst    : W16
  addr   : W64
  opid   : W32
  op     : BitVec 4
  aop    : BitVec 4
  aw     : Bool
  size   : Nat
  data   : List Byte
  bulk   : Bool
  sent   : Bool
  first  : Nat
  last   : Nat
  copies : Nat
  lost   : Nat
  key    : Nat
  prior  : Bool
deriving DecidableEq, Repr

/-- A record of the deduplication window (R299): the OPID, the arrival time, the status and the result. -/
structure Dedup where
  opid   : W32
  at_    : Nat
  status : Byte
  result : List Byte
deriving DecidableEq, Repr

/-- The last atomic sent to a destination under an OPID slot (R298): whether it has completed, and when its last copy
was sent. -/
structure OpidRec where
  opid : W32 := 0
  done : Bool := true
  last : Nat := 0
deriving DecidableEq, Repr

/-- A request that waits at the guard (R294): its source and payload, when it arrived (R299), and the valid entry of the fabric domain table
that held its DOMAIN then: a written entry applies to requests that arrive after the write only (R295). -/
structure Waiting where
  src     : W16
  payload : List Byte
  at_     : Nat
  dom     : Option (Nat × W32)
deriving DecidableEq, Repr

/-- A group entry (R305) with its operation counter (R308), and messages of operations not yet started here (R312). -/
structure GrpRec where
  words : List W32 := []
  opseq : W32 := 0
  early : List (W16 × List Byte) := []
deriving DecidableEq, Repr

/-- The fabric: ports; the routing tables, active and shadow (R278), HOLD, DRAINED and SWAP_REFUSED (R281); messages
not yet injected; the injection rate of each direction in 1/16 (R283, 16 is unlimited), when it was last updated, and by
direction the flits injected that its rate had not covered at a time (log entry 75); the scheduled-mode table, the µs at which `HUB_TIME` reaches `SCHED_START`, and
the slot in force with the ns at which injection stops (R284); fabric domain table (R295); MFM requests, tags, OPID counters (R298) and the deduplication
window by HBM record (R299, R300), the requests that wait at the guard for memory (R382) and the (context, cell) pairs whose
banks they and accesses to the local windows wait for (R461); when `FAB_CTRL.EN` was set, whether remote atomics may be sent; the groups (R304); the bytes received
of messages that are not complete, and the transit messages whose first flit has passed, both by source, destination,
class and key. -/
structure Fabric where
  ports    : Tab PortRec := []
  hiveAct  : Tab Byte := []
  hiveSh   : Tab Byte := []
  colAct   : Tab W32 := []
  colSh    : Tab W32 := []
  held     : Bool := false
  drained  : Bool := false
  refused  : Bool := false
  inject   : List Message := []
  rate     : Tab Nat := []
  congAt   : Nat := 0
  injAt    : Nat := 0
  injected : Tab Nat := []
  sched    : Tab W32 := []
  schedAt  : Int := 0
  slot     : Option (Nat × Nat) := none
  dom      : Tab (W32 × W32) := []
  reqs     : List MfmReq := []
  nextTag  : W32 := 0
  opids    : Tab W32 := []
  opidRec  : Tab OpidRec := []
  dedup    : Tab (Option Dedup) := []
  serveQ   : List Waiting := []
  wants    : List (Nat × Nat) := []
  enAt     : Nat := 0
  atomOk   : Bool := false
  grp      : Tab GrpRec := []
  part     : Tab (List Byte) := []
  mid      : List Nat := []
deriving DecidableEq, Repr

/-! ### Safety, power and heat -/

/-- Health states (R348). -/
inductive UnitSt where
  | ok | probation | fenced | retired
deriving DecidableEq, Repr

/-- A unit of the health score (R342 to R344): state, score, worst input, since when its score has been high, when its
last PROBATION signal was sent, whether one is held back, and the times of its corrected errors (R322). -/
structure HealthRec where
  st     : UnitSt := .ok
  score  : Nat := 0
  worst  : Nat := 0
  highAt : Option Nat := none
  signal : Option Nat := none
  defer  : Bool := false
  errs   : List Nat := []
deriving DecidableEq, Repr

/-- Supply states (R374). -/
inductive Supply where
  | ok | warn | resume
deriving DecidableEq, Repr

/-- Sensor record (R366, R367, R374): reading and model estimate in 0.25 °C, suspect, since when it deviates from its
model and from its neighbours, and since when it agrees. -/
structure Sensor where
  reading : Int := 0
  model   : Int := 0
  suspect : Bool := false
  devAt   : Option Nat := none
  nbAt    : Option Nat := none
  okAt    : Option Nat := none
deriving DecidableEq, Repr

/-- What a persistent write writes (R359). `flush` carries the retirements and pending rows made as life-log flushes
(R221); `hard` a row, and whether a HARD_GO asked for it; `bank` a microcode bank image; `pointer` the active-bank pointer (R386); `kek` a sealed
KEK (R397); `svn` a raised MIN_SVN (R392). -/
inductive PWrite where
  | flush
  | hard (row : Nat) (go : Bool)
  | bank (b : Bool) (image : BankImage)
  | pointer (b : Bool)
  | kek (id : Nat) (k : BitVec 256)
  | svn (n : Nat)
deriving DecidableEq, Repr

/-- A supply excursion (R353, R421): when it began, and its extreme value in mV. -/
structure Excursion where
  since   : Nat
  extreme : Nat
deriving DecidableEq, Repr

/-- Power, heat and clocks: VIN_MAIN in mV; the supply state and since when VIN_MAIN has been at 11.5 V; the persistent
writes waiting in request order and the one running (R359); a main-power reset postponed behind it (R357); VHOLD as last
measured, in 10 mV (R358); the excursions in force (R353): warning, brownout, over-voltage, VIN_AUX, and when VIN_AUX was back above 3.05 V (none while it is low); the sensors, the
control values of the last hour of each (R343: those not exceeded since, with their times); the combs' total power of the last 100 µs
samples in W, newest first, and whether the power cap paces (R352); the level of each thermal
domain (0 normal, 1 warning, 2 throttle, R360), each comb's clock ceiling in MHz (R362), THERMTRIP_N asserted, since
when every sensor has been below 80 °C (R364). -/
structure Power where
  vinMain  : Nat := 0
  supply   : Supply := .ok
  riseAt   : Option Nat := none
  writes   : List PWrite := []
  running  : Option PWrite := none
  resetDue : Bool := false
  vhold    : W16 := 0
  dip      : Option Excursion := none
  brown    : Option Excursion := none
  overV    : Option Excursion := none
  aux      : Option Excursion := none
  auxEnd   : Option Nat := none
  sensors  : Tab Sensor := []
  peaks    : Tab (List (Nat × Int)) := []
  totals   : List Nat := []
  capped   : Bool := false
  levels   : Tab Nat := []
  combMhz  : Tab Nat := []
  tripped  : Bool := false
  coolAt   : Option Nat := none
deriving DecidableEq, Repr

/-! ### Security and microcode -/

/-- Debug states (R407). -/
inductive DbgSt where
  | locked | challenged | unlocked
deriving DecidableEq, Repr

/-- Where an SPDM connection stands (R394). -/
inductive SpdmSt where
  | start | version | capabilities | algorithms
deriving DecidableEq, Repr

/-- An SPDM session (R394): whether the handshake is complete, its key, its transport, its number, and how many
records it has sent. -/
structure Session where
  ready : Bool
  key   : BitVec 256
  via   : Transport
  id    : Nat
  sent  : Nat
deriving DecidableEq, Repr

/-- Activation phases (R386): waiting for the pointer write, waiting for step boundaries, or the rewrite of a CANCEL. -/
inductive UcPhase where
  | idle | pointer | waiting | undo
deriving DecidableEq, Repr

/-- The security root and the microcode banks: key slots (R398), the wrap registers, the hub's table key and
deduplication key (R396), the KEK and the sealed one (R397); the debug state, nonce and whether it may still serve a SUBMIT, the result of the last SUBMIT, the
token registers, scopes (R404), whether DATA waits for the teardowns it began (R405), and the owner key presented; MIN_SVN (R391), the measurements 1 to 5 (R393); the SPDM connections and sessions; the
banks in SPI NOR, the active-bank pointer in MRAM, the bank in use, verification results (R385, R387), the activation
phase, and whether a bank write is allowed to activate on its own. -/
structure Sec where
  keys      : Tab KeyTag := []
  wrap      : Tab W32 := []
  tableKey  : BitVec 512 := 0
  dedupKey  : BitVec 512 := 0
  kek       : Option (BitVec 256) := none
  sealedKek : Option (BitVec 256) := none
  dbg       : DbgSt := .locked
  nonce     : BitVec 256 := 0
  fresh     : Bool := false
  dbgResult : Byte := 0
  token     : Tab W32 := []
  scope     : BitVec 4 := 0
  dataDue   : Bool := false
  ownerKey  : Option (BitVec 768) := none
  minSvn    : Nat := 0
  meas      : Tab (BitVec 384) := []
  spdmHp0   : SpdmSt := .start
  spdmI3c   : SpdmSt := .start
  sessions  : Tab (Option Session) := []
  bankA     : BankImage := ⟨0, 0, 0, 0⟩
  bankB     : BankImage := ⟨0, 0, 0, 0⟩
  pointer   : Bool := false
  active    : Bool := false
  fallback  : Bool := false
  validA    : Bool := false
  validB    : Bool := false
  uc        : UcPhase := .idle
  i3cAddr   : Option (BitVec 7) := none
deriving DecidableEq, Repr

/-! ### Counters and life log -/

/-- A counter bank with its tag (R411, R414); of a Chaver port also the flit slots that carried data, and those in which flits waited for
credit, since its cycles were last counted (R410). -/
structure Bank where
  valid  : Bool := false
  counting : Bool := false
  q      : Nat := 0
  ctx    : Nat := 0
  seq    : W32 := 0
  ids    : W32 := 0
  busy   : BitVec 48 := 0
  idle   : BitVec 48 := 0
  stall  : List (BitVec 48) := []
  sent   : Nat := 0
  held   : Nat := 0
deriving DecidableEq, Repr

/-- The two banks of an engine (R411). -/
structure Banks where
  cur  : Bank := {}
  last : Bank := {}
deriving DecidableEq, Repr

/-- An event record of the life log (R421). -/
structure LogEvent where
  type  : Byte
  unit  : BitVec 9
  mins  : W32
  data0 : W32
  data1 : W32
deriving DecidableEq, Repr

/-- A life-log image (R420): flush count, power-on minutes, events written, resets by cause, temperature minutes by
domain × 32 + bin, errors by unit × 120 + month, laser means by source × 4096 + day, and the event ring by slot. -/
structure LogImage where
  flushes : W32 := 0
  minutes : W32 := 0
  events  : W32 := 0
  resets  : Tab W32 := []
  temps   : Tab W32 := []
  errors  : Tab W32 := []
  laser   : Tab Int := []
  ring    : Tab (Option LogEvent) := []
deriving DecidableEq, Repr

/-- The life log (R420 to R425): the image in MRAM, the image the hub accumulates, the events waiting for a flush, the
refused flushes, a refused flush pending, LOST, when the last flush ran, LOG_CTRL as kept in MRAM, and the sums of the
laser margins of the running day (source to sum and samples). -/
structure LifeLog where
  mram    : LogImage := {}
  acc     : LogImage := {}
  wait    : List LogEvent := []
  refused : W16 := 0
  pending : Bool := false
  lost    : Bool := false
  lastAt  : Option Nat := none
  ctrl    : W32 := 0x8000003C
  laser   : Tab (Int × Nat) := []
deriving DecidableEq, Repr

/-! ### Readiness, pins and the outside -/

/-- Bring-up and reset (R375 to R390): the levels of the pins, VIN_AUX in range, rails up; which steps have ended; die
and stack readiness; LOCKED; the die under reset, or waiting for it, and how many of its steps have ended; CAUSE; the JTAG instruction
register (R453; its codes: log entry 98) and the boundary register; and the PCI Express
configuration registers written, by function × 4096 + offset; the size code of BAR4, 2^n MiB, 0 where it is disabled (R438); the functions whose
MSI-X vectors are masked (R441). -/
structure Boot where
  resetN    : Bool := false
  perstN    : Bool := false
  pwrGood   : Bool := false
  mgmt      : Bool := false
  rails     : Bool := false
  hub       : Bool := false
  hp0       : Bool := false
  hp0Ended  : Bool := false
  sdReady   : BitVec 8 := 0
  sdEnded   : BitVec 8 := 0
  hbmUp     : BitVec 16 := 0
  stackOut  : BitVec 16 := 0
  combEnded : BitVec 8 := 0
  srcEnded  : Tab Bool := []
  locked    : Bool := false
  die       : Option Nat := none
  dieWait   : Option Nat := none
  dieStep   : Nat := 0
  cause     : BitVec 4 := 0
  vfs       : Bool := false
  jtag      : BitVec 5 := 1
  scan      : BitVec 46 := 0
  cfg       : Tab W32 := []
  bar4      : Nat := 10
  msixMask  : List Nat := []
deriving DecidableEq, Repr

/-- What leaves the block: MSI-X messages, read completions, flits, messages of the management protocols, pin changes. -/
inductive Out where
  | msix (fn vector : Nat)
  | readDone (bytes : List Byte)
  | unsupported
  | completerAbort
  | cfgDone (value : W32)
  | cfgRetry
  | dieFlit (dp bundle : Nat) (flit : List Byte)
  | flit (port : Nat) (bytes : List Byte)
  | spdm (via : Transport) (code : Byte) (payload : List Nat)
  | secured (via : Transport) (session record : Nat)
  | pldmEvent (sensor : Nat) (value : Nat)
  | pldmResult (verify : Bool) (code : Nat)
  | i3cData (value : W32)
  | ibi
  | aer
  | jtag (value : W64)
  | pins (value : Option (BitVec 46))
deriving DecidableEq, Repr

/-- The clock: µs since power was first applied, the µs at which the hub last left reset (R21). -/
structure Clock where
  now   : Nat := 0
  epoch : Nat := 0
deriving DecidableEq, Repr

/-- Why the block stops on a command. No command of the F48 table stops the block: the manual gives every one an
effect, so the type has no constructor in use; it is closed and holds the one reason a meaning could give. -/
inductive Fault where
  /-- Raised by no meaning: an access to a device whose behaviour the manual leaves out. Safe: the run stops. -/
  | noSuchDevice
deriving DecidableEq, Repr

/-- Why the model refuses a command. -/
inductive Refusal where
  /-- The row has no meaning yet. Raised only by an arm of `exec`. Safe: the run stops. -/
  | notModelled (mnemonic : String)
deriving DecidableEq, Repr

/-- The state of the block. `regs` holds every register whose value is stored, by BAR0 offset, whether host software
or the F48 writes it; an unlisted one holds its reset value (Machine/Regs.lean). `evt` holds the committed event
counters (R59), `evtSel` the `EVT_SEL` of each doorbell page. `cntBanks` is keyed page/4096 × 256 + engine, `cntSnap`
by page. `msixPend` holds the pending vectors of masked functions (R441). `out` is newest first. `free` counts the free values drawn. -/
structure State where
  pending  : List Instr := []
  clock    : Clock := {}
  regs     : Tab W32 := []
  ctx      : Tab CtxRec := []
  str      : Tab StreamRec := []
  queue    : Tab QueueRec := []
  evtSel   : Tab W32 := []
  evt      : Tab W32 := []
  runs     : List Run := []
  cells    : Tab CellRec := []
  phys     : Tab PhysCell := []
  pairs    : List Pair := []
  mem      : MemRec := {}
  buckets  : Tab Bucket := []
  rrStack  : Tab Nat := []
  scouts   : Tab ScoutRec := []
  base     : Base := {}
  fab      : Fabric := {}
  fenced   : Bool := false
  mech     : Byte := 0
  health   : Tab HealthRec := []
  power    : Power := {}
  sec      : Sec := {}
  cntBanks : Tab Banks := []
  cntSnap  : Tab Banks := []
  log      : LifeLog := {}
  boot     : Boot := {}
  msixPend : List (Nat × Nat) := []
  vfMap    : Tab W32 := []
  out      : List Out := []
  free     : Nat := 0
deriving DecidableEq, Repr

/-- The block right after a full reset (R375, R376): no step of the power-on order has run, every table is empty,
every register holds its reset value, the pins are low. -/
def State.reset : State := {}

end Sys2Proof.Machine
end

