-- ==== Sys2Proof/Machine/Ops.lean ====
section
/-! DEFINITION. The named operations over the tables, the memories and the records of the state, and the bit-field and
byte-order helpers. Every meaning reads and writes through them. -/

namespace Sys2Proof.Machine

/-! ### Words and bytes -/

/-- The bits [hi:lo] of a word as a number. -/
def fld (w : W32) (hi lo : Nat) : Nat := (w.toNat >>> lo) % 2 ^ (hi + 1 - lo)

/-- Bit `i` of a word. -/
def bit (w : W32) (i : Nat) : Bool := w.getLsbD i

/-- A word with the bits [hi:lo] replaced by the low bits of `v`. -/
def putFld (w : W32) (hi lo v : Nat) : W32 :=
  let n := hi + 1 - lo
  BitVec.ofNat 32 (w.toNat - (fld w hi lo) * 2 ^ lo + (v % 2 ^ n) * 2 ^ lo)

/-- A Bool as 0 or 1. -/
def b2n (b : Bool) : Nat := if b then 1 else 0

/-- The signed value of an n-bit number. -/
def sext (n : Nat) (v : Nat) : Int := if v % 2 ^ n < 2 ^ (n - 1) then Int.ofNat (v % 2 ^ n) else Int.ofNat (v % 2 ^ n) - 2 ^ n

/-- The n bytes of a number, least significant first (R39, R426: little-endian). -/
def toBytes : Nat → Nat → List Byte
  | 0, _ => []
  | n + 1, v => BitVec.ofNat 8 v :: toBytes n (v / 256)

/-- The number that bytes spell, least significant first. -/
def ofBytes : List Byte → Nat
  | [] => 0
  | b :: bs => b.toNat + 256 * ofBytes bs

/-- The bytes of a list of 32-bit words. -/
def wordsToBytes (ws : List W32) : List Byte := (ws.map fun w => toBytes 4 w.toNat).flatten

/-- `n` 32-bit words read from bytes; missing bytes count as 0. -/
def bytesToWords : Nat → List Byte → List W32
  | 0, _ => []
  | n + 1, bs => BitVec.ofNat 32 (ofBytes (bs.take 4)) :: bytesToWords n (bs.drop 4)

/-- Word `i` of a list, 0 where the list is shorter. -/
def wd (ws : List W32) (i : Nat) : W32 := ws.getD i 0

/-- A list with element `i` replaced, padded with `d` as far as needed. -/
def setAt {α : Type} (d : α) : List α → Nat → α → List α
  | [], 0, v => [v]
  | [], i + 1, v => d :: setAt d [] i v
  | _ :: xs, 0, v => v :: xs
  | x :: xs, i + 1, v => x :: setAt d xs i v

/-- Saturating increment by `k` of a counter of `n` bits (R137, R241, R413). -/
def satAdd (n : Nat) (w : BitVec n) (k : Nat) : BitVec n := BitVec.ofNat n (min (w.toNat + k) (2 ^ n - 1))

/-- A number held within [lo, hi] (R428: the nearest value within the range). -/
def clampTo (lo hi v : Nat) : Nat := max lo (min hi v)

/-- ⌈a / b⌉. -/
def cdiv (a b : Nat) : Nat := (a + b - 1) / b

/-- Modular difference a − b of 32-bit counts (R51, R53, R60). -/
def sub32 (a b : W32) : Nat := (a - b).toNat

/-- The condition of R60 and R21: a − b, modulo 2^32, below 2^31. -/
def reached (a b : W32) : Bool := sub32 a b < 2 ^ 31

/-! ### Sorting -/

/-- Two sorted lists merged; of equal elements those of the first come first. The number bounds the elements taken. -/
def mergeBy {α : Type} (le : α → α → Bool) : Nat → List α → List α → List α
  | 0, a, b => a ++ b
  | _ + 1, [], b => b
  | _ + 1, x :: a, [] => x :: a
  | n + 1, x :: a, y :: b => if le x y then x :: mergeBy le n a (y :: b) else y :: mergeBy le n (x :: a) b

/-- A list sorted by halves; the number bounds the depth. -/
def sortHalves {α : Type} (le : α → α → Bool) : Nat → List α → List α
  | 0, l => l
  | n + 1, l => if l.length ≤ 1 then l else
      mergeBy le l.length (sortHalves le n (l.take (l.length / 2))) (sortHalves le n (l.drop (l.length / 2)))

/-- A list sorted; equal elements keep their order. -/
def sortBy {α : Type} (l : List α) (le : α → α → Bool) : List α := sortHalves le l.length l

/-! ### Tables -/

/-- The value at key `k`; `d` where the key is not listed. -/
def Tab.get {α : Type} (d : α) : Tab α → Nat → α
  | [], _ => d
  | (j, v) :: t, k => if j = k then v else if k < j then d else Tab.get d t k

/-- The table with key `k` at `v`: the key is listed, in order, exactly when `v` is not the default. -/
def Tab.set {α : Type} [DecidableEq α] (d : α) : Tab α → Nat → α → Tab α
  | [], k, v => if v = d then [] else [(k, v)]
  | (j, w) :: t, k, v =>
    if j = k then (if v = d then t else (k, v) :: t)
    else if k < j then (if v = d then (j, w) :: t else (k, v) :: (j, w) :: t)
    else (j, w) :: Tab.set d t k v

/-- The canonical form: keys strictly rising, no default listed. -/
def Tab.wf {α : Type} [DecidableEq α] (d : α) : Tab α → Bool
  | [] => true
  | (k, v) :: t => (v ≠ d) && (match t with | [] => true | (j, _) :: _ => decide (k < j)) && Tab.wf d t

/-- The table without the keys in [lo, hi). -/
def Tab.clear {α : Type} (t : Tab α) (lo hi : Nat) : Tab α := t.filter fun p => p.1 < lo || hi ≤ p.1

/-- The keys and values in [lo, hi). -/
def Tab.range {α : Type} (t : Tab α) (lo hi : Nat) : Tab α := t.filter fun p => lo ≤ p.1 && p.1 < hi

/-- The table with the entries of `src` in [lo, hi) copied to keys starting at `dst`; `src` counts from `lo`. -/
def Tab.copy {α : Type} (src : Tab α) (lo hi : Nat) (onto : Tab α) (dst : Nat) : Tab α :=
  let t := onto.clear dst (dst + (hi - lo))
  (t.filter fun p => p.1 < dst) ++ ((src.range lo hi).map fun p => (p.1 - lo + dst, p.2)) ++
    (t.filter fun p => dst ≤ p.1)

/-! ### Byte memories -/

/-- The byte at an address. -/
def Mem.get (m : Mem) (a : Nat) : Byte := Tab.get 0 m a
/-- The memory with one byte written. -/
def Mem.set (m : Mem) (a : Nat) (b : Byte) : Mem := Tab.set 0 m a b
/-- The canonical form of a memory. -/
def Mem.wf (m : Mem) : Bool := Tab.wf 0 m
/-- `n` bytes from address `a`. -/
def Mem.read (m : Mem) (a : Nat) : Nat → List Byte
  | 0 => []
  | n + 1 => m.get a :: Mem.read m (a + 1) n
/-- Bytes written from address `a` up. -/
def Mem.write (m : Mem) (a : Nat) : List Byte → Mem
  | [] => m
  | b :: bs => Mem.write (m.set a b) (a + 1) bs

/-! ### Time -/

/-- `HUB_TIME` (R21): µs since hub reset, modulo 2^32. -/
def State.hubTime (s : State) : W32 := BitVec.ofNat 32 (s.clock.now - s.clock.epoch)
/-- HUB_TICKS (R64): cycles at 1.2 GHz since hub reset. -/
def State.hubTicks (s : State) : W64 := BitVec.ofNat 64 ((s.clock.now - s.clock.epoch) * 1200)
/-- The time now. -/
def State.now (s : State) : Nat := s.clock.now

/-! ### Free values and outputs -/

/-- The state after drawing `1` free counter value. -/
def State.draw (s : State) : State := { s with free := s.free + 1 }
/-- Something leaves the block. -/
def State.emit (s : State) (o : Out) : State := { s with out := o :: s.out }
/-- A PlatformEventMessage of a sensor, with the in-band interrupt that signals it on the management bus (R443, R444). -/
def State.pldm (s : State) (sensor value : Nat) : State := (s.emit .ibi).emit (.pldmEvent sensor value)
/-- An MSI-X message of a function; while its vectors are masked, the pending bit of the vector is set instead (R441). -/
def State.sendMsix (s : State) (fn v : Nat) : State :=
  if s.boot.msixMask.contains fn then
    { s with msixPend := s.msixPend.filter (fun p => p ≠ (fn, v)) ++ [(fn, v)] }
  else s.emit (.msix fn v)

/-! ### Records by number -/

/-- The record of a context. -/
def State.cx (s : State) (c : Nat) : CtxRec := Tab.get {} s.ctx c
/-- The state with a context's record replaced. -/
def State.setCx (s : State) (c : Nat) (r : CtxRec) : State := { s with ctx := Tab.set {} s.ctx c r }
/-- The state with a context's record changed. -/
def State.modCx (s : State) (c : Nat) (f : CtxRec → CtxRec) : State := s.setCx c (f (s.cx c))

/-- The record of a stream. -/
def State.stm (s : State) (n : Nat) : StreamRec := Tab.get {} s.str n
/-- The state with a stream's record replaced. -/
def State.setStm (s : State) (n : Nat) (r : StreamRec) : State := { s with str := Tab.set {} s.str n r }
/-- The state with a stream's record changed. -/
def State.modStm (s : State) (n : Nat) (f : StreamRec → StreamRec) : State := s.setStm n (f (s.stm n))

/-- The key of a queue. -/
def qKey (c q : Nat) : Nat := c * 4 + q
/-- The record of a queue. -/
def State.qu (s : State) (c q : Nat) : QueueRec := Tab.get {} s.queue (qKey c q)
/-- The state with a queue's record replaced. -/
def State.setQu (s : State) (c q : Nat) (r : QueueRec) : State := { s with queue := Tab.set {} s.queue (qKey c q) r }
/-- The state with a queue's record changed. -/
def State.modQu (s : State) (c q : Nat) (f : QueueRec → QueueRec) : State := s.setQu c q (f (s.qu c q))

/-- The record of a logical cell. -/
def State.cell (s : State) (c : Nat) : CellRec := Tab.get {} s.cells c
/-- The state with a cell's record replaced. -/
def State.setCell (s : State) (c : Nat) (r : CellRec) : State := { s with cells := Tab.set {} s.cells c r }
/-- The state with a cell's record changed. -/
def State.modCell (s : State) (c : Nat) (f : CellRec → CellRec) : State := s.setCell c (f (s.cell c))

/-- The record of a physical cell, comb × 17 + cell. -/
def State.physCell (s : State) (p : Nat) : PhysCell := Tab.get {} s.phys p
/-- The state with a physical cell's record changed. -/
def State.modPhys (s : State) (p : Nat) (f : PhysCell → PhysCell) : State :=
  { s with phys := Tab.set {} s.phys p (f (s.physCell p)) }

/-- The record of a scout. -/
def State.scoutRec (s : State) (u : Nat) : ScoutRec := Tab.get {} s.scouts u
/-- The state with a scout's record changed. -/
def State.modScout (s : State) (u : Nat) (f : ScoutRec → ScoutRec) : State :=
  { s with scouts := Tab.set {} s.scouts u (f (s.scoutRec u)) }

/-- The committed value of an event counter (R59). -/
def State.ctr (s : State) (c : Nat) : W32 := Tab.get 0 s.evt c
/-- The state with an event counter set. -/
def State.setCtr (s : State) (c : Nat) (v : W32) : State := { s with evt := Tab.set 0 s.evt c v }

/-- The record of a Chaver port. -/
def State.port (s : State) (p : Nat) : PortRec := Tab.get {} s.fab.ports p
/-- The state with the fabric changed. -/
def State.modFab (s : State) (f : Fabric → Fabric) : State := { s with fab := f s.fab }
/-- The state with a port's record changed. -/
def State.modPort (s : State) (p : Nat) (f : PortRec → PortRec) : State :=
  s.modFab fun b => { b with ports := Tab.set {} b.ports p (f (s.port p)) }

/-- The state with the base layer changed. -/
def State.modBase (s : State) (f : Base → Base) : State := { s with base := f s.base }
/-- The record of a die port. -/
def State.diePort (s : State) (d : Nat) : DiePort := Tab.get {} s.base.dp d
/-- The state with a die port's record changed. -/
def State.modDp (s : State) (d : Nat) (f : DiePort → DiePort) : State :=
  s.modBase fun b => { b with dp := Tab.set {} b.dp d (f (s.diePort d)) }
/-- The record of a laser source. -/
def State.source (s : State) (n : Nat) : SrcRec := Tab.get {} s.base.src n
/-- The state with a source's record changed. -/
def State.modSrc (s : State) (n : Nat) (f : SrcRec → SrcRec) : State :=
  s.modBase fun b => { b with src := Tab.set {} b.src n (f (s.source n)) }

/-- The state with the memories changed. -/
def State.modMem (s : State) (f : MemRec → MemRec) : State := { s with mem := f s.mem }
/-- The state with power changed. -/
def State.modPower (s : State) (f : Power → Power) : State := { s with power := f s.power }
/-- The state with the security root changed. -/
def State.modSec (s : State) (f : Sec → Sec) : State := { s with sec := f s.sec }
/-- The state with readiness and pins changed. -/
def State.modBoot (s : State) (f : Boot → Boot) : State := { s with boot := f s.boot }
/-- The state with the life log changed. -/
def State.modLog (s : State) (f : LifeLog → LifeLog) : State := { s with log := f s.log }
/-- The health record of a unit (R342). -/
def State.unit (s : State) (u : Nat) : HealthRec := Tab.get {} s.health u
/-- The state with a unit's health record changed. -/
def State.modUnit (s : State) (u : Nat) (f : HealthRec → HealthRec) : State :=
  { s with health := Tab.set {} s.health u (f (s.unit u)) }

/-! ### Status codes (R67, R333) -/

namespace St
def ok : Byte := 0x00
def tornDown : Byte := 0x01
def timeout : Byte := 0x02
def badDesc : Byte := 0x03
def badOpcode : Byte := 0x04
def badSeq : Byte := 0x05
def badEvent : Byte := 0x06
def pageFault : Byte := 0x07
def guard : Byte := 0x08
def ecc : Byte := 0x09
def evtTimeout : Byte := 0x0A
def twin : Byte := 0x0B
def specDiscarded : Byte := 0x0C
def fenceIncomplete : Byte := 0x10
def fabricTimeout : Byte := 0x11
def indeterminate : Byte := 0x12
def nonfinite : Byte := 0x13
def stepFailed : Byte := 0x14
/-- No status of R67: an access that must wait for a step of the power-on order (R382). A row that meets it leaves its
command as it is. -/
def notYet : Byte := 0xFF
end St

/-! ### Running commands -/

/-- The running command with a given name, if any. -/
def State.run? (s : State) (id : CmdId) : Option Run := s.runs.find? fun r => r.id = id
/-- The state with the running command of a name changed. -/
def State.modRun (s : State) (id : CmdId) (f : Run → Run) : State :=
  { s with runs := s.runs.map fun r => if r.id = id then f r else r }
/-- The state with a running command's record replaced. -/
def State.putRun (s : State) (r : Run) : State := s.modRun r.id fun _ => r
/-- A running command's work ends with a status and DETAIL, unless it had ended already or must wait (R382). -/
def State.endRun (s : State) (id : CmdId) (st : Byte) (detail : W32) : State :=
  s.modRun id fun r => if r.res.isSome || st = St.notYet then r else { r with res := some (st, detail), begun := true }
/-- The running commands of a context. -/
def State.runsOf (s : State) (c : Nat) : List Run := s.runs.filter fun r => r.id.ctx.val = c
/-- A command that a check refuses as it starts takes its status and does not run (R41). -/
def State.refuseRun (s : State) (id : CmdId) (st : Byte) (detail : W32) : State :=
  s.modRun id fun r => if r.res.isSome || st = St.notYet then r else { r with res := some (st, detail), begun := false }
/-- A command that was refused: it has a status and never began (R41). -/
def Run.refused (r : Run) : Bool := r.res.isSome && !r.begun
/-- The commands of a queue that have started and not yet completed: `Qq_STATUS.INFLIGHT` (R49). A refused one never ran (R41). -/
def State.inflight (s : State) (c q : Nat) : Nat :=
  (s.runs.filter fun r => r.id.ctx.val = c && r.id.q.val = q && !r.refused).length

/-- Whether a completion status halts the queue (R67, R333). -/
def haltsQueue (st : Byte) : Bool := !(st = St.ok || st = St.tornDown || st = St.specDiscarded)

/-! ### STATUS values of an operation register (R16, R186, R308, R387, R398) -/

namespace Rs
def ok : Nat := 0x00
def ctxBusy : Nat := 0x01
def badConfig : Nat := 0x02
def noSpad : Nat := 0x03
def keyInUse : Nat := 0x04
def noQuota : Nat := 0x05
def badOwner : Nat := 0x06
def badPage : Nat := 0x07
def noSpace : Nat := 0x08
def holdupLow : Nat := 0x09
def noBudget : Nat := 0x0A
def grpBusy : Nat := 0x0B
def grpBad : Nat := 0x0C
def badSignature : Nat := 0x0D
def keyEmpty : Nat := 0x0E
def badWrap : Nat := 0x0F
def noKek : Nat := 0x10
def badToken : Nat := 0x11
end Rs

end Sys2Proof.Machine
end

