-- ==== Sys2Proof/Machine/Regs.lean ====
section
/-! DEFINITION. The register pages: where each page lies (R435), the reset value of each stored register, the fields
that a write may change and their ranges (R428, R429), errors, interrupts and ALERT_N (R431 to R434), readiness
(R379, R382). -/

namespace Sys2Proof.Machine

/-! ### Pages -/

/-- The kinds of block page (R435). -/
inductive PageKind where
  | device | ctx | mm | pool | coll | safe | trace | fnmap | comb | sd | base | laser | port | fabric | power | sec | log
deriving DecidableEq, Repr

/-- A block page: its kind and its number among pages of the kind. -/
structure Page where
  kind : PageKind
  n    : Nat
deriving DecidableEq, Repr

/-- Type code, default BAR0 offset, stride and count of each kind (R435). -/
def PageKind.row : PageKind → Nat × Nat × Nat × Nat
  | .device => (0x0001, 0x00000000, 0x1000, 1)
  | .ctx    => (0x0010, 0x00010000, 0x1000, 1)
  | .mm     => (0x0011, 0x00011000, 0x1000, 1)
  | .pool   => (0x0012, 0x00012000, 0x1000, 1)
  | .coll   => (0x0013, 0x00013000, 0x1000, 1)
  | .safe   => (0x0014, 0x00014000, 0x1000, 1)
  | .trace  => (0x0015, 0x00015000, 0x1000, 1)
  | .fnmap  => (0x0016, 0x00016000, 0x1000, 1)
  | .comb   => (0x0020, 0x01000000, 0x100000, 8)
  | .sd     => (0x0030, 0x02000000, 0x100000, 8)
  | .base   => (0x0040, 0x03000000, 0x1000, 1)
  | .laser  => (0x0041, 0x03001000, 0x1000, 1)
  | .port   => (0x0050, 0x03100000, 0x1000, 32)
  | .fabric => (0x0051, 0x03120000, 0x1000, 1)
  | .power  => (0x0060, 0x03200000, 0x1000, 1)
  | .sec    => (0x0070, 0x03300000, 0x1000, 1)
  | .log    => (0x0080, 0x03400000, 0x1000, 1)

/-- The kinds in the order of R435. -/
def pageKinds : List PageKind :=
  [.device, .ctx, .mm, .pool, .coll, .safe, .trace, .fnmap, .comb, .sd, .base, .laser, .port, .fabric, .power, .sec, .log]

/-- The pages in directory order (R436). -/
def pages : List Page := (pageKinds.map fun k => (List.range k.row.2.2.2).map fun n => ⟨k, n⟩).flatten

/-- The BAR0 offset of a page. -/
def Page.off (p : Page) : Nat := p.kind.row.2.1 + p.n * p.kind.row.2.2.1

/-- The page of one kind that an offset falls in, and the offset within the page. -/
def PageKind.hit (k : PageKind) (off : Nat) : Option (Page × Nat) :=
  let (_, b, stride, cnt) := k.row
  if b ≤ off ∧ off < b + cnt * stride ∧ (off - b) % stride < 0x1000 then
    some (⟨k, (off - b) / stride⟩, (off - b) % stride) else none

/-- The block page that a BAR0 offset falls in, and the offset within it. -/
def pageOf (off : Nat) : Option (Page × Nat) := pageKinds.findSome? fun k => k.hit off

def pgCtx : Page := ⟨.ctx, 0⟩
def pgDevice : Page := ⟨.device, 0⟩
def pgMm : Page := ⟨.mm, 0⟩
def pgPool : Page := ⟨.pool, 0⟩
def pgColl : Page := ⟨.coll, 0⟩
def pgSafe : Page := ⟨.safe, 0⟩
def pgTrace : Page := ⟨.trace, 0⟩
def pgFn : Page := ⟨.fnmap, 0⟩
def pgBase : Page := ⟨.base, 0⟩
def pgLaser : Page := ⟨.laser, 0⟩
def pgFab : Page := ⟨.fabric, 0⟩
def pgPower : Page := ⟨.power, 0⟩
def pgSec : Page := ⟨.sec, 0⟩
def pgLog : Page := ⟨.log, 0⟩
def pgComb (c : Nat) : Page := ⟨.comb, c⟩
def pgSd (n : Nat) : Page := ⟨.sd, n⟩
def pgPort (p : Nat) : Page := ⟨.port, p⟩

/-- The key under which register `rel` of a page is stored. -/
def Page.key (p : Page) (rel : Nat) : Nat := p.off + rel
/-- The key of `LINK_CFG` of a port, which `LINK_SEL` selects (R407). -/
def linkKeyAt (port : Nat) : Nat := 0x4000000 + port
/-- The key of the I3C copy of a select register (R446). -/
def i3cKey (off : Nat) : Nat := 0x8000000 + off

/-! ### Reset values -/

/-- The role code and member of a port at reset (R257). -/
def portRoleReset (n : Nat) : Nat := if n < 28 then (n / 4 + 1) * 2 ^ 16 + (n % 4) * 2 ^ 12 else 0

/-- The reset value of a stored register (R13, R137, R185, R208, R223, R253, R287, R302, R347, R373). -/
def Page.reset (p : Page) (rel : Nat) : W32 :=
  match p.kind with
  | .ctx => if rel = 0x200 then 0x1F401 else 0
  | .pool => if rel = 0x124 then 0x20064 else 0
  | .mm => if 0x200 ≤ rel ∧ rel < 0x2FC ∧ rel % 4 = 0 then 0x40000100 else if rel = 0x2FC then 0x40100100 else 0
  | .sd => if rel = 0x100 then 0x18 else 0
  | .base => if rel = 0x100 then 0x50028 else 0
  | .port => if rel = 0x100 then BitVec.ofNat 32 (portRoleReset p.n + (if p.n < 28 then 2 ^ 31 else 0)) else 0
  | .fabric =>
    if rel = 0x104 then 0x32 else if rel = 0x108 then 0xFFF000 else if rel = 0x120 then 0x24644
    else if rel = 0x124 then 0x1000040 else if rel = 0x140 then 0xA else if rel = 0x160 then 0x1400C8 else 0
  | .safe => if rel = 0x110 then 0x190 else if rel = 0x11C then 0x3E8 else 0
  | .power => if rel = 0x104 then 0xE101E else 0
  | _ => 0

/-- The reset value of the register stored under a key. -/
def regReset (k : Nat) : W32 :=
  if k ≥ 0x4000000 then (if k < 0x4000020 then 0x258 else 0)
  else match pageOf k with
    | some (p, rel) => p.reset rel
    | none => 0

/-- The value of the register stored under a key. -/
def State.reg (s : State) (k : Nat) : W32 := Tab.get (regReset k) s.regs k
/-- The state with the register under a key set. -/
def State.setReg (s : State) (k : Nat) (v : W32) : State := { s with regs := Tab.set (regReset k) s.regs k v }
/-- Register `rel` of a page. -/
def State.rd (s : State) (p : Page) (rel : Nat) : W32 := s.reg (p.key rel)
/-- The state with register `rel` of a page set. -/
def State.wr (s : State) (p : Page) (rel : Nat) (v : W32) : State := s.setReg (p.key rel) v
/-- A 32-bit counter register incremented, saturating (R137, R254, R287, R303, R307, R348). -/
def State.bump (s : State) (p : Page) (rel k : Nat) : State := s.wr p rel (satAdd 32 (s.rd p rel) k)

/-- `BLK_REV` of a block type; `DEV_REV` is that of the device (R431, R436). -/
def blkRev (type : Nat) : W32 := BitVec.ofNat 32 (Config.stepping.toNat * 2 ^ 16 + (Config.blockRev type).toNat)
def devRev : W32 := blkRev 1

/-! ### Fields that a write may change -/

/-- What a field stores when a written value lies outside its range (R428). -/
inductive Rng where
  | any
  | clamp (lo hi : Nat)
  | signed (lo hi : Int)
deriving DecidableEq, Repr

/-- A writable field: its bits, whether it is RWL (R429), and its range. -/
structure Field where
  hi  : Nat
  lo  : Nat
  rwl : Bool
  rng : Rng
deriving DecidableEq, Repr

/-- An RW field without a range. -/
def fRW (hi lo : Nat) : Field := ⟨hi, lo, false, .any⟩
/-- An RW field with a range. -/
def fRWc (hi lo a b : Nat) : Field := ⟨hi, lo, false, .clamp a b⟩
/-- An RWL field without a range. -/
def fRWL (hi lo : Nat) : Field := ⟨hi, lo, true, .any⟩
/-- An RWL field with a range. -/
def fRWLc (hi lo a b : Nat) : Field := ⟨hi, lo, true, .clamp a b⟩

/-- The writable fields of register `rel` of a page, for the registers whose write has no other effect. -/
def Page.fields (p : Page) (rel : Nat) : List Field :=
  if rel = 0x10 then [fRW 0 0] else if rel = 0x24 then [fRW 15 0] else if rel = 0x30 then [fRW 11 0] else
  match p.kind with
  | .ctx =>
    if rel = 0x100 then [fRW 11 0] else if rel = 0x180 then [fRW 13 0]
    else if (0x140 ≤ rel ∧ rel ≤ 0x17C) ∨ (0x1A0 ≤ rel ∧ rel ≤ 0x1BC) then [fRW 31 0]
    else if rel = 0x200 then [fRWL 23 8, fRWLc 4 0 0 16] else []
  | .pool =>
    if rel = 0x100 then [fRW 11 0] else if rel = 0x10C then [fRW 31 0]
    else if rel = 0x124 then [fRWLc 19 16 1 6, fRWLc 15 0 10 1000] else []
  | .mm =>
    if rel = 0x104 ∨ rel = 0x108 ∨ rel = 0x10C ∨ rel = 0x140 ∨ rel = 0x144 then [fRW 31 0]
    else if rel = 0x118 then [fRWLc 3 0 0 8] else if rel = 0x130 then [fRW 31 31, fRW 11 0]
    else if rel = 0x134 then [fRW 31 0] else if rel = 0x138 then [fRW 15 0]
    else if 0x200 ≤ rel ∧ rel ≤ 0x2FC then [fRWc 31 28 0 10, fRWc 24 16 0 256, fRWc 8 0 0 256] else []
  | .comb => if rel = 0x180 then [fRW 11 0, fRW 19 16, fRW 29 24] else []
  | .sd =>
    if rel = 0x100 then [fRWLc 7 0 1 168] else if rel = 0x114 then [fRW 31 31, fRW 29 24, fRW 23 16] else []
  | .base =>
    if rel = 0x100 then [fRWc 20 16 0 8, fRWc 5 0 10 40] else if rel = 0x110 then [fRW 20 16, fRW 12 8]
    else if rel = 0x200 then [fRW 20 16, fRW 12 8, fRW 0 0] else []
  | .laser => if rel = 0x100 then [fRW 6 0] else if rel = 0x120 then [fRW 1 0] else []
  | .port =>
    if rel = 0x100 then (if p.n < 28 then [fRW 31 31] else [fRW 31 31, fRW 18 16, fRW 13 12])
    else if rel = 0x108 then [fRW 31 31, fRW 28 24, fRW 15 0] else []
  | .fabric =>
    if rel = 0x100 then [fRWL 15 0] else if rel = 0x104 then [fRW 31 31, fRW 30 30, fRWc 8 0 10 500]
    else if rel = 0x108 then [fRWLc 23 20 1 15, fRWLc 19 16 1 15, fRWLc 15 12 1 15, fRWL 11 8, fRWL 7 4, fRWL 3 0]
    else if rel = 0x110 then [fRW 11 0, fRW 16 16, fRW 17 17]
    else if rel = 0x120 then [fRWc 19 16 1 15, fRWc 15 12 1 15, fRWc 11 8 1 15, fRWc 7 4 1 15, fRWc 3 0 1 15]
    else if rel = 0x124 then [fRW 31 16, fRW 15 0]
    else if rel = 0x140 then [fRW 25 16, fRWc 6 0 5 100] else if rel = 0x144 then [fRW 31 0]
    else if rel = 0x148 then [⟨31, 0, false, .signed (-1000) 1000⟩] else if rel = 0x14C then [fRW 9 0]
    else if rel = 0x160 then [fRWc 21 16 5 50, fRWc 8 0 50 500]
    else if rel = 0x164 then [fRWL 31 31, fRWL 30 30, fRWL 23 0] else if rel = 0x170 then [fRW 9 0]
    else if rel = 0x174 ∨ rel = 0x178 then [fRW 31 0] else []
  | .coll => if rel = 0x100 then [fRW 7 0] else if 0x140 ≤ rel ∧ rel ≤ 0x17C then [fRW 31 0] else []
  | .safe =>
    if rel = 0x110 then [fRWLc 9 0 0 900] else if rel = 0x114 then [fRW 8 0]
    else if rel = 0x120 then [fRW 11 0] else []
  | .power =>
    if rel = 0x104 then [fRWc 19 8 1000 3600, fRWc 4 0 12 30] else if rel = 0x108 then [fRWL 31 16]
    else if rel = 0x120 then [fRWc 8 0 0 403] else []
  | .device => if rel = 0x110 then [fRW 3 0] else []
  | .sec => if rel = 0x100 then [fRW 11 0] else if rel = 0x2A0 then [fRW 4 0] else []
  | .trace =>
    if rel = 0x100 then [fRW 31 31, fRWc 20 16 8 20, fRW 11 0] else if rel = 0x104 then [fRW 31 5]
    else if rel = 0x108 then [fRW 15 0] else if rel = 0x114 then [fRW 31 0] else []
  | .log => if rel = 0x110 then [fRW 23 2] else []
  | .fnmap => if rel = 0x100 then [fRW 15 8, fRW 7 0] else []

/-- The value that a field stores for a written field value (R428). -/
def Field.store (f : Field) (v : Nat) : Nat :=
  match f.rng with
  | .any => v
  | .clamp a b => clampTo a b v
  | .signed a b =>
    let n := f.hi + 1 - f.lo
    (max a (min b (sext n v))).toNat % 2 ^ n + (if max a (min b (sext n v)) < 0 then 2 ^ n - (max a (min b (sext n v))).natAbs else 0)

/-- A register value after the fields take a write, with the RWL fields kept once LOCK is written, and whether the write
carries another value for a locked field (R429). -/
def applyFields (locked : Bool) (fs : List Field) (old val : W32) : W32 × Bool :=
  fs.foldl (fun (acc : W32 × Bool) f =>
    let v := f.store (fld val f.hi f.lo)
    if f.rwl && locked then (acc.1, acc.2 || v != fld old f.hi f.lo) else (putFld acc.1 f.hi f.lo v, acc.2)) (old, false)

/-! ### Interrupts and errors -/

/-- A status bit of a block's interrupt register becomes 1; an enabled one sends the MSI-X message (R434). -/
def State.irqSet (s : State) (p : Page) (b : Nat) : State :=
  let old := s.rd p 0x18
  if bit old b then s
  else
    let s := s.wr p 0x18 (old ||| BitVec.ofNat 32 (2 ^ b))
    if bit (s.rd p 0x1C) b then s.sendMsix 0 (fld (s.rd p 0x30) 11 0) else s

/-- An error bit of a block is set (R431): an unmasked one that was 0 also sets the interrupt bit ERR. -/
def State.errSet (s : State) (p : Page) (b : Nat) : State :=
  let old := s.rd p 0x20
  if bit old b then s
  else
    let s := s.wr p 0x20 (old ||| BitVec.ofNat 32 (2 ^ b))
    if bit (s.rd p 0x24) b then s else s.irqSet p 0

/-- A context's error: in its `CTX_ERR` and in the context block (R433). -/
def State.ctxErr (s : State) (c b : Nat) : State :=
  (s.modCx c fun r => { r with err := r.err ||| BitVec.ofNat 32 (2 ^ b) }).errSet pgCtx b

/-- An event that the manual says raises a block's interrupt (R431, EVENT). -/
def State.event (s : State) (p : Page) : State := s.irqSet p 1

/-- The ALERT_N pin is asserted: a fence, or an unmasked error of a block whose ERR_ALERT is 1 (R325, R431, R450). -/
def State.alertN (s : State) : Bool :=
  s.fenced || pages.any fun p => bit (s.rd p 0x10) 0 && (s.rd p 0x20 &&& ~~~ (s.rd p 0x24)) != 0

/-! ### Readiness (R379, R381, R382) -/

/-- Logical cell `c` may be used (R382, R339). -/
def State.cellReady (s : State) (c : Nat) : Bool := (s.cell c).phys.isSome && (s.cell c).ready && !(s.cell c).takeover

/-- HBM stack `st` is in service (R202, R224, R388). -/
def State.stackUp (s : State) (st : Nat) : Bool :=
  s.boot.hbmUp.getLsbD st && !s.boot.stackOut.getLsbD st && s.boot.sdReady.getLsbD (st / 2)

/-- A source that gives light to what it or the source it replaced feeds. -/
def SrcRec.bears (r : SrcRec) : Bool := r.st = .active || r.st = .armed || r.st = .spareInUse
/-- A source gives light, or the substitute switched in for it does, which may itself have been replaced (R249 to R251). The number bounds
the chain. -/
def State.srcLit (s : State) : Nat → Nat → Bool
  | 0, _ => false
  | f + 1, n =>
    let r := s.source n
    r.bears || (r.st = .replaced && (if r.partner < 108 then s.srcLit f r.partner
      else (if r.partner = 0x7E then s.base.el0 else s.base.el1).st = .inUse))
/-- What a source is to feed has light: its own, or that of the substitute switched in for it (R249 to R251). -/
def State.roleLit (s : State) (n : Nat) : Bool := !(s.source n).masked && s.srcLit 3 n

/-- The main sources of laser group `g` that feed the fabric (R247). -/
def groupFabric (g : Nat) : List Nat := ((List.range 8).map fun i => 9 * g + i).filter fun n => n < 67
/-- A fabric laser group is locked: each of its fabric sources lights what it feeds (R381; log entry 95). -/
def State.groupLocked (s : State) (g : Nat) : Bool := (groupFabric g).all s.roleLit
/-- At least one fabric laser group is locked (R381). -/
def State.fabricLight (s : State) : Bool := (List.range 8).any s.groupLocked

/-- `READY_MAP0.BASE`. -/
def State.baseReady (s : State) : Bool := ((s.diePort 16).st = .up) && s.fabricLight

/-- A comb's READY bit: at least one ready cell. -/
def State.combReady (s : State) (c : Nat) : Bool := (List.range 16).any fun i => s.cellReady (c * 16 + i)

/-- `READY_MAP0.SERVICE` (R384): VIN_MAIN in the range of R350, no lockstep half failed (R325, code 0x01). -/
def State.service (s : State) : Bool :=
  s.boot.hub && s.mech ≠ 1 && s.boot.mgmt && 10800 ≤ s.power.vinMain && s.power.vinMain ≤ 13200 && s.baseReady && s.boot.hp0 &&
  (List.range 16).any (fun st => s.stackUp st) && (List.range 8).any (fun c => s.combReady c)

/-- `BLK_READY.READY` of a page. Which readiness a page follows where R379 does not say: log entry 19. -/
def State.pageReady (s : State) (p : Page) : Bool :=
  match p.kind with
  | .device | .safe | .sec | .log => s.boot.mgmt
  | .comb => s.combReady p.n
  | .sd => s.boot.sdReady.getLsbD p.n
  | .base => s.baseReady
  | .port => s.boot.sdReady.getLsbD (p.n / 4)
  | _ => s.boot.hub

/-- `BLK_READY` of a page (R379). -/
def State.blkReady (s : State) (p : Page) : Nat :=
  b2n (s.pageReady p) +
  match p.kind with
  | .comb => ((List.range 16).map fun i => b2n (s.cellReady (p.n * 16 + i)) * 2 ^ (16 + i)).sum
  | .sd => b2n (s.stackUp (2 * p.n)) * 2 ^ 16 + b2n (s.stackUp (2 * p.n + 1)) * 2 ^ 17
  | _ => 0

/-- The READY interrupt of every page whose `BLK_READY` differs from what it was in `old` (R431). -/
def State.noteReady (s old : State) : State :=
  pages.foldl (fun t p => if old.blkReady p = s.blkReady p then t else t.irqSet p 2) s

/-! ### Writing a stored register -/

/-- A write to a stored register without any other effect: its fields take the value, and a locked field written with
another value sets LOCK_VIOL (R428, R429). -/
def State.storeReg (s : State) (p : Page) (rel : Nat) (val : W32) : State :=
  let (v, viol) := applyFields s.boot.locked (p.fields rel) (s.rd p rel) val
  let s := s.wr p rel v
  if viol then s.errSet pgDevice 1 else s

/-- The common registers with a write effect of their own: W1C status and errors, and the interrupt enables, which send
a message for each status bit they enable that is already 1 (R429, R434). -/
def State.storeCommon (s : State) (p : Page) (rel : Nat) (val : W32) : State :=
  if rel = 0x18 then s.wr p rel (s.rd p rel &&& ~~~ val)
  else if rel = 0x20 then s.wr p rel (s.rd p rel &&& ~~~ (val &&& 0xFFFF))
  else if rel = 0x1C then
    let new := val &&& 7
    let fresh := new &&& ~~~ (s.rd p rel) &&& s.rd p 0x18
    let s := s.wr p rel new
    (List.range 3).foldl (fun t b => if bit fresh b then t.sendMsix 0 (fld (s.rd p 0x30) 11 0) else t) s
  else s.storeReg p rel val

/-- An operation register's result: STATUS in bits [7:0] of the stored result register (R14, R16). -/
def State.result (s : State) (p : Page) (rel st : Nat) : State := s.wr p rel (BitVec.ofNat 32 st)

end Sys2Proof.Machine
end

