-- ==== Sys2Proof/Machine/Access.lean ====
section
/-! DEFINITION. How a command reaches memory: the fields of a context entry (R10), HBM with its keys and poison (R202,
R203, R205, R395, R396), page-table walks (R181 to R184), scratchpad banks with the redirection of an epoch (R117, R175,
R177), the direct area (R190, R191), host memory (R44). A failed access gives the completion status and its DETAIL. -/

namespace Sys2Proof.Machine

/-- A completion status and its DETAIL. -/
abbrev Err := Byte × W32

/-! ### Fields of a context entry (R10) -/

def CtxRec.sclass (r : CtxRec) : Nat := fld (wd r.ent 0) 31 30
def CtxRec.det (r : CtxRec) : Bool := bit (wd r.ent 0) 29
def CtxRec.pin (r : CtxRec) : Bool := bit (wd r.ent 0) 28
def CtxRec.nq (r : CtxRec) : Nat := fld (wd r.ent 0) 27 26
def CtxRec.bwPart (r : CtxRec) : Nat := fld (wd r.ent 0) 25 20
def CtxRec.owner (r : CtxRec) : Nat := fld (wd r.ent 0) 19 12
def CtxRec.keySlot (r : CtxRec) : Nat := fld (wd r.ent 0) 11 0
def CtxRec.domain (r : CtxRec) : Nat := fld (wd r.ent 1) 31 16
def CtxRec.weight (r : CtxRec) : Nat := fld (wd r.ent 1) 15 8
def CtxRec.slice (r : CtxRec) : Nat := fld (wd r.ent 1) 5 0
def CtxRec.ptRoot (r : CtxRec) : Nat := fld (wd r.ent 2) 23 0
def CtxRec.mfmOut (r : CtxRec) : Nat := fld (wd r.ent 3) 24 16
def CtxRec.banks (r : CtxRec) : Nat := fld (wd r.ent 3) 6 0
def CtxRec.kvPages (r : CtxRec) : Nat := fld (wd r.ent 4) 23 0
def CtxRec.streams (r : CtxRec) : Nat := fld (wd r.ent 5) 14 0
def CtxRec.evtBase (r : CtxRec) : Nat := fld (wd r.ent 6) 31 16
def CtxRec.evtCount (r : CtxRec) : Nat := 16 * fld (wd r.ent 6) 12 0
def CtxRec.spillRoot (r : CtxRec) : Nat := (wd r.ent 7).toNat
def CtxRec.seed (r : CtxRec) : W64 := BitVec.ofNat 64 ((wd r.ent 9).toNat * 2 ^ 32 + (wd r.ent 8).toNat)
def CtxRec.bLimit (r : CtxRec) : Nat := fld (wd r.ent 14) 15 0
/-- The context may use a logical cell (CELL_MASK). -/
def CtxRec.inMask (r : CtxRec) (c : Nat) : Bool := bit (wd r.ent (10 + c / 32)) (c % 32)
/-- The logical cells of CELL_MASK in ascending order. -/
def CtxRec.mask (r : CtxRec) : List Nat := (List.range 128).filter fun c => r.inMask c
/-- The context owns an event counter (R59). -/
def CtxRec.owns (r : CtxRec) (ctr : Nat) : Bool := r.evtBase ≤ ctr && ctr < r.evtBase + r.evtCount
/-- S class is 2, T class 1, B class 0 (R10). -/
def CtxRec.isS (r : CtxRec) : Bool := r.sclass = 2
def CtxRec.isB (r : CtxRec) : Bool := r.sclass = 0

/-- The hive's own ID (R287). -/
def State.hive (s : State) : Nat := fld (s.rd pgFab 0x100) 15 0

/-- A context's record as a cell sees it: the old entry until the cell's next boundary after an UPDATE (R18). -/
def State.cxAt (s : State) (c cell : Nat) : CtxRec :=
  let r := s.cx c
  match r.stale.find? fun p => p.1 = cell with
  | some (_, e) => { r with ent := e }
  | none => r

/-- The key pair of a context (R395, R396). -/
def State.ctxKey (s : State) (c : Nat) : KeyTag := Tab.get none s.sec.keys (s.cx c).keySlot
/-- The hub's table key (R396). -/
def State.ptKey (s : State) : KeyTag := some s.sec.tableKey

/-- HIVE, REGION and OFFSET of a global address (R288). -/
def gHive (a : Nat) : Nat := a / 2 ^ 48 % 2 ^ 16
def gRegion (a : Nat) : Nat := a / 2 ^ 44 % 16
def gOff (a : Nat) : Nat := a % 2 ^ 44
/-- The colony of a hive ID (R5). -/
def colonyOf (h : Nat) : Nat := h / 4096 % 16

/-! ### Bandwidth partitions (R12, R206 to R208) -/

/-- BURST, MIN and CAP of a partition (R208). -/
def State.bwDepth (s : State) (p : Nat) : Nat := 1024 * 2 ^ fld (s.rd pgMm (0x200 + 4 * p)) 31 28
def State.bwMin (s : State) (p : Nat) : Nat := fld (s.rd pgMm (0x200 + 4 * p)) 24 16
def State.bwCap (s : State) (p : Nat) : Nat := fld (s.rd pgMm (0x200 + 4 * p)) 8 0

/-- An access through a partition with CAP = 0 stalls (R207), but one that the shared cache serves draws no token (R206): which it
is, is free (log entry 82). `key` tells the accesses apart. -/
def State.starved (s : State) (p key : Nat) : Bool := s.bwCap p = 0 && !Config.freeBool s.free key
/-- The partition of the accesses that the hub and the store dies make on their own account (R12). -/
def ownPart : Nat := 63

/-! ### HBM -/

/-- The stack of a page (R203). -/
def stackOf (ppn : Nat) : Nat := (ppn % 16) ^^^ (ppn / 16 % 16)

/-- The key under which a sector was last written. -/
def MemRec.tag (m : MemRec) (addr : Nat) : KeyTag :=
  match Tab.get none m.secKey (addr / 64) with
  | some t => t
  | none => Tab.get none m.pageKey (addr / 65536)

/-- The byte at an HBM address read through a key. A sector last written under another key is decrypted block by block: every byte of a
16-byte block depends on all bytes of the block and on the tweak, PPN × 1,024 + sector index (R395). -/
def MemRec.hbmByte (m : MemRec) (k : KeyTag) (addr : Nat) : Byte :=
  let w := m.tag addr
  if w = k then m.hbm.get addr
  else Config.wrongKeyByte w k (addr / 64) (addr % 64 / 16) (m.hbm.read (addr / 16 * 16) 16) (addr % 16)

/-- Bytes from an HBM address through a key, without checks. -/
def MemRec.hbmBytes (m : MemRec) (k : KeyTag) (addr n : Nat) : List Byte :=
  (List.range n).map fun i => m.hbmByte k (addr + i)

/-- A poisoned word lies in [addr, addr + n) of a poison table. -/
def poisoned (t : Tab Bool) (addr n : Nat) : Bool := t.any fun p => p.1 * 4 < addr + n && addr < p.1 * 4 + 4

/-- The unit that a failed access to a stack names: the die port of a store die where it is down or trains anew in a die reset (R233,
R238, R382), else the stack (R178, R202). -/
def State.stackUnit (s : State) (st : Nat) : W32 :=
  let d := s.diePort (8 + st / 2)
  BitVec.ofNat 32 (if d.ended && (d.st = .down || d.st = .training) then 0x408 + st / 2 else 0x300 + st)

/-- Step 5 of a store die has ended, or cannot start since its die port is down (R382, R383). -/
def State.sdOver (s : State) (n : Nat) : Bool :=
  s.boot.sdEnded.getLsbD n || ((s.diePort (8 + n)).ended && (s.diePort (8 + n)).st = .down)

/-- Step 6 of a comb has ended, or cannot start since its die port is down (R382, R383). -/
def State.combOver (s : State) (c : Nat) : Bool :=
  s.boot.combEnded.getLsbD c || ((s.diePort c).ended && (s.diePort c).st = .down)

/-- The error of an access to a stack that is not in service: until its die's step 5 has ended, the access waits (R382). -/
def State.stackErr (s : State) (st : Nat) : Err :=
  if s.sdOver (st / 2) then (St.ecc, s.stackUnit st) else (St.notYet, 0)

/-- The uncorrectable word that an access meets lies in a cache line of the stack's slice, not in the stack (R178, R205): free, where a
scrub found it in the cache (log entry 82). -/
def State.inLine (s : State) (addr n : Nat) : Bool :=
  (s.mem.lines.any fun w => 4 * w < addr + n && addr < 4 * w + 4) && Config.freeBool s.free addr

/-- A read of HBM within one page: an absent stack or a poisoned word ends in `CMD_ECC` (R202, R205). -/
def State.hbmRead (s : State) (k : KeyTag) (addr n : Nat) : Except Err (List Byte) :=
  let st := stackOf (addr / 65536)
  if !s.stackUp st then .error (s.stackErr st)
  else if poisoned s.mem.hbmPoison addr n then .error (St.ecc, BitVec.ofNat 32 (if s.inLine addr n then 0x200 + st / 2 else 0x300 + st))
  else .ok (s.mem.hbmBytes k addr n)

/-- The words that a write of `n` bytes covers entirely lose their poison (R205, R177). -/
def unpoison (t : Tab Bool) (addr n : Nat) : Tab Bool :=
  t.filter fun p => !(addr ≤ p.1 * 4 && p.1 * 4 + 4 ≤ addr + n)

/-- One sector of HBM made ready for a partial write under a key: bytes last written under another key are stored anew
as they read under this one. -/
def MemRec.rekey (m : MemRec) (k : KeyTag) (sec : Nat) : MemRec :=
  if m.tag (sec * 64) = k then m
  else
    let bs := m.hbmBytes k (sec * 64) 64
    let pk := Tab.get none m.pageKey (sec / 1024)
    { m with hbm := m.hbm.write (sec * 64) bs, secKey := Tab.set none m.secKey sec (if pk = k then none else some k) }

/-- A write of HBM within one page under a key (R395). -/
def MemRec.hbmWrite (m : MemRec) (k : KeyTag) (addr : Nat) (bs : List Byte) : MemRec :=
  if bs = [] then m else
  let lo := addr / 64
  let hi := (addr + bs.length - 1) / 64
  let m := (List.range (hi + 1 - lo)).foldl (fun m i => m.rekey k (lo + i)) m
  { m with hbm := m.hbm.write addr bs, hbmPoison := unpoison m.hbmPoison addr bs.length }

/-- A page is retired: named by `RETIRED_PAGES`, or retired past its end (R220, R221). -/
def MemRec.isRetired (m : MemRec) (ppn : Nat) : Bool :=
  (m.retired.any fun e => fld e 23 0 = ppn) || m.retiredOver.contains ppn

/-- A page zeroed so that it reads as zeros through `k`; with `none`, its stored bytes are zero (R396, R403). -/
def MemRec.zeroPage (m : MemRec) (k : KeyTag) (ppn : Nat) : MemRec :=
  { m with
    hbm := Tab.clear m.hbm (ppn * 65536) (ppn * 65536 + 65536)
    secKey := m.secKey.clear (ppn * 1024) (ppn * 1024 + 1024)
    pageKey := Tab.set none m.pageKey ppn k
    hbmPoison := m.hbmPoison.clear (ppn * 16384) (ppn * 16384 + 16384) }

/-- A page copied to another page as it reads through `k` (R119, R220); poison goes with it. -/
def MemRec.copyPage (m : MemRec) (k : KeyTag) (from' to' : Nat) : MemRec :=
  let bs := m.hbmBytes k (from' * 65536) 65536
  let p := m.hbmPoison
  let m := m.zeroPage k to'
  { m with hbm := m.hbm.write (to' * 65536) bs,
           hbmPoison := Tab.copy p (from' * 16384) (from' * 16384 + 16384) m.hbmPoison (to' * 16384) }

/-! ### Translation (R181 to R184) -/

/-- An entry of a table page, read under the table key. -/
def State.ptEntry (s : State) (ppn i : Nat) : Except Err W64 := do
  let bs ← s.hbmRead s.ptKey (ppn * 65536 + 8 * i) 8
  return BitVec.ofNat 64 (ofBytes bs)

/-- An old entry that a guard or forager may still hold for this page: changed, and not dropped by an INVAL since. -/
def State.mayCache (s : State) (c vpn : Nat) (o : OldEntry) : Bool :=
  o.entry.getLsbD 63 && !(s.mem.invals.any fun r =>
    r.ctx = c && o.serial < r.serial && (r.count = 0 || (r.first ≤ vpn && vpn < r.first + r.count)))

/-- The entry that a walk uses: the one in memory, or any old one that may still be cached (R184; log entry 12). -/
def State.ptUse (s : State) (c vpn ppn i : Nat) : Except Err W64 :=
  let old := s.mem.oldPt.filter fun o => o.ppn = ppn && o.index = i && s.mayCache c vpn o
  match (old.zipIdx).find? fun o => Config.freeBool s.free o.2 with
  | some (o, _) => .ok o.entry
  | none => s.ptEntry ppn i

/-- PPN of a table entry (R182). -/
def ptPpn (e : W64) : Nat := e.toNat % 2 ^ 24
/-- V set and no reserved bit (R182, R183); W counts as reserved at levels 0 and 1. -/
def ptGood (leaf : Bool) (e : W64) : Bool :=
  e.getLsbD 63 && (leaf || !e.getLsbD 62) && e.toNat / 2 ^ 24 % 2 ^ 38 = 0

/-- The page of a virtual page number, for a read or a write (R183). -/
def State.walk (s : State) (c vpn : Nat) (write : Bool) : Except Err Nat := do
  let pf : Err := (St.pageFault, BitVec.ofNat 32 vpn)
  if s.starved ownPart vpn then throw (St.notYet, 0)
  let e0 ← s.ptUse c vpn (s.cx c).ptRoot (vpn / 2 ^ 24)
  if !ptGood false e0 then throw pf
  let e1 ← s.ptUse c vpn (ptPpn e0) (vpn / 2 ^ 12 % 4096)
  if !ptGood false e1 then throw pf
  let e2 ← s.ptUse c vpn (ptPpn e1) (vpn % 4096)
  if !ptGood true e2 then throw pf
  if write && !e2.getLsbD 62 then throw (St.guard, BitVec.ofNat 32 s.hive)
  return ptPpn e2

/-! ### Segments -/

/-- The physical cell of a logical one, as comb × 17 + cell. -/
def State.physOf (s : State) (c : Nat) : Option Nat := (s.cell c).phys.map fun p => c / 16 * 17 + p

/-- A run of bytes in one place. -/
inductive Seg where
  | hbm (addr : Nat)
  | spad (cell idx : Nat)
  | direct (off : Nat)
  | host (addr : Nat)
deriving DecidableEq, Repr

/-- An access to a scratchpad window that must wait for the banks of a context on a cell (R294, R461); DETAIL names the two. -/
def windowWait (c cell : Nat) : Err := (St.notYet, BitVec.ofNat 32 (2 ^ 31 + c * 128 + cell))
/-- The banks that a window access waits for are noted, so that the cell's next boundary refills them. -/
def State.noteWindow (s : State) (detail : W32) : State :=
  let p := (fld detail 30 7, fld detail 6 0)
  if bit detail 31 && !s.fab.wants.contains p then s.modFab fun f => { f with wants := f.wants ++ [p] } else s

/-- Who makes an access: the context, the logical cell that SPACE 2 names, the tag of its epoch, if any, and the logical cell that
executes the command, none for a command of the hub, a store die or the host. -/
structure Who where
  ctx  : Nat
  cell : Nat
  tag  : Option Byte
  on   : Option Nat := none
deriving DecidableEq, Repr

/-- The partition that an access draws on: BW_PART of the entry in force where the command executes (R12, R18). -/
def State.partOf (s : State) (w : Who) : Nat :=
  match w.on with
  | some c => (s.cxAt w.ctx c).bwPart
  | none => (s.cx w.ctx).bwPart

/-- Runs of bytes cut at multiples of `size`. -/
def cuts (size : Nat) : Nat → Nat → Nat → List (Nat × Nat)
  | 0, _, _ => []
  | f + 1, a, n => if n = 0 then [] else
    let k := min n (size - a % size)
    (a, k) :: cuts size f (a + k) (n - k)
def cutAt (size a n : Nat) : List (Nat × Nat) := cuts size (n / size + 2) a n

/-- The open epoch of a context with a tag (R114). -/
def State.epoch (s : State) (c : Nat) (t : Option Byte) : Option Epoch :=
  match t with
  | none => none
  | some t => (s.cx c).epochs.find? fun e => e.tag = t

/-- The bank map of a context on a cell, if its banks are resident there (R35, R175). -/
def State.bankMap (s : State) (c cell : Nat) : Option (List Nat) :=
  ((s.cell cell).res.find? fun r => r.ctx = c).map (·.map)

/-- The logical bank that an access to logical bank `b` reaches (R117): a tagged access to a home bank whose shadow is
written goes to the shadow. -/
def shadowBank (e : Option Epoch) (cell b : Nat) : Nat :=
  match e with
  | some e => if e.home ≤ b && b < e.home + e.nbanks && e.written.contains (cell, b) then e.shadow + (b - e.home) else b
  | none => b

/-- Scratchpad index of an offset: cell × 2^24 + physical bank × 2^18 + offset in the bank. -/
def spadIdx (cell phys off : Nat) : Nat := cell * 2 ^ 24 + phys * 2 ^ 18 + off % 2 ^ 18

/-- An access refused by this hive's guard. -/
def State.guardErr (s : State) : Err := (St.guard, BitVec.ofNat 32 s.hive)

/-- The segments of an access (R44, R175, R183, R190, R191, R461). Spaces 4 and 5 are host memory and, elsewhere, MFM. -/
def State.segs (s : State) (w : Who) (space addr n : Nat) (write : Bool) : Except Err (List (Seg × Nat)) :=
  match space with
  | 1 => (cutAt 65536 addr n).mapM fun p => do
      if p.1 ≥ 2 ^ 48 then throw (St.pageFault, BitVec.ofNat 32 (p.1 / 65536))
      let ppn ← s.walk w.ctx (p.1 / 65536) write
      if !s.stackUp (stackOf ppn) then throw (s.stackErr (stackOf ppn))
      if s.starved (s.partOf w) ppn then throw (St.notYet, 0)
      return (Seg.hbm (ppn * 65536 + p.1 % 65536), p.2)
  | 2 =>
    let r := s.cxAt w.ctx w.cell
    if !r.inMask w.cell then .error s.guardErr
    else if (s.cell w.cell).phys.isNone then .error (if s.combOver (w.cell / 16) then s.guardErr else (St.notYet, 0))
    else if addr + n > (r.banks - 5) * 0x40000 then .error s.guardErr
    else match s.bankMap w.ctx w.cell with
      | none => .error s.guardErr
      | some map =>
        let e := s.epoch w.ctx w.tag
        .ok ((cutAt 0x40000 addr n).map fun p =>
          (Seg.spad w.cell (spadIdx w.cell (map.getD (shadowBank e w.cell (p.1 / 0x40000)) 0) p.1), p.2))
  | 3 => (cutAt 65536 addr n).mapM fun p => do
      let slice := p.1 / 2 ^ 26
      let off := p.1 % 2 ^ 26
      if slice ≥ 8 || off ≥ fld (s.rd pgMm 0x118) 3 0 * 3 * 2 ^ 20 then throw s.guardErr
      if Tab.get none s.mem.directOwner (slice * 384 + off / 65536) ≠ some w.ctx then throw s.guardErr
      if !s.boot.sdReady.getLsbD slice then throw (if s.sdOver slice then (St.ecc, BitVec.ofNat 32 (0x400 + 8 + slice)) else (St.notYet, 0))
      return (Seg.direct p.1, p.2)
  | 4 => .ok [(Seg.host addr, n)]
  | _ => .error s.guardErr

/-- The bytes of a segment, or the uncorrectable error met in it (R177, R178, R205). -/
def State.readSeg (s : State) (w : Who) (p : Seg × Nat) : Except Err (List Byte) :=
  match p.1 with
  | .hbm a => s.hbmRead (s.ctxKey w.ctx) a p.2
  | .spad c i => if poisoned s.mem.spadPoison i p.2 then .error (St.ecc, BitVec.ofNat 32 (0x100 + c)) else .ok (s.mem.spad.read i p.2)
  | .direct o => if poisoned s.mem.directPoison o p.2 then .error (St.ecc, BitVec.ofNat 32 (0x200 + o / 2 ^ 26))
      else .ok (s.mem.direct.read o p.2)
  | .host a => .ok (s.mem.host.read a p.2)

/-- A segment written. -/
def State.writeSeg (s : State) (w : Who) (g : Seg) (bs : List Byte) : State :=
  match g with
  | .hbm a => s.modMem fun m => m.hbmWrite (s.ctxKey w.ctx) a bs
  | .spad _ i => s.modMem fun m => { m with spad := m.spad.write i bs, spadPoison := unpoison m.spadPoison i bs.length }
  | .direct o => s.modMem fun m => { m with direct := m.direct.write o bs, directPoison := unpoison m.directPoison o bs.length }
  | .host a => s.modMem fun m => { m with host := m.host.write a bs }

/-- Bytes read by a command. -/
def State.readBytes (s : State) (w : Who) (space addr n : Nat) : Except Err (List Byte) := do
  let gs ← s.segs w space addr n false
  let bs ← gs.mapM fun g => s.readSeg w g
  return bs.flatten

/-- The home banks that a tagged write to [addr, addr + n) reaches for the first time are copied to their shadows (R117). -/
def State.openShadows (s : State) (w : Who) (addr n : Nat) : State :=
  match s.epoch w.ctx w.tag, s.bankMap w.ctx w.cell with
  | some e, some map =>
    (cutAt 0x40000 addr n).foldl (fun s p =>
      let b := p.1 / 0x40000
      if e.home ≤ b && b < e.home + e.nbanks &&
          !((s.epoch w.ctx w.tag).any fun e' => e'.written.contains (w.cell, b)) then
        let src := spadIdx w.cell (map.getD b 0) 0
        let dst := spadIdx w.cell (map.getD (e.shadow + (b - e.home)) 0) 0
        let s := s.modMem fun m => { m with
          spad := Tab.copy m.spad src (src + 2 ^ 18) m.spad dst
          spadPoison := Tab.copy m.spadPoison (src / 4) (src / 4 + 2 ^ 16) m.spadPoison (dst / 4) }
        s.modCx w.ctx fun r => { r with epochs := r.epochs.map fun e' =>
          if e'.slot = e.slot then { e' with written := e'.written ++ [(w.cell, b)] } else e' }
      else s) s
  | _, _ => s

/-- Segments written in order with the bytes of a list. -/
def State.writeSegs (s : State) (w : Who) : List (Seg × Nat) → List Byte → State
  | [], _ => s
  | g :: gs, bs => (s.writeSeg w g.1 (bs.take g.2)).writeSegs w gs (bs.drop g.2)

/-- Bytes written by a command: every byte is checked before the first is written. -/
def State.writeBytes (s : State) (w : Who) (space addr : Nat) (bs : List Byte) : Except Err State := do
  let _ ← s.segs w space addr bs.length true
  let s := if space = 2 then s.openShadows w addr bs.length else s
  let gs ← s.segs w space addr bs.length true
  return s.writeSegs w gs bs

/-- Bytes that the manual leaves unspecified: free values of this draw (log entry 4). -/
def State.freeBytes (s : State) (salt n : Nat) : List Byte := (List.range n).map fun i => Config.freeByte s.free (salt + i)

/-- A region left unspecified: free bytes wherever the command may write (R98, R170, R199, R318). -/
def State.spoil (s : State) (w : Who) (space addr n : Nat) : State :=
  (cutAt 0x10000 addr n).foldl (fun s p =>
    match s.writeBytes w space p.1 (s.freeBytes p.1 p.2) with | .ok t => t | .error _ => s) s

end Sys2Proof.Machine
end

