-- ==== Sys2Proof/Machine/Num.lean ====
section
/-! DEFINITION. Number formats and arithmetic (R45, R75 to R92, R162 to R168): exact values, rounding to nearest-even and
stochastic rounding, conversion in and out of every format, the elementary functions and the block scale rule. An exact
value is a sign, a natural number and a power of two; nothing is rounded except where a rule says so. -/

namespace Sys2Proof.Machine

/-- An exact value. A NaN carries the FP32 bits it has (R163). -/
inductive Val where
  | nan (bits : W32)
  | inf (neg : Bool)
  | fin (neg : Bool) (m : Nat) (e : Int)
deriving DecidableEq, Repr

/-- The canonical NaN (R81). -/
def qNaN : W32 := 0x7FC00000
/-- +0 (m = 0 keeps its sign). -/
def vZero : Val := .fin false 0 0

/-- A binary float format: exponent bits, mantissa bits, and what its all-ones exponent holds: 0 infinities and NaNs (IEEE
754), 1 one NaN per sign and no infinity (E4M3), 2 plain numbers (E2M1) (R77). -/
structure FFmt where
  eb : Nat
  mb : Nat
  kind : Nat
deriving DecidableEq, Repr

def FFmt.bias (f : FFmt) : Int := 2 ^ (f.eb - 1) - 1
def FFmt.emin (f : FFmt) : Int := 1 - f.bias
/-- The bits of the largest finite magnitude. -/
def FFmt.maxFin (f : FFmt) : Nat :=
  if f.kind = 0 then 2 ^ (f.eb + f.mb) - 2 ^ f.mb - 1 else if f.kind = 1 then 2 ^ (f.eb + f.mb) - 2 else 2 ^ (f.eb + f.mb) - 1
/-- The bits of +∞, for a format that has one. -/
def FFmt.infBits (f : FFmt) : Nat := 2 ^ (f.eb + f.mb) - 2 ^ f.mb

def fp32 : FFmt := ⟨8, 23, 0⟩
def bf16 : FFmt := ⟨8, 7, 0⟩
def fp16 : FFmt := ⟨5, 10, 0⟩
def e4m3 : FFmt := ⟨4, 3, 1⟩
def e5m2 : FFmt := ⟨5, 2, 0⟩
def e2m1 : FFmt := ⟨2, 1, 2⟩

/-- ⌊log2 m⌋ for m > 0. -/
def lg (m : Nat) : Nat := Nat.log2 m

/-- FP32 bits of a NaN read from a narrower float: sign and leading payload kept, quiet bit set (R163). -/
def nanWiden (f : FFmt) (neg : Bool) (frac : Nat) : W32 :=
  BitVec.ofNat 32 (b2n neg * 2 ^ 31 + 0x7F800000 + (if f.mb = 23 then frac else (frac * 2 ^ (23 - f.mb)) ||| 0x400000))

/-- The value that float bits stand for. -/
def FFmt.val (f : FFmt) (bits : Nat) : Val :=
  let neg := bits / 2 ^ (f.eb + f.mb) % 2 = 1
  let ex := bits / 2 ^ f.mb % 2 ^ f.eb
  let fr := bits % 2 ^ f.mb
  if f.kind = 0 ∧ ex = 2 ^ f.eb - 1 then (if fr = 0 then .inf neg else .nan (nanWiden f neg fr))
  else if f.kind = 1 ∧ bits % 2 ^ (f.eb + f.mb) = 2 ^ (f.eb + f.mb) - 1 then .nan (nanWiden f neg fr)
  else if ex = 0 then .fin neg fr (f.emin - f.mb)
  else .fin neg (2 ^ f.mb + fr) (ex - f.bias - f.mb)

/-- The magnitude bits of m·2^e in a format, before overflow is looked at: rounded to nearest-even, or by R90 with the
given random bits; and whether the value lies above the largest finite one. -/
def FFmt.roundMag (f : FFmt) (m : Nat) (e : Int) (sr : Option W32) : Nat :=
  if m = 0 then 0 else
  let x : Int := e + lg m
  let X := max x f.emin
  let qe := X - f.mb
  let base := (X - f.emin).toNat * 2 ^ f.mb
  if qe ≤ e then base + m * 2 ^ (e - qe).toNat
  else
    let d := (qe - e).toNat
    let n := m / 2 ^ d
    let rem := m % 2 ^ d
    let up := match sr with
      | none => 2 * rem > 2 ^ d || (2 * rem == 2 ^ d && n % 2 == 1)
      | some r => r.toNat < rem * 2 ^ 32 / 2 ^ d
    base + n + b2n up

/-- FP32 NaN bits narrowed (R163): sign and most significant payload kept, quiet bit set; E4M3 writes S.1111.111. -/
def FFmt.nanBits (f : FFmt) (b : W32) : Nat :=
  let s := b2n (bit b 31) * 2 ^ (f.eb + f.mb)
  if f.kind = 1 then s + 2 ^ (f.eb + f.mb) - 1
  else if f.mb = 23 then s + f.infBits + (fld b 22 0 ||| 0x400000)
  else s + f.infBits + ((fld b 22 0 / 2 ^ (23 - f.mb)) ||| 2 ^ (f.mb - 1))

/-- A value in a float format; `sat` saturates instead of overflowing to ∞ (R88). A value above the largest finite one of
a format that overflows to ∞ rounds to nearest-even even under stochastic rounding (R90). -/
def FFmt.enc (f : FFmt) (sat : Bool) (sr : Option W32) : Val → Nat
  | .nan b => f.nanBits b
  | .inf neg => b2n neg * 2 ^ (f.eb + f.mb) + (if sat then f.maxFin else f.infBits)
  | .fin neg m e =>
    let s := b2n neg * 2 ^ (f.eb + f.mb)
    let down := f.roundMag m e (some 0xFFFFFFFF)
    let r := if sat then f.roundMag m e sr
      else if sr.isSome && down ≥ f.maxFin && f.roundMag m e (some 0) > f.maxFin then f.roundMag m e none
      else f.roundMag m e sr
    s + (if r > f.maxFin then (if sat then f.maxFin else f.infBits) else r)

/-- The FP32 value of bits. -/
def f32v (b : W32) : Val := fp32.val b.toNat
/-- A value rounded once to FP32. -/
def toF32 (v : Val) : W32 := BitVec.ofNat 32 (fp32.enc false none v)

/-! ### Exact arithmetic -/

/-- A signed dyadic as an integer over a power of two. -/
def signed (neg : Bool) (m : Nat) : Int := if neg then -(m : Int) else m

/-- Exact sum of two dyadics n·2^e. -/
def dyAdd (n1 : Int) (e1 : Int) (n2 : Int) (e2 : Int) : Int × Int :=
  let e := min e1 e2
  (n1 * 2 ^ (e1 - e).toNat + n2 * 2 ^ (e2 - e).toNat, e)

/-- Negation. -/
def Val.neg : Val → Val
  | .nan b => .nan b
  | .inf s => .inf (!s)
  | .fin s m e => .fin (!s) m e

/-- A NaN made quiet (R163). -/
def quiet (b : W32) : W32 := b ||| 0x400000

/-- The first NaN among operands, made quiet (R163). -/
def firstNaN : List Val → Option W32
  | [] => none
  | .nan b :: _ => some (quiet b)
  | _ :: t => firstNaN t

/-- Sum of two values that are not NaN; IEEE signs of zero; ∞ − ∞ is the canonical NaN. -/
def addV : Val → Val → Val
  | .nan b, _ => .nan (quiet b)
  | _, .nan b => .nan (quiet b)
  | .inf a, .inf b => if a = b then .inf a else .nan qNaN
  | .inf a, _ => .inf a
  | _, .inf b => .inf b
  | .fin a m e, .fin b n f =>
    let (k, g) := dyAdd (signed a m) e (signed b n) f
    if k = 0 then .fin (a && b) 0 0 else .fin (k < 0) k.natAbs g

/-- Product. -/
def mulV : Val → Val → Val
  | .nan b, _ => .nan (quiet b)
  | _, .nan b => .nan (quiet b)
  | .inf a, .inf b => .inf (a != b)
  | .inf a, .fin b n _ => if n = 0 then .nan qNaN else .inf (a != b)
  | .fin a m _, .inf b => if m = 0 then .nan qNaN else .inf (a != b)
  | .fin a m e, .fin b n f => .fin (a != b) (m * n) (e + f)

/-- a × b + c, exact; the first NaN in order wins (R163). -/
def fmaV (a b c : Val) : Val := match firstNaN [a, b, c] with | some n => .nan n | none => addV (mulV a b) c

/-- FP32 add, multiply and fused multiply-add with one rounding. -/
def addF (a b : W32) : W32 := toF32 (addV (f32v a) (f32v b))
def mulF (a b : W32) : W32 := toF32 (mulV (f32v a) (f32v b))
def fmaF (a b c : W32) : W32 := toF32 (fmaV (f32v a) (f32v b) (f32v c))
def negF (a : W32) : W32 := a ^^^ 0x80000000
def absF (a : W32) : W32 := a &&& 0x7FFFFFFF
def isNaNF (a : W32) : Bool := (absF a).toNat > 0x7F800000
def subF (a b : W32) : W32 := toF32 (match firstNaN [f32v a, f32v b] with | some n => .nan n | none => addV (f32v a) (f32v b).neg)

/-- a < b for values that are not NaN (±0 equal). -/
def ltV : Val → Val → Bool
  | .nan _, _ => false
  | _, .nan _ => false
  | .inf a, .inf b => a && !b
  | .inf a, _ => a
  | _, .inf b => !b
  | .fin a m e, .fin b n f => (dyAdd (signed a m) e (-(signed b n)) f).1 < 0

/-- a = b for values that are not NaN (±0 equal). -/
def eqV (a b : Val) : Bool := match a, b with
  | .nan _, _ => false
  | _, .nan _ => false
  | a, b => !ltV a b && !ltV b a

def Val.sign : Val → Bool
  | .nan b => bit b 31
  | .inf s => s
  | .fin s _ _ => s
def Val.isNaN : Val → Bool
  | .nan _ => true
  | _ => false
def Val.isZero : Val → Bool
  | .fin _ m _ => m = 0
  | _ => false
def Val.isFin : Val → Bool
  | .fin _ _ _ => true
  | _ => false

/-- IEEE minimum and maximum of two values that are not NaN, −0 below +0. -/
def minV (a b : Val) : Val := if ltV a b then a else if ltV b a then b else if a.sign then a else b
def maxV (a b : Val) : Val := if ltV a b then b else if ltV b a then a else if a.sign then b else a

/-! ### Elementary functions (R164), to 160 fractional bits; log entry 15 -/

/-- Fractional bits kept. -/
def prec : Nat := 160

/-- Sum of z^(2k+1)/(2k+1) for k from `k`, z a fixed-point number: atanh z. -/
def atanhSum : Nat → Nat → Nat → Nat → Nat
  | 0, _, _, _ => 0
  | n + 1, k, p, z2 => p / (2 * k + 1) + atanhSum n (k + 1) (p * z2 / 2 ^ prec) z2

/-- atanh of a fixed-point number at most 1/3. -/
def atanhFix (z : Nat) : Nat := atanhSum 60 0 z (z * z / 2 ^ prec)

/-- ln 2 in fixed point: 2 atanh(1/3). -/
def ln2Fix : Nat := 2 * atanhFix (2 ^ prec / 3)

/-- Sum of x^k/k! from a term on. -/
def expSum : Nat → Nat → Nat → Nat → Nat
  | 0, _, _, _ => 0
  | n + 1, k, t, x => t + expSum n (k + 1) (t * x / 2 ^ prec / k) x

/-- e^x in fixed point for 0 ≤ x < 1. -/
def expFix (x : Nat) : Nat := expSum 50 1 (2 ^ prec) x

/-- EXP2 of FP32 bits (R164). -/
def exp2F (a : W32) : W32 :=
  match f32v a with
  | .nan b => quiet b
  | .inf true => 0
  | .inf false => 0x7F800000
  | .fin _ 0 _ => 0x3F800000
  | .fin s m e =>
    if e + lg m ≥ 8 then (if s then 0 else 0x7F800000)
    else if e + lg m < -26 then 0x3F800000
    else
      -- a = i + f with 0 ≤ f < 1, over 2^k
      let k := (-e).toNat
      let num : Int := if e ≥ 0 then signed s m * 2 ^ e.toNat else signed s m
      let i := num / 2 ^ k
      let f := (num % 2 ^ k).toNat
      if f = 0 then toF32 (.fin false 1 i)
      else toF32 (.fin false (2 * expFix (f * ln2Fix / 2 ^ k) + 1) (i - prec - 1))

/-- LOG2 of FP32 bits (R164). -/
def log2F (a : W32) : W32 :=
  match f32v a with
  | .nan b => quiet b
  | .inf true => qNaN
  | .inf false => 0x7F800000
  | .fin _ 0 _ => 0xFF800000
  | .fin true _ _ => qNaN
  | .fin false m e =>
    let l := lg m
    let x : Int := e + l
    if m = 2 ^ l then toF32 (.fin (x < 0) x.natAbs 0)
    else
      let z := (m - 2 ^ l) * 2 ^ prec / (m + 2 ^ l)
      let y : Int := x * 2 ^ prec + ((2 * atanhFix z * 2 ^ prec / ln2Fix : Nat) : Int)
      toF32 (.fin (y < 0) (2 * y.natAbs + 1) (-(prec : Int) - 1))

/-- RCP of FP32 bits (R164). -/
def rcpF (a : W32) : W32 :=
  match f32v a with
  | .nan b => quiet b
  | .inf s => if s then 0x80000000 else 0
  | .fin s 0 _ => if s then 0xFF800000 else 0x7F800000
  | .fin s m e => toF32 (.fin s (2 * (2 ^ 64 / m) + b2n (2 ^ 64 % m ≠ 0)) (-e - 65))

/-- ⌊√n⌋ by Newton's iteration from above. -/
def isqrtIter (n : Nat) : Nat → Nat → Nat
  | 0, x => x
  | k + 1, x => let y := (x + n / x) / 2; if y < x then isqrtIter n k y else x

/-- ⌊√n⌋. -/
def isqrt (n : Nat) : Nat := if n = 0 then 0 else isqrtIter n 200 (2 ^ (lg n / 2 + 1))

/-- RSQRT of FP32 bits (R164). -/
def rsqrtF (a : W32) : W32 :=
  match f32v a with
  | .nan b => quiet b
  | .inf true => qNaN
  | .inf false => 0
  | .fin s 0 _ => if s then 0xFF800000 else 0x7F800000
  | .fin true _ _ => qNaN
  | .fin false m e =>
    -- make the exponent even, then 1/√m = √(2^(2k)/m)
    let (m, e) := if e % 2 = 0 then (m, e) else (2 * m, e - 1)
    let q := 2 ^ 160 / m
    let r := isqrt q
    toF32 (.fin false (2 * r + b2n (r * r * m ≠ 2 ^ 160)) (-(e / 2) - 81))

/-- TANH, SILU and GELU as the pseudocode of R165. -/
def tanhF (x : W32) : W32 :=
  if isNaNF x then quiet x
  else
    let a := absF x
    if a.toNat < 0x39800000 then x
    else
      let t := exp2F (negF (mulF a 0x4038AA3B))
      let r := mulF (subF 0x3F800000 t) (rcpF (addF 0x3F800000 t))
      absF r ||| (x &&& 0x80000000)
def siluF (x : W32) : W32 :=
  if isNaNF x then quiet x else if x = 0xFF800000 then 0x80000000
  else mulF x (rcpF (addF 0x3F800000 (exp2F (negF (mulF x 0x3FB8AA3B)))))
def geluF (x : W32) : W32 :=
  if isNaNF x then quiet x else if x = 0xFF800000 then 0x80000000
  else
    let p := fmaF 0x3D372713 (mulF x x) 0x3F800000
    let y := tanhF (mulF (mulF 0x3F4C422A x) p)
    let h := mulF 0x3F000000 x
    fmaF h y h

/-! ### Formats by code (R45) -/

/-- Bits of an element; 0 for a code that is not listed. -/
def fmtBits (f : Nat) : Nat :=
  match f with
  | 1 => 32 | 2 => 16 | 3 => 16 | 4 => 8 | 5 => 8 | 6 => 4 | 7 => 8 | 8 => 4 | 9 => 32 | 10 => 32 | 11 => 16 | 12 => 8
  | _ => 0
/-- A float format's parameters. -/
def fmtF (f : Nat) : Option FFmt :=
  match f with
  | 1 => some fp32 | 2 => some bf16 | 3 => some fp16 | 4 => some e4m3 | 5 => some e5m2 | 6 => some e2m1 | _ => none
/-- An MX format (R77). -/
def isMx (f : Nat) : Bool := f = 4 || f = 5 || f = 6
/-- An integer format. -/
def isInt (f : Nat) : Bool := 7 ≤ f && f ≤ 12
/-- Whether an integer format is signed. -/
def intSigned (f : Nat) : Bool := f = 7 || f = 8 || f = 9

/-- An integer element. -/
def intElem (f bits : Nat) : Int := if intSigned f then sext (fmtBits f) bits else bits % 2 ^ fmtBits f

/-- The exact value of an element with its block's scale byte (R77, R79). -/
def elemVal (f bits scale : Nat) : Val :=
  match fmtF f with
  | none => let n := intElem f bits; .fin (n < 0) n.natAbs 0
  | some F =>
    if isMx f then
      if scale = 0xFF then .nan qNaN
      else match F.val bits with
        | .fin s m e => .fin s m (e + scale - 127)
        | v => v
    else F.val bits

/-- An element converted to FP32 (R92, R162). -/
def elemF32 (f bits scale : Nat) : W32 :=
  if f = 1 then BitVec.ofNat 32 bits else toF32 (elemVal f bits scale)

/-- A value rounded to an integer: to nearest-even, or by R90. -/
def roundInt (sr : Option W32) : Val → Option Int
  | .nan _ => none
  | .inf s => some (if s then -(2 ^ 64) else 2 ^ 64)
  | .fin s m e =>
    if e ≥ 0 then some (signed s (m * 2 ^ e.toNat))
    else
      let d := (-e).toNat
      let n := m / 2 ^ d
      let rem := m % 2 ^ d
      let up := match sr with
        | none => 2 * rem > 2 ^ d || (2 * rem == 2 ^ d && n % 2 == 1)
        | some r => r.toNat < rem * 2 ^ 32 / 2 ^ d
      some (signed s (n + b2n up))

/-- An integer saturated to a format, as bits (R88, R162). -/
def satInt (f : Nat) (n : Int) : Nat :=
  let w := fmtBits f
  if intSigned f then (max (-(2 ^ (w - 1) : Int)) (min (2 ^ (w - 1) - 1) n) % 2 ^ w).toNat
  else (max 0 (min (2 ^ w - 1) n)).toNat

/-- A value in a format that is not MX (R88, R162): NaN in an integer format gives 0. -/
def encElem (f : Nat) (sr : Option W32) (v : Val) : Nat :=
  match fmtF f with
  | some F => F.enc false sr v
  | none => match roundInt sr v with | none => 0 | some n => satInt f n

/-- e_max of an MX format (R89). -/
def mxEmax (f : Nat) : Int := if f = 4 then 8 else if f = 5 then 15 else 2

/-- The scale and the elements of one MX block of FP32 values (R89, R90). -/
def mxBlock (f : Nat) (vs : List (W32 × Option W32)) : Nat × List Nat :=
  if vs.any fun p => (absF p.1).toNat ≥ 0x7F800000 then (0xFF, vs.map fun _ => 0)
  else
    let amax := vs.foldl (fun (a : W32) p => if (absF p.1).toNat > a.toNat then absF p.1 else a) 0
    let X : Int := match f32v amax with
      | .fin _ 0 _ => -127
      | .fin _ m e => max (-127) (min 127 (e + lg m - mxEmax f))
      | _ => -127
    ((X + 127).toNat, vs.map fun p => match f32v p.1 with
      | .fin s m e => ((fmtF f).getD e4m3).enc true p.2 (.fin s m (e - X))
      | _ => 0)

/-- The mixing function and the random bits of R91. -/
def mix (z : W64) : W64 :=
  let z := (z ^^^ (z >>> 30)) * 0xBF58476D1CE4E5B9
  let z := (z ^^^ (z >>> 27)) * 0x94D049BB133111EB
  z ^^^ (z >>> 31)
def srBits (seed : W64) (salt m n : Nat) : W32 :=
  let c : W64 := BitVec.ofNat 64 (salt % 2 ^ 16 * 2 ^ 32 + m % 2 ^ 16 * 2 ^ 16 + n % 2 ^ 16)
  BitVec.ofNat 32 ((mix (seed ^^^ mix c)).toNat / 2 ^ 32)

/-! ### Checks over bytes -/

/-- `n` bits shifted through a CRC register by `step`, which leaves 0 as it is. -/
def crcBits (step : Nat → Nat) : Nat → Nat → Nat
  | 0, c => c
  | _ + 1, 0 => 0
  | n + 1, c + 1 => crcBits step n (step (c + 1))
/-- Bytes taken one after another into a CRC register, each at the place `at_` gives it. -/
def crcBytes (step : Nat → Nat) (at_ : Nat) : Nat → List Byte → Nat
  | c, [] => c
  | 0, b :: bs => crcBytes step at_ (crcBits step 8 (b.toNat * 2 ^ at_)) bs
  | c + 1, b :: bs => crcBytes step at_ (crcBits step 8 ((c + 1) ^^^ (b.toNat * 2 ^ at_))) bs
/-- CRC-32 of IEEE 802.3, the CRC-32 that R129 and R231 name. -/
def crc32 (bs : List Byte) : W32 :=
  BitVec.ofNat 32 (crcBytes (fun c => if c % 2 = 1 then (c / 2) ^^^ 0xEDB88320 else c / 2) 0 0xFFFFFFFF bs ^^^ 0xFFFFFFFF)

/-- CRC-64 of R327: polynomial 0x42F0E1EBA9EA3693, initial value 0, not reflected, no final XOR; continued from `c`. -/
def crc64 (c : W64) (bs : List Byte) : W64 :=
  BitVec.ofNat 64 (crcBytes (fun c => if c ≥ 2 ^ 63 then (c * 2 % 2 ^ 64) ^^^ 0x42F0E1EBA9EA3693 else c * 2) 56 c.toNat bs)

end Sys2Proof.Machine
end

