-- ==== Sys2Proof/Machine/Operands.lean ====
section
/-! DEFINITION. The descriptor's header and operand slots (R39, R40, R43, R44): decoding, the slot checks, the extents of
an operand with its scales, indices and panel bitmap (R72, R78, R84, R86), and the reading and writing of elements in
stream order (R158). -/

namespace Sys2Proof.Machine

/-! ### Header (R40) -/

def opcodeOf (w : List W32) : Nat := fld (wd w 0) 31 24
def cntEn (w : List W32) : Bool := bit (wd w 0) 23
def specV (w : List W32) : Bool := bit (wd w 0) 22
def fpre (w : List W32) : Bool := bit (wd w 0) 21
def fpost (w : List W32) : Bool := bit (wd w 0) 20
def ffab (w : List W32) : Bool := bit (wd w 0) 19
def wait0En (w : List W32) : Bool := bit (wd w 0) 17
def wait1En (w : List W32) : Bool := bit (wd w 0) 16
def sig0En (w : List W32) : Bool := bit (wd w 0) 15
def sig1En (w : List W32) : Bool := bit (wd w 0) 14
def irqBit (w : List W32) : Bool := bit (wd w 0) 13
def seqOf (w : List W32) : W32 := wd w 1
def specTag (w : List W32) : Byte := BitVec.ofNat 8 (fld (wd w 3) 31 24)
def cellOf (w : List W32) : Nat := fld (wd w 3) 22 16
def wait0Ctr (w : List W32) : Nat := fld (wd w 3) 15 0
def wait1Ctr (w : List W32) : Nat := fld (wd w 5) 31 16
def sig0Ctr (w : List W32) : Nat := fld (wd w 5) 15 0
def sig1Ctr (w : List W32) : Nat := fld (wd w 7) 31 16
def sig0Add (w : List W32) : Nat := fld (wd w 7) 15 8
def sig1Add (w : List W32) : Nat := fld (wd w 7) 7 0

/-- The epoch tag of a descriptor, if it is tagged (R114). -/
def tagOf (w : List W32) : Option Byte := if specV w then some (specTag w) else none

/-- The opcodes that occupy a cell (R42). -/
def isCellOp (op : Nat) : Bool := op = 0x01 || op = 0x10 || op = 0x11 || op = 0x20
/-- The known opcodes (R42). -/
def knownOp (op : Nat) : Bool :=
  [0x01, 0x10, 0x11, 0x20, 0x30, 0x31, 0x32, 0x33, 0x40, 0x50, 0x51, 0x52, 0x60, 0x61, 0x62, 0x70, 0x71, 0x80].contains op

/-! ### Slots (R43) -/

/-- An operand slot. `first` is the index of its first word in the descriptor; dimensions are counts. -/
structure Slot where
  first  : Nat
  base   : Nat
  space  : Nat
  fmt    : Nat
  sparse : Nat
  panel  : Bool
  d0     : Nat
  d1     : Nat
  d2     : Nat
  s1     : Int
  s2     : Int
  smap   : Int
deriving DecidableEq, Repr

/-- The slot whose seven words start at word `i` of a list; `first` names the word that failures report. -/
def slotIn (w : List W32) (i first : Nat) : Slot :=
  { first := first
    base := (wd w i).toNat + (wd w (i + 1)).toNat * 2 ^ 32
    space := fld (wd w (i + 2)) 31 28
    fmt := fld (wd w (i + 2)) 27 22
    sparse := fld (wd w (i + 2)) 21 20
    panel := bit (wd w (i + 2)) 19
    d0 := fld (wd w (i + 3)) 15 0 + 1
    d1 := fld (wd w (i + 3)) 31 16 + 1
    d2 := fld (wd w (i + 2)) 15 0 + 1
    s1 := sext 32 (wd w (i + 4)).toNat
    s2 := sext 32 (wd w (i + 5)).toNat
    smap := sext 32 (wd w (i + 6)).toNat }
/-- Slot 0, 1 or 2 of a descriptor. -/
def slot (w : List W32) (n : Nat) : Slot := slotIn w (8 + 7 * n) (8 + 7 * n)
def Slot.used (x : Slot) : Bool := x.space ≠ 0

/-- Bytes of `n` elements. -/
def fmtBytes (f n : Nat) : Nat := (fmtBits f * n + 7) / 8
/-- A size rounded up to 64 bytes. -/
def pad64 (n : Nat) : Nat := cdiv n 64 * 64

/-- A run of bytes that an operand addresses: from `lo` up to but not including `hi`. -/
structure Part where
  lo : Int
  hi : Int
deriving DecidableEq, Repr

/-- The bytes that the elements address with element stride `e` (R158, R72). -/
def Slot.elems (x : Slot) (e : Int) : Part :=
  let a2 := ((x.d2 : Int) - 1) * x.s2
  let a1 := ((x.d1 : Int) - 1) * x.s1
  let a0 := ((x.d0 : Int) - 1) * e
  let lo := (x.base : Int) + min 0 a2 + min 0 a1
  let hi := (x.base : Int) + max 0 a2 + max 0 a1
  if fmtBits x.fmt = 4 then ⟨lo + (min 0 a0) / 2, hi + (max 0 a0) / 2 + 1⟩
  else
    let nb : Int := (fmtBits x.fmt / 8 : Nat)
    ⟨lo + min 0 a0 * nb, hi + (max 0 a0 + 1) * nb⟩

/-- Rows of `used` bytes, one every `pitch` bytes from `start`. -/
def rowsAt (start : Int) (rows pitch used : Nat) : List Part :=
  (List.range rows).map fun r => ⟨start + (r * pitch : Nat), start + (r * pitch + used : Nat)⟩

/-- The rows of an operand in stream order. -/
def rowsOf (n1 n2 : Nat) : List (Nat × Nat) := ((List.range n2).map fun r2 => (List.range n1).map fun r1 => (r1, r2)).flatten

/-- The address of row (r1, r2). -/
def Slot.row (x : Slot) (r1 r2 : Nat) : Int := x.base + r2 * x.s2 + r1 * x.s1

/-- The bytes that the elements address with element stride `e`, without the gaps between them (R158, R159). -/
def Slot.exact (x : Slot) (e : Int) : List Part :=
  (rowsOf x.d1 x.d2).flatMap fun p =>
    let a := x.row p.1 p.2
    if e = 1 then [⟨a, a + (fmtBytes x.fmt x.d0 : Nat)⟩]
    else (List.range (if e = 0 then 1 else x.d0)).map fun (i : Nat) =>
      if fmtBits x.fmt = 4 then ⟨a + i * e / 2, a + i * e / 2 + 1⟩
      else ⟨a + i * e * (fmtBits x.fmt / 8 : Nat), a + (i * e + 1) * (fmtBits x.fmt / 8 : Nat)⟩

/-- The start of the scale array (R78). -/
def Slot.scaleBase (x : Slot) : Int := if x.d2 = 1 then x.base + (x.d1 : Int) * x.s1 else x.base + (x.d2 : Int) * x.s2

/-- The scale array of `rows` rows of `n` scales (R78). -/
def Slot.scales (x : Slot) (rows n : Nat) : Part := ⟨x.scaleBase, x.scaleBase + (rows * pad64 n : Nat)⟩

/-- The bytes of that array that hold scales, without the padding of its rows. -/
def Slot.scaleRows (x : Slot) (rows n : Nat) : List Part := rowsAt x.scaleBase rows (pad64 n) n

/-- The bytes that an operand addresses with element stride `e`: its elements, and its scales in the layout of an MX C
(R78, R158, R159). -/
def Slot.bytes (x : Slot) (e : Int) : List Part :=
  x.exact e ++ if isMx x.fmt then x.scaleRows (x.d1 * x.d2) (x.d0 / 32) else []

/-- Scales in the layout of an MX C (R78, R158, R193). -/
def Slot.scalesC (x : Slot) : List Part := if isMx x.fmt then [x.scales (x.d1 * x.d2) (x.d0 / 32)] else []

/-- Two lists of parts share a byte (R72). -/
def partsMeet (a b : List Part) : Bool := a.any fun p => b.any fun q => p.lo < q.hi && q.lo < p.hi
/-- Two used operands overlap: in one SPACE, some byte in common (R72, R159). -/
def overlap (x y : Slot) (a b : List Part) : Bool := x.used && x.space = y.space && partsMeet a b

/-- The slot rules of R43 to R45, in field order: the word index of the first bad field. `parts` gives what the opcode
addresses through the slot. -/
def Slot.bad (x : Slot) (w : List W32) (parts : List Part) (host global : Bool) : Option Nat :=
  if x.space = 0 then (List.range 7).findSome? fun i => if wd w (x.first + i) ≠ 0 then some (x.first + i) else none
  else if x.space > 5 || fld (wd w (x.first + 2)) 18 16 ≠ 0 || fmtBits x.fmt = 0 || x.sparse = 3 then some (x.first + 2)
  else if fmtBits x.fmt = 4 && x.d0 % 2 = 1 then some (x.first + 3)
  else if x.space = 1 && (x.base ≥ 2 ^ 48 || parts.any fun p => p.lo < 0 || p.hi > 2 ^ 48) then some x.first
  else if (x.space = 4 && !host) || (x.space = 5 && !global) then some (x.first + 2)
  else none

/-! ### Elements in stream order (R158) -/

/-- An address as a natural number; a negative one wraps out of every space (R44 refuses it before). -/
def addr64 (a : Int) : Nat := (a % 2 ^ 64).toNat

/-- Elements unpacked from bytes, low nibble first (R43). -/
def unpack (f n : Nat) (bs : List Byte) : List Nat :=
  if fmtBits f = 4 then
    ((bs.map fun b => [b.toNat % 16, b.toNat / 16]).flatten).take n
  else (List.range n).map fun i => ofBytes ((bs.drop (i * (fmtBits f / 8))).take (fmtBits f / 8))

/-- Elements packed into bytes. -/
def pack (f : Nat) : List Nat → List Byte
  | [] => []
  | [a] => if fmtBits f = 4 then [BitVec.ofNat 8 (a % 16)] else toBytes (fmtBits f / 8) a
  | a :: b :: t => if fmtBits f = 4 then BitVec.ofNat 8 (a % 16 + b % 16 * 16) :: pack f t
      else toBytes (fmtBits f / 8) a ++ pack f (b :: t)

/-- One element at a row address plus `i` elements. -/
def State.readElem (s : State) (w : Who) (x : Slot) (row : Int) (i : Int) : Except Err Nat := do
  if fmtBits x.fmt = 4 then
    let bs ← s.readBytes w x.space (addr64 (row + i / 2)) 1
    return ofBytes bs / (if i % 2 = 0 then 1 else 16) % 16
  else
    let nb := fmtBits x.fmt / 8
    let bs ← s.readBytes w x.space (addr64 (row + i * (nb : Int))) nb
    return ofBytes bs

/-- A row's elements with element stride `e`: exactly the elements that it addresses are read. -/
def State.readRow (s : State) (w : Who) (x : Slot) (e : Int) (n r1 r2 : Nat) : Except Err (List Nat) := do
  let row := x.row r1 r2
  if e = 1 then
    let bs ← s.readBytes w x.space (addr64 row) (fmtBytes x.fmt n)
    return unpack x.fmt n bs
  else if e = 0 then
    let v ← s.readElem w x row 0
    return List.replicate n v
  else (List.range n).mapM fun (i : Nat) => s.readElem w x row ((i : Int) * e)

/-- The bytes of a row of 4-bit elements: each byte, where an element of its pair is written (R166). -/
def State.writeNibbles (s : State) (w : Who) (space : Nat) (row : Int) : List (Option Nat) → Nat → Except Err State
  | a :: b :: t, i => do
    let s ← if a.isNone && b.isNone then .ok s
      else do
        let old ← if a.isSome && b.isSome then .ok 0 else do let bs ← s.readBytes w space (addr64 (row + i)) 1; pure (ofBytes bs)
        s.writeBytes w space (addr64 (row + i)) [BitVec.ofNat 8 (a.getD old % 16 + b.getD (old / 16) % 16 * 16)]
    s.writeNibbles w space row t (i + 1)
  | _, _ => .ok s

/-- Bytes of a row written; `none` leaves an element as it is, and a byte without a written element is not touched (R166). -/
def State.writeRow (s : State) (w : Who) (x : Slot) (r1 r2 : Nat) (vs : List (Option Nat)) : Except Err State := do
  let row := x.row r1 r2
  if vs.all Option.isSome then s.writeBytes w x.space (addr64 row) (pack x.fmt (vs.map (·.getD 0)))
  else if fmtBits x.fmt = 4 then
    s.writeNibbles w x.space row vs 0
  else
    let nb := fmtBits x.fmt / 8
    vs.zipIdx.foldlM (fun s p => match p.1 with
      | none => Except.ok s
      | some v => s.writeBytes w x.space (addr64 (row + ((p.2 * nb : Nat) : Int))) (toBytes nb v)) s

/-- Scale bytes `j` to `j + n − 1` of row `r` of a scale array whose rows hold `per` scales (R78). -/
def State.readScales (s : State) (w : Who) (x : Slot) (per r j n : Nat) : Except Err (List Nat) := do
  let bs ← s.readBytes w x.space (addr64 (x.scaleBase + ((r * pad64 per + j : Nat) : Int))) n
  return bs.map (·.toNat)

/-- Scale bytes written at the start of row `r`. -/
def State.writeScales (s : State) (w : Who) (x : Slot) (per r : Nat) (sc : List Nat) : Except Err State :=
  s.writeBytes w x.space (addr64 (x.scaleBase + ((r * pad64 per : Nat) : Int))) (sc.map fun v => BitVec.ofNat 8 v)

/-- Elements with their scale byte (127 for a format without scales), row by row, in the layout of an MX C. -/
def State.readMxRow (s : State) (w : Who) (x : Slot) (e : Int) (n n1 r1 r2 : Nat) : Except Err (List (Nat × Nat)) := do
  let es ← s.readRow w x e n r1 r2
  if isMx x.fmt then
    let sc ← s.readScales w x (n / 32) (r2 * n1 + r1) 0 (n / 32)
    return es.zipIdx.map fun p => (p.1, sc.getD (p.2 / 32) 0)
  else return es.map fun v => (v, 127)

/-- Every element of an operand in stream order, as raw bits with its scale. -/
def State.readAll (s : State) (w : Who) (x : Slot) : Except Err (List (Nat × Nat)) := do
  let rs ← (rowsOf x.d1 x.d2).mapM fun p => s.readMxRow w x 1 x.d0 x.d1 p.1 p.2
  return rs.flatten

/-- Blocks of 32 of a list. -/
def blocks {α : Type} (k : Nat) : Nat → List α → List (List α)
  | 0, _ => []
  | f + 1, l => if l.isEmpty then [] else l.take k :: blocks k f (l.drop k)

/-- A row of FP32 values written to an MX operand with blocks along D0 (R89); `sr` gives the random bits of an element. -/
def State.writeMxRow (s : State) (w : Who) (x : Slot) (r1 r2 : Nat) (vs : List (W32 × Option W32)) : Except Err State := do
  let bl := (blocks 32 (vs.length + 1) vs).map (mxBlock x.fmt)
  let s ← s.writeRow w x r1 r2 ((bl.map (·.2)).flatten.map some)
  s.writeScales w x (vs.length / 32) (r2 * x.d1 + r1) (bl.map (·.1))

/-- The bytes that an operand's parts cover are left unspecified (R98, R170, R199). -/
def State.spoilParts (s : State) (w : Who) (x : Slot) (ps : List Part) : State :=
  if !x.used then s else
  ps.foldl (fun s p => if p.lo < p.hi ∧ 0 ≤ p.lo then s.spoil w x.space p.lo.toNat (p.hi - p.lo).toNat else s) s.draw

end Sys2Proof.Machine
end

