-- ==== Sys2Proof/Machine/Check.lean ====
section
/-! DEFINITION. The checks that the front end makes on a fetched descriptor (R41, R463), with each opcode's slot rules and
word rules; the first failing check gives the status and DETAIL. Checks that need the state at the start are made there. -/

namespace Sys2Proof.Machine

/-- The word of the first check that fails. -/
def firstBad (l : List (Bool × Nat)) : Option Nat := (l.find? fun p => p.1).map (·.2)
/-- The same over lists of checks made one after another. -/
def firstOf (ls : List (List (Bool × Nat))) : Option Nat := firstBad ls.flatten

/-! ### What a slot addresses -/

/-- K positions per stored row of A: 1 dense, 2 at 2:4, 4 at 1:4 (R71, R83). -/
def sparseRatio (x : Slot) : Nat := if x.sparse = 1 then 2 else if x.sparse = 2 then 4 else 1
/-- Bits of an index entry (R84). -/
def idxBits (x : Slot) : Nat := if x.sparse = 1 then 4 else 2
/-- Bytes of a row of the index array, padded (R84). -/
def idxRow (x : Slot) : Nat := pad64 (cdiv (x.d0 * idxBits x) 8)
/-- The index array and the panel bitmap start at BASE + SMAP × 64 (R84, R86). -/
def metaBase (x : Slot) : Int := x.base + x.smap * 64
/-- The panel bitmap of A or B, over P panels: its start, and its row size (R86). -/
def bitmapBase (x : Slot) : Int :=
  metaBase x + if x.sparse = 0 then 0 else ((x.d1 * sparseRatio x / 4 * idxRow x : Nat) : Int)
def bitmapRow (P : Nat) : Nat := cdiv P 512 * 64

/-- The parts of a MATMUL operand (R72). `c` marks slot 2. -/
def matParts (x : Slot) (c : Bool) : List Part :=
  let K := x.d1 * sparseRatio x
  [x.elems 1] ++
  (if isMx x.fmt then [if c then x.scales x.d1 (x.d0 / 32) else x.scales (K / 32) x.d0] else []) ++
  (if x.sparse ≠ 0 then [⟨metaBase x, metaBase x + ((K / 4 * idxRow x : Nat) : Int)⟩] else []) ++
  (if x.panel then [⟨bitmapBase x, bitmapBase x + ((cdiv x.d0 256 * bitmapRow (K / 32) : Nat) : Int)⟩] else [])

/-- Element strides of src0, src1, src2 and the mask (R156). -/
def vsStride (w : List W32) (n : Nat) : Int := sext 8 (fld (wd w 30) (31 - 8 * n) (24 - 8 * n))

/-- The scale array of a MOVE operand with its scale direction (R193): row size and rows. -/
def moveScaleDim (x : Slot) (sd : Bool) : Nat × Nat :=
  if sd then (x.d0, x.d1 / 32 * x.d2) else (x.d0 / 32, x.d1 * x.d2)
def moveParts (x : Slot) (sd : Bool) : List Part :=
  x.elems 1 :: if isMx x.fmt then [x.scales (moveScaleDim x sd).2 (moveScaleDim x sd).1] else []

def copyMode (w : List W32) : Nat := fld (wd w 29) 31 28
/-- SD_DST for slot 0, SD_SRC otherwise (R192). -/
def copySd (w : List W32) (n : Nat) : Bool := if n = 0 then bit (wd w 29) 20 else bit (wd w 29) 21

/-- The parts that slot `n` of a descriptor addresses. -/
def slotParts (w : List W32) (n : Nat) : List Part :=
  let x := slot w n
  match opcodeOf w with
  | 0x01 => matParts x (n = 2)
  | 0x10 => x.elems (if n = 0 then 1 else vsStride w (n - 1)) :: x.scalesC
  | 0x20 => if copyMode w = 0 then moveParts x (copySd w n) else [x.elems 1]
  | _ => x.elems 1 :: x.scalesC

/-- The bytes that a command accesses through slot `n`: without the gaps between rows and, but for MATMUL's arrays, without
padding (R118, R120, R159, R170). -/
def slotTouch (w : List W32) (n : Nat) : List Part :=
  let x := slot w n
  match opcodeOf w with
  | 0x01 => x.exact 1 ++ (matParts x (n = 2)).drop 1
  | 0x10 => x.bytes (if n = 0 then 1 else vsStride w (n - 1))
  | 0x20 => if copyMode w = 0 then
      x.exact 1 ++ if isMx x.fmt then x.scaleRows (moveScaleDim x (copySd w n)).2 (moveScaleDim x (copySd w n)).1 else []
      else x.exact 1
  | _ => x.bytes 1

/-! ### Slot rules of each opcode (R463, step 4) -/

def in123 (x : Slot) : Bool := 1 ≤ x.space && x.space ≤ 3
/-- A float format of the matrix array (R75). -/
def matFloat (f : Nat) : Bool := 2 ≤ f && f ≤ 6
def matInt (f : Nat) : Bool := f = 7 || f = 8

/-- R71, R72, R75. -/
def matSlot (w : List W32) (n : Nat) : Option Nat :=
  let x := slot w n
  let f := x.first
  firstOf [[(!x.used, f + 2), (!in123 x, f + 2), (x.d2 ≠ 1, f + 2), (x.s2 ≠ 0, f + 5), (x.base % 64 ≠ 0, f),
    (x.s1 % 64 ≠ 0 || x.s1 < (fmtBytes x.fmt x.d0 : Nat), f + 4)],
    (if n = 2 then [(!(x.fmt = 1 || matFloat x.fmt || x.fmt = 7) || x.sparse ≠ 0 || x.panel, f + 2),
        (isMx x.fmt && x.d0 % 32 ≠ 0, f + 3)]
     else [(!(matFloat x.fmt || matInt x.fmt), f + 2)]),
    (if n = 1 then [(x.sparse ≠ 0, f + 2), (x.d1 % 32 ≠ 0, f + 3)] else [])]

/-- R155. -/
def vsSlot (w : List W32) (n : Nat) : Option Nat :=
  let x := slot w n
  firstBad [(n = 1 && !x.used, x.first + 2), (x.space > 3, x.first + 2)]

/-- R172. -/
def vcSlot (w : List W32) (n : Nat) : Option Nat :=
  let x := slot w n
  firstBad [(n < 2 && !x.used, x.first + 2), (x.space > 3, x.first + 2), (isMx x.fmt, x.first + 2)]

/-- R192 to R196, R214, R289. -/
def copySlot (w : List W32) (n : Nat) : Option Nat :=
  let x := slot w n
  let f := x.first
  let m := copyMode w
  if m > 2 then none
  else
    let must := (m = 0 && n < 2) || (m = 1 && n < 2) || (m = 2 && n = 1)
    let may := must || (m = 1 && n = 2)
    let al : Int := if m = 1 && bit (wd w 29) 25 then 8 else max (fmtBits x.fmt / 8) 1
    firstOf [[(!may && x.used, f + 2), (must && !x.used, f + 2)],
    (if !x.used then [] else
        [(m = 1 && n = 0 && !(x.space = 1 || x.space = 3 || x.space = 5), f + 2), (m = 1 && n = 2 && !in123 x, f + 2),
         (m = 2 && (x.fmt ≠ 12 || x.d2 ≠ 1), f + 2),
         (m = 0 && isMx x.fmt && (if copySd w n then x.d1 else x.d0) % 32 ≠ 0, f + 3),
         (m = 0 && isMx x.fmt && partsMeet (x.exact 1) ((moveParts x (copySd w n)).drop 1), f),
         (x.space = 5 && fld (wd w (f + 1)) 15 12 ≥ 4, f + 1),
         ((x.base : Int) % al ≠ 0, f), (x.s1 % al ≠ 0, f + 4), (x.s2 % al ≠ 0, f + 5)])]

/-- R99. -/
def routeSlot (w : List W32) (n : Nat) : Option Nat :=
  let x := slot w n
  let f := x.first
  firstOf [[(!x.used || !in123 x, f + 2), (x.d2 ≠ 1, f + 2), (x.s2 ≠ 0, f + 5)],
    (if n = 0 then [(!(x.fmt = 1 || x.fmt = 2), f + 2), (x.d0 > 256 || x.d1 > 16384, f + 3)]
     else if n = 1 then [(!(matFloat x.fmt || x.fmt = 7), f + 2), (isMx x.fmt && x.d0 % 32 ≠ 0, f + 3),
        (isMx x.fmt && partsMeet (x.exact 1) x.scalesC, f)]
     else [(x.fmt ≠ 12, f + 2), (x.d0 ≠ 64, f + 3), (x.s1 ≠ 64, f + 4)])]

/-- A row float format of COMBINE (R110). -/
def rowFloat (f : Nat) : Bool := 1 ≤ f && f ≤ 3

/-- R110; the dispatch area has the shape that R99 gives it (log entry 20). -/
def combineSlot (w : List W32) (n : Nat) : Option Nat :=
  let x := slot w n
  let f := x.first
  if n = 1 && !x.used then none
  else firstOf [[(!x.used || !in123 x, f + 2), (x.d2 ≠ 1, f + 2)],
    (if n = 0 then [(x.fmt ≠ 12, f + 2), (x.d0 ≠ 64, f + 3), (x.s1 ≠ 64, f + 4)] else [(!rowFloat x.fmt, f + 2)])]

/-- R139. -/
def scoutSlot (w : List W32) (n : Nat) : Option Nat :=
  let x := slot w n
  let f := x.first
  if n = 2 then firstBad [(x.used, f + 2)]
  else firstOf [[(!x.used || !in123 x, f + 2), (x.d2 ≠ 1, f + 2), (x.s2 ≠ 0, f + 5), (x.d0 ≠ 64, f + 3)],
    (if n = 0 then [(x.fmt ≠ 7, f + 2), (x.d1 > 64, f + 3), (x.s1 % 64 ≠ 0, f + 4)]
     else [(x.fmt ≠ 12, f + 2), (x.s1 ≠ 64, f + 4)])]

/-- R152. -/
def gatherSlot (w : List W32) (n : Nat) : Option Nat :=
  let x := slot w n
  let f := x.first
  if n = 2 && !x.used then none
  else firstOf [[(!x.used || !in123 x, f + 2), (x.fmt ≠ (if n = 2 then 10 else 12), f + 2), (x.d2 ≠ 1, f + 2)],
    (if n = 0 then [(x.d0 ≠ 64, f + 3), (x.s1 ≠ 64, f + 4)] else if n = 1 then [(x.s1 % 64 ≠ 0, f + 4)]
     else [(x.d1 ≠ 1, f + 3)]),
    [(x.s2 ≠ 0, f + 5)]]

/-- The formats of a collective: FP32, BF16, FP16, INT32, UINT32 (R310). -/
def collFmt (f : Nat) : Bool := rowFloat f || f = 9 || f = 10

/-- R309, R310. -/
def collSlot (w : List W32) (n : Nat) : Option Nat :=
  let x := slot w n
  if n = 2 then firstBad [(x.used, x.first + 2)]
  else firstBad [(!x.used || !in123 x, x.first + 2), (!collFmt x.fmt, x.first + 2)]

/-- R58, R64, R115, R330. -/
def hubSlot (w : List W32) (n : Nat) : Option Nat :=
  let x := slot w n
  let f := x.first
  match opcodeOf w with
  | 0x50 => if n = 0 then firstBad [(x.used && (!ffab w || x.fmt ≠ 11 || !in123 x || x.d2 ≠ 1), f + 2), (x.used && x.d1 ≠ 1, f + 3)]
      else firstBad [(x.used, f + 2)]
  | 0x80 => if n = 0 then firstBad [(!(1 ≤ x.space && x.space ≤ 4) || x.fmt ≠ 10 || x.sparse ≠ 0 || x.panel || x.d2 ≠ 1, f + 2),
        (x.d0 ≠ 4 || x.d1 ≠ 1, f + 3), (x.s1 ≠ 0, f + 4), (x.s2 ≠ 0, f + 5), (x.smap ≠ 0, f + 6), (x.base % 16 ≠ 0, f)]
      else firstBad [(x.used, f + 2)]
  | 0x61 => if n = 0 then firstBad [(x.used && (!in123 x || x.fmt ≠ 10), f + 2), (x.used && (x.d0 ≠ 1 || x.d1 ≠ 1), f + 3)]
      else firstBad [(x.used, f + 2)]
  | 0x70 => if n = 0 then firstBad [(x.used && (!(x.space = 1 || x.space = 5) || x.fmt ≠ 12), f + 2),
        (x.used && x.d0 ≠ 64, f + 3), (x.used && x.s1 ≠ 64, f + 4)]
      else firstBad [(x.used, f + 2)]
  | 0x71 => if n = 0 then firstBad [(!(x.space = 1 || x.space = 3) || x.fmt ≠ 10, f + 2), (x.d0 ≠ 2 || x.d1 ≠ 1, f + 3), (x.base % 8 ≠ 0, f)]
      else if n = 1 then firstBad [(x.used && (!(x.space = 1 || x.space = 3) || x.fmt ≠ 12), f + 2)]
      else firstBad [(x.used, f + 2)]
  | _ => firstBad [(x.used, f + 2)]

/-- The slot rules of the opcode. -/
def opSlot (w : List W32) (n : Nat) : Option Nat :=
  match opcodeOf w with
  | 0x01 => matSlot w n
  | 0x10 => vsSlot w n
  | 0x11 => vcSlot w n
  | 0x20 => copySlot w n
  | 0x30 => routeSlot w n
  | 0x31 => combineSlot w n
  | 0x32 => scoutSlot w n
  | 0x33 => gatherSlot w n
  | 0x40 => collSlot w n
  | _ => hubSlot w n

/-! ### Word rules and relations (R463, step 6) -/

/-- Bits of a word outside a mask. -/
def outside (w : W32) (m : W32) : Bool := w &&& ~~~ m ≠ 0

/-- R72, R73, R76. -/
def matWords (w : List W32) : Option Nat :=
  let a := slot w 0
  let b := slot w 1
  let c := slot w 2
  firstBad [(a.d1 * sparseRatio a ≠ b.d1, 11), (c.d1 ≠ a.d0, 25), (c.d0 ≠ b.d0, 25), (matInt a.fmt ≠ matInt b.fmt, 10),
    (isMx a.fmt && partsMeet (a.exact 1) [a.scales (b.d1 / 32) a.d0], 8),
    (isMx b.fmt && partsMeet (b.exact 1) [b.scales (b.d1 / 32) b.d0], 15),
    (isMx c.fmt && partsMeet (c.exact 1) [c.scales c.d1 (c.d0 / 32)], 22),
    (overlap c a (matParts c true) (matParts a false) || overlap c b (matParts c true) (matParts b false), 22),
    (fld (wd w 29) 31 30 ≥ 2 || outside (wd w 29) 0xE000FFFF, 29), (wd w 30 ≠ 0, 30), (wd w 31 ≠ 0, 31)]

/-- Whether FUNC needs (2), may take (1) or does not take (0) src1, and the same for src2 (R161); none if invalid. -/
def funcArgs (f : Nat) : Option (Nat × Nat) :=
  if f = 0 || f = 0x0E || f = 0x0F then some (0, 0)
  else if f = 0x04 || f = 0x0D then some (2, 2)
  else if f ≤ 0x0C then some (2, 0)
  else if f ≤ 0x16 then some (1, 1) else none

def vsFunc (w : List W32) : Nat := fld (wd w 29) 31 26
def vsRed (w : List W32) : Nat := fld (wd w 29) 23 21
def vsAx (w : List W32) : Nat := fld (wd w 29) 20 19
def vsSalt (w : List W32) : Nat := fld (wd w 29) 15 0
def rndBit (w : List W32) : Bool := bit (wd w 29) 24

def vsXoff (w : List W32) : Int := sext 32 (wd w 31).toNat
/-- The address of the extension block (R157). -/
def vsExtVa (w : List W32) : Nat := addr64 (((slot w 1).base / 64 * 64 : Nat) + vsXoff w * 64)

/-- The element size that coinciding operands must share, and the coincidence of R169: the same SPACE, BASE, strides and
element size, with element stride 1. -/
def coincide (x y : Slot) (e : Int) : Bool :=
  x.used && x.space = y.space && x.base = y.base && x.s1 = y.s1 && x.s2 = y.s2 && fmtBits x.fmt = fmtBits y.fmt && e = 1

/-- The slot word where the D fields of `x` differ from those of `y`, if any. -/
def dimWord (x y : Slot) : Option Nat :=
  if x.d2 ≠ y.d2 then some 2 else if x.d0 ≠ y.d0 || x.d1 ≠ y.d1 then some 3 else none

/-- Elements of a reduction group (R167). -/
def redGroup (w : List W32) (x : Slot) : Nat :=
  if vsAx w = 0 then x.d0 else if vsAx w = 1 then x.d0 * x.d1 else x.d0 * x.d1 * x.d2

/-- R156 to R159, R168, R169, as far as the descriptor decides. -/
def vsWords (w : List W32) : Option Nat :=
  let d := slot w 0
  let a := slot w 1
  let b := slot w 2
  let x := wd w 31
  let args := (funcArgs (vsFunc w)).getD (1, 1)
  let dp := d.bytes 1
  firstBad [(fld (wd w 29) 18 16 ≠ 0, 29), (!b.used && vsStride w 1 ≠ 0, 30),
    (x = 0 && (vsStride w 2 ≠ 0 || vsStride w 3 ≠ 0), 30),
    ((funcArgs (vsFunc w)).isNone || vsRed w > 4 || (vsRed w ≠ 0 && vsAx w = 3), 29),
    ((args.1 = 2 && !b.used) || (args.1 = 0 && b.used), 24), (args.2 = 2 && x = 0, 31), (!d.used && vsRed w = 0, 10),
    (vsRed w ≠ 0 && x = 0, 31), (d.used && (dimWord d a).isSome, 8 + (dimWord d a).getD 0),
    (b.used && (dimWord b a).isSome, (if d.used then 8 else 22) + (dimWord b a).getD 0),
    (d.used && isMx d.fmt && a.d0 % 32 ≠ 0, 11), (d.used && isMx d.fmt && partsMeet (d.exact 1) d.scalesC, 8),
    (isMx a.fmt && vsStride w 0 ≠ 1, 30), (isMx a.fmt && a.d0 % 32 ≠ 0, 18),
    (isMx a.fmt && partsMeet (a.exact 1) a.scalesC, 15),
    (b.used && isMx b.fmt && vsStride w 1 ≠ 1, 30), (b.used && isMx b.fmt && a.d0 % 32 ≠ 0, 25),
    (b.used && isMx b.fmt && partsMeet (b.exact 1) b.scalesC, 22),
    (vsRed w = 3 && redGroup w a > 2 ^ 32, 29),
    (overlap d a dp (a.bytes (vsStride w 0)) && !coincide d a (vsStride w 0), 8),
    (overlap d b dp (b.bytes (vsStride w 1)) && !coincide d b (vsStride w 1), 8),
    (x ≠ 0 && d.used && d.space = a.space && partsMeet dp [⟨(vsExtVa w : Nat), (vsExtVa w + 128 : Nat)⟩], 31)]

/-- The words of the extension block as a command reads them: zeros where XOFF is 0 (R157). -/
def State.vsExt (s : State) (who : Who) (w : List W32) : Except Err (List W32) := do
  if wd w 31 = 0 then return []
  let bs ← s.readBytes who (slot w 1).space (vsExtVa w) 128
  return bytesToWords 32 bs
/-- Slot 3, 4 or 5, in the extension block (R157). -/
def extSlot (x : List W32) (n : Nat) : Slot := slotIn x (7 * (n - 3)) (7 * (n - 3))

/-- CHAIN_VA (R172). -/
def chainVa (w : List W32) : Nat := (wd w 30).toNat + fld (wd w 31) 15 0 * 2 ^ 32

/-- R172. -/
def vcWords (w : List W32) : Option Nat :=
  let d := slot w 0
  let a := slot w 1
  let b := slot w 2
  let dp := d.exact 1
  firstBad [(outside (wd w 29) 0x0100FFFF, 29), (chainVa w % 64 ≠ 0, 30), (fld (wd w 31) 31 16 ≠ 0, 31),
    ((dimWord d a).isSome, 8 + (dimWord d a).getD 0), (b.used && (dimWord b a).isSome, 8 + (dimWord b a).getD 0),
    (overlap d a dp (a.exact 1) && !coincide d a 1, 8), (overlap d b dp (b.exact 1) && !coincide d b 1, 8),
    (d.space = 1 && partsMeet dp [⟨chainVa w, chainVa w + 64⟩], 30)]

def copyAop (w : List W32) : Nat := fld (wd w 29) 19 16
def copyAw (w : List W32) : Bool := bit (wd w 29) 25
def copyTrans (w : List W32) : Bool := bit (wd w 29) 27
def kvLen (w : List W32) : Nat := fld (wd w 30) 31 16
def kvOff (w : List W32) : Nat := fld (wd w 30) 15 0
def streamOf (w : List W32) : Nat := fld (wd w 29) 13 0

/-- R192 to R196, R214, R329. -/
def copyWords (w : List W32) (det : Bool) : Option Nat :=
  let d := slot w 0
  let a := slot w 1
  let o := slot w 2
  let m := copyMode w
  let k := if copyAop w = 5 then 2 else 1
  let allow : W32 := if m = 0 then 0xFC300000 else if m = 1 then 0xF60F0000 else 0xF5003FFF
  firstOf [[(m > 2, 29), (outside (wd w 29) allow, 29), (m ≠ 2 && wd w 30 ≠ 0, 30), (wd w 31 ≠ 0, 31)],
    (if m = 0 then [((if copyTrans w then d.d0 ≠ a.d1 || d.d1 ≠ a.d0 else d.d0 ≠ a.d0 || d.d1 ≠ a.d1), 11), (d.d2 ≠ a.d2, 10)]
     else if m = 1 then
      [(copyAop w = 0 || copyAop w > 6 || (copyAw w && copyAop w = 6), 29),
       ((if copyAop w = 6 then !(d.fmt = 1 || d.fmt = 2) else !(d.fmt = 9 || d.fmt = 10)), 10),
       (copyAw w && d.d0 % 2 = 1, 11), (a.fmt ≠ d.fmt || a.d2 ≠ d.d2, 10), (a.d0 ≠ k * d.d0 || a.d1 ≠ d.d1, 11),
       (o.used && (o.fmt ≠ d.fmt || o.d2 ≠ d.d2), 10), (o.used && (o.d0 ≠ d.d0 || o.d1 ≠ d.d1), 11),
       (det && (copyAop w = 6 || copyAop w = 4 || copyAop w = 5), 29), (det && o.used, 24)]
     else [(kvLen w = 0 || kvLen w > 1024, 30), (a.d0 ≠ kvLen w * 64, 18)]),
    [(overlap d a (slotParts w 0) (slotParts w 1) || (o.used && overlap d o (slotParts w 0) (slotParts w 2)), 8)]]

/-- R100. -/
def routeWords (w : List W32) : Option Nat :=
  firstBad [(outside (wd w 29) 0x1FF || fld (wd w 29) 7 6 = 3 || fld (wd w 29) 5 4 = 3 || fld (wd w 29) 3 0 = 0 || fld (wd w 29) 3 0 > 8, 29),
    (fld (wd w 30) 15 0 = 0, 30), ((slot w 1).d1 ≠ (slot w 0).d1, 18)]

/-- R110. -/
def combineWords (w : List W32) : Option Nat :=
  let a := slot w 1
  let d := slot w 2
  firstBad [(a.used && (a.d0 ≠ d.d0 || a.d1 ≠ d.d1), 25), (fld (wd w 31) 31 16 ≠ 0, 31)]

/-- R139, R140. -/
def scoutWords (w : List W32) : Option Nat :=
  firstBad [(outside (wd w 29) 0xFFFF3FFF, 29), (outside (wd w 30) 0xFFFFFC00, 30), (outside (wd w 31) 0xF3FFFFFF, 31),
    (fld (wd w 30) 31 21 = 0 || fld (wd w 30) 31 21 + fld (wd w 30) 20 10 > 1024, 30)]

/-- R152. -/
def gatherWords (w : List W32) : Option Nat :=
  let b := slot w 1
  let c := slot w 2
  firstBad [(outside (wd w 29) 0x007F3FFF, 29), (kvLen w = 0 || kvLen w > 1024, 30), (wd w 31 ≠ 0, 31), (b.d0 ≠ kvLen w * 64, 18),
    (c.used && c.d0 ≠ b.d1, 18), (fld (wd w 29) 22 16 ≥ 64 && fld (wd w 29) 22 16 ≠ 0x7F, 29)]

def collOp (w : List W32) : Nat := fld (wd w 29) 31 28
def collRed (w : List W32) : Nat := fld (wd w 29) 27 26
def collChunk (w : List W32) : Nat := fld (wd w 29) 20 16

/-- R309 to R311, as far as the descriptor decides. -/
def collWords (w : List W32) : Option Nat :=
  let a := slot w 0
  let d := slot w 1
  firstBad [(collOp w = 0 || collOp w > 4 || collRed w = 3 || collChunk w < 16 || collChunk w > 21 || outside (wd w 29) 0xFE1F00FF, 29),
    (wd w 30 = 0, 30), (outside (wd w 31) 0xFFF, 31), (rowFloat a.fmt ≠ rowFloat d.fmt, 17),
    ((collOp w = 2 || collOp w = 4) && a.fmt ≠ d.fmt, 17),
    (overlap d a [d.elems 1] [a.elems 1] && !(collOp w = 3 && coincide d a 1), 15)]

/-- R58, R64, R115, R330. -/
def hubWords (w : List W32) : Option Nat :=
  match opcodeOf w with
  | 0x50 | 0x80 => firstBad [(wd w 29 ≠ 0, 29), (wd w 30 ≠ 0, 30), (wd w 31 ≠ 0, 31)]
  | 0x51 => firstBad [(outside (wd w 31) 1, 31), (wd w 30 = 0, 30), (!bit (wd w 31) 0 && fld (wd w 29) 31 16 ≠ 0, 29)]
  | 0x52 => firstBad [(fld (wd w 29) 31 16 ≠ 0, 29)]
  | 0x60 => firstBad [(specV w, 0), (outside (wd w 29) 0xFF030003 || fld (wd w 29) 1 0 = 3, 29), (outside (wd w 30) 0x3FFF3FFF, 30),
      (outside (wd w 31) 0x003F1F3F || fld (wd w 31) 12 8 > 16, 31)]
  | 0x61 | 0x62 => firstBad [(specV w, 0), (outside (wd w 29) 0xFF000000, 29), (wd w 30 ≠ 0, 30), (wd w 31 ≠ 0, 31)]
  | 0x70 => firstBad [(specV w, 0), (outside (wd w 31) 3, 31), ((fld (wd w 31) 1 0 = 0) ≠ !(slot w 0).used, 10)]
  | 0x71 => firstBad [(specV w, 0), (outside (wd w 29) 0x80000000, 29), (bit (wd w 29) 31 ≠ (slot w 1).used, 17),
      (fld (wd w 30) 5 0 ≠ 0, 30)]
  | _ => none

/-- The word rules of the opcode, in a context with DET `det`. -/
def opWords (w : List W32) (det : Bool) : Option Nat :=
  match opcodeOf w with
  | 0x01 => matWords w
  | 0x10 => vsWords w
  | 0x11 => vcWords w
  | 0x20 => copyWords w det
  | 0x30 => routeWords w
  | 0x31 => combineWords w
  | 0x32 => scoutWords w
  | 0x33 => gatherWords w
  | 0x40 => collWords w
  | _ => hubWords w

/-! ### The front end's check (R41, R46, R463) -/

/-- The header counters that are enabled, in the order of R463, then the counter of a hub command. -/
def enabledCtrs (w : List W32) : List Nat :=
  (if wait0En w then [wait0Ctr w] else []) ++ (if wait1En w then [wait1Ctr w] else []) ++
  (if sig0En w then [sig0Ctr w] else []) ++ (if sig1En w then [sig1Ctr w] else []) ++
  (if opcodeOf w = 0x52 || (opcodeOf w = 0x51 && !bit (wd w 31) 0) then [fld (wd w 29) 15 0] else [])

/-- The S-class refusals that the descriptor decides (R46): the word of the offending field. -/
def sRefusal (w : List W32) : Option Nat :=
  firstBad [((slot w 0).space = 2 || (slot w 0).space = 4 || (slot w 0).space = 5, 10),
    ((slot w 1).space = 2 || (slot w 1).space = 4 || (slot w 1).space = 5, 17),
    ((slot w 2).space = 2 || (slot w 2).space = 4 || (slot w 2).space = 5, 24),
    (opcodeOf w = 0x51 && bit (wd w 31) 0, 31), (opcodeOf w = 0x71 && bit (wd w 29) 31, 29), (opcodeOf w = 0x40, 29)]

/-- The checks of the header after SEQ and OPCODE (R41, R46). -/
def headerBad (r : CtxRec) (c : Nat) (w : List W32) : Option Nat :=
  firstBad [(wd w 0 &&& 0x00041000 ≠ 0, 0), (wd w 3 &&& 0x00800000 ≠ 0, 3), (fld (wd w 0) 11 0 ≠ c, 0),
    ((sig0En w && sig0Add w = 0) || (sig1En w && sig1Add w = 0), 7),
    (isCellOp (opcodeOf w) && !r.isS && !r.inMask (cellOf w), 3)]

/-- The check of slot `n` (R43, R44, then the opcode's rules). -/
def slotBad (w : List W32) (n : Nat) : Option Nat :=
  match (slot w n).bad w (slotParts w n) (opcodeOf w = 0x20 || opcodeOf w = 0x80)
      (opcodeOf w = 0x20 || (opcodeOf w = 0x70 && n = 0)) with
  | some i => some i
  | none => opSlot w n

/-- A failed check as status and DETAIL. -/
def badDesc (i : Nat) : Err := (St.badDesc, BitVec.ofNat 32 i)

/-- The first failing check of a descriptor fetched for context `c` whose queue expects SEQ `exp` (R41, R463). -/
def fetchBad (r : CtxRec) (c : Nat) (exp : W32) (w : List W32) : Option Err :=
  if seqOf w ≠ exp then some (St.badSeq, exp)
  else if !knownOp (opcodeOf w) then some (St.badOpcode, 0)
  else match headerBad r c w with
  | some i => some (badDesc i)
  | none => match (List.range 3).findSome? (slotBad w) with
  | some i => some (badDesc i)
  | none => match (if r.isS then sRefusal w else none) with
  | some i => some (badDesc i)
  | none => match opWords w r.det with
  | some i => some (badDesc i)
  | none => ((enabledCtrs w).find? fun k => !r.owns k).map fun k => (St.badEvent, BitVec.ofNat 32 k)

end Sys2Proof.Machine
end

