-- ==== Sys2Proof/Machine/Cmd.lean ====
section
/-! DEFINITION. What every command passes through: waits and signals (R59 to R63), start conditions (R56, R57), the
counter banks and the trace record (R411, R417), the completion record, halting and interrupts (R66 to R69), steps that
fail (R333), the life log's events (R421). -/

namespace Sys2Proof.Machine

/-! ### Life log events (R421, R422) -/

/-- Power-on minutes (R420). -/
def State.poh (s : State) : W32 := s.log.acc.minutes
/-- An event joins those that wait for a flush; past 1,024 it is lost (R422). Nothing is kept while EN is 0 (R424). -/
def State.logEvent (s : State) (type : Byte) (unit d0 d1 : Nat) : State :=
  if !bit s.log.ctrl 31 then s
  else if s.log.wait.length ≥ 1024 then s.modLog fun l => { l with lost := true }
  else s.modLog fun l => { l with wait := l.wait ++
    [⟨type, BitVec.ofNat 9 unit, l.acc.minutes, BitVec.ofNat 32 d0, BitVec.ofNat 32 d1⟩] }

/-! ### Event counters -/

/-- What an epoch of a tag adds to a counter in its own view (R63, R122). -/
def State.pendingAdd (s : State) (c : Nat) (t : Option Byte) (ctr : Nat) : W32 :=
  match s.epoch c t with
  | some e => ((e.adds.find? fun p => p.1 = ctr).map (·.2)).getD 0
  | none => 0
/-- A counter as a command of context `c` with tag `t` sees it (R63, R122). -/
def State.ctrView (s : State) (c : Nat) (t : Option Byte) (ctr : Nat) : W32 := s.ctr ctr + s.pendingAdd c t ctr

/-- The tag in whose view a descriptor's waits are tested: its own, or the one that SPEC_COMMIT or SPEC_ABORT names (R122). -/
def waitTag (w : List W32) : Option Byte :=
  if opcodeOf w = 0x61 || opcodeOf w = 0x62 then some (BitVec.ofNat 8 (fld (wd w 29) 31 24)) else tagOf w

/-- A fetched descriptor with its waits tested once more; a wait once met stays met (R60). -/
def State.testWaits (s : State) (c : Nat) (f : Fetched) : Fetched :=
  let t := waitTag f.words
  let m0 := f.met0 || !wait0En f.words || reached (s.ctrView c t (wait0Ctr f.words)) (wd f.words 4)
  let m1 := f.met1 || !wait1En f.words || reached (s.ctrView c t (wait1Ctr f.words)) (wd f.words 6)
  { f with met0 := m0, met1 := m1, ready := if m0 && m1 && !(f.met0 && f.met1) then s.now else f.ready }

/-- The condition of an EVENT_WAIT, in its own view (R63, R64). -/
def State.eventHolds (s : State) (r : Run) : Bool :=
  reached (s.ctrView r.id.ctx.val (if r.slot.isSome then some (specTag r.words) else none) (fld (wd r.words 29) 15 0)) (wd r.words 30)

/-- A running EVENT_WAIT with its condition tested once more; once met, it stays met (R60). -/
def State.testRun (s : State) (r : Run) : Run := if opcodeOf r.words = 0x52 then { r with met := r.met || s.eventHolds r } else r

/-- The waits of every fetched descriptor and of every running EVENT_WAIT tested, after a counter has changed, a descriptor was
fetched or a command has started. A wait counts as met from the first moment after the fetch at which its condition holds, also while
the descriptor is not yet at the head of its queue (log entry 71). -/
def State.noteWaits (s : State) : State :=
  { s with
    queue := s.queue.map fun p => (p.1, { p.2 with fetched := p.2.fetched.map (s.testWaits (p.1 / 4)) })
    runs := s.runs.map s.testRun }

/-- An amount added to a counter, modulo 2^32 (R61). -/
def State.addCtr (s : State) (ctr : Nat) (n : W32) : State := (s.setCtr ctr (s.ctr ctr + n)).noteWaits

/-- The state with an open epoch of a context changed. -/
def State.modEpoch (s : State) (c slot : Nat) (f : Epoch → Epoch) : State :=
  s.modCx c fun r => { r with epochs := r.epochs.map fun e => if e.slot = slot then f e else e }

/-- A pending sum grows; a counter once signalled keeps its entry, whatever its sum (R122). -/
def addSum (l : List (Nat × W32)) (ctr : Nat) (n : W32) : List (Nat × W32) :=
  if l.any fun p => p.1 = ctr then l.map fun p => if p.1 = ctr then (ctr, p.2 + n) else p
  else sortBy ((ctr, n) :: l) fun a b => a.1 ≤ b.1

/-- A signal: tentative for a tagged command (R63, R122), else applied (R61). -/
def State.signal (s : State) (c : Nat) (slot : Option Nat) (ctr : Nat) (n : W32) : State :=
  match slot with
  | some k => (s.modEpoch c k fun e => { e with adds := addSum e.adds ctr n }).noteWaits
  | none => s.addCtr ctr n

/-- The header signals of a command that completes `OK` (R61). -/
def State.headerSignals (s : State) (r : Run) : State :=
  let c := r.id.ctx.val
  let s := if sig0En r.words then s.signal c r.slot (sig0Ctr r.words) (BitVec.ofNat 32 (sig0Add r.words)) else s
  if sig1En r.words then s.signal c r.slot (sig1Ctr r.words) (BitVec.ofNat 32 (sig1Add r.words)) else s

/-! ### Start conditions (R56, R57) -/

/-- The command acts as if FPRE is set (R57, R330). -/
def actsPre (w : List W32) : Bool := fpre w || opcodeOf w = 0x50 || opcodeOf w = 0x70 || opcodeOf w = 0x71
/-- The command acts as if FPOST is set (R57, R330). -/
def actsPost (w : List W32) : Bool := fpost w || opcodeOf w = 0x50 || opcodeOf w = 0x52 || opcodeOf w = 0x70 || opcodeOf w = 0x71

/-- The running commands of a queue. -/
def State.runsIn (s : State) (c q : Nat) : List Run := s.runs.filter fun r => r.id.ctx.val = c && r.id.q.val = q

/-- A context whose commands may start (R15): `OPEN`, in a hive that is not fenced (R325). -/
def State.mayStart (s : State) (c : Nat) : Bool := (s.cx c).st = .opened && !s.fenced

/-- The head of a queue's fetched descriptors, if everything but the scheduler's pick allows it to start. A descriptor
that failed a check waits only for room in flight. Nothing starts behind a refused command that has not completed (R56, R68). -/
def State.readyHead (s : State) (c q : Nat) : Option Fetched :=
  let r := s.qu c q
  if r.st ≠ .running || !s.mayStart c then none
  else match r.fetched with
  | [] => none
  | f :: _ =>
    let f := s.testWaits c f
    let live := s.runsIn c q
    if live.length ≥ 64 || live.any Run.refused || (live.any fun x => actsPost x.words && x.res.isNone) then none
    else if f.bad.isSome then some f
    else if !(f.met0 && f.met1) || (actsPre f.words && !live.isEmpty) || (live.any fun x => actsPost x.words) then none
    else some f

/-- The name of a fetched descriptor's command: its queue and the SEQ that the queue expected, which every descriptor that passes
its SEQ check carries (R51). -/
def cmdId (c q : Nat) (f : Fetched) : CmdId := ⟨Fin.ofNat 4096 c, Fin.ofNat 4 q, f.expect⟩

/-- The cells on which the scheduler has picked a command (R31). -/
def State.pickedOn (s : State) (id : CmdId) : List Nat :=
  (s.cells.filter fun p => p.2.picked = some id).map (·.1)

/-- The picks of commands that satisfy `f` are undone (R15, R31, R50, R68). -/
def State.unpick (s : State) (f : CmdId → Bool) : State :=
  { s with cells := s.cells.map fun p => (p.1, match p.2.picked with
      | some id => if f id then { p.2 with picked := none } else p.2
      | none => p.2) }

/-! ### Counter banks and trace (R411, R417, R418) -/

/-- The key of an engine's banks. -/
def bankKey (p : Page) (eng : Nat) : Nat := p.off / 4096 * 256 + eng

/-- An engine's banks swap at the start of a command (R411, R412). -/
def State.swapBank (s : State) (key : Nat) (c q : Nat) (w : List W32) : State :=
  let b := Tab.get {} s.cntBanks key
  let new : Bank := if cntEn w then { valid := true, counting := true, q := q, ctx := c, seq := seqOf w, ids := wd w 2 } else {}
  { s with cntBanks := Tab.set {} s.cntBanks key ⟨new, { b.cur with counting := false }⟩ }

/-- The four engines of a cell swap together (R411). -/
def State.swapCell (s : State) (cell : Nat) (c q : Nat) (w : List W32) : State :=
  (List.range 4).foldl (fun s i => s.swapBank (bankKey (pgComb (cell / 16)) (cell % 16 * 4 + i)) c q w) s

/-- What `f` does with a context's HBM accesses drawing on partition 63 in place of its own (R418). -/
def State.viaOwn (s : State) (c : Nat) (f : State → Except Err State) : Except Err State :=
  let old := (s.cx c).ent
  (f (s.modCx c fun r => { r with ent := setAt 0 old 0 (putFld (wd old 0) 25 20 ownPart) })).map fun t => t.modCx c fun r => { r with ent := old }

/-- A trace record: type 1 at the start, 2 at the completion (R417, R418). One that cannot be written now is dropped (log entry 82). -/
def State.traceRec (s : State) (type : Nat) (c q : Nat) (w : List W32) (st : Byte) (cell : Nat) : State :=
  let ctl := s.rd pgTrace 0x100
  if !bit ctl 31 || !cntEn w then s
  else
    let size := 2 ^ (fld ctl 20 16)
    let head := s.rd pgTrace 0x110
    if sub32 head (s.rd pgTrace 0x114) = size then s.bump pgTrace 0x118 1
    else
      let va := (s.rd pgTrace 0x104).toNat + fld (s.rd pgTrace 0x108) 15 0 * 2 ^ 32
      let rec' : List W32 := [BitVec.ofNat 32 (type * 2 ^ 28 + opcodeOf w * 2 ^ 20 + q * 2 ^ 16 + c), seqOf w, wd w 2,
        BitVec.ofNat 32 (st.toNat * 256 + cell), BitVec.ofNat 32 s.hubTicks.toNat, BitVec.ofNat 32 (s.hubTicks.toNat / 2 ^ 32), 0, 0]
      match s.viaOwn (fld ctl 11 0) fun t => t.writeBytes ⟨fld ctl 11 0, 0, none, none⟩ 1 (va + head.toNat % size * 32) (wordsToBytes rec') with
      | .ok t => t.wr pgTrace 0x110 (head + 1)
      | .error e => if e.1 = St.notYet then s.bump pgTrace 0x118 1 else (s.wr pgTrace 0x100 (putFld ctl 31 31 0)).errSet pgTrace 0

/-! ### Steps (R333) -/

/-- A halting status met while the context's step is open fails the step (R333). -/
def State.stepFail (s : State) (c : Nat) (st : Byte) : State :=
  s.modCx c fun r => if haltsQueue st && r.step.st = .opened then { r with step := { r.step with st := .failed, fail := st } } else r

/-! ### Completion (R66 to R69) -/

/-- The queue's MSI-X message (R69, R441): a vector beyond the function's table sends nothing and sets VECTOR_RANGE. -/
def State.queueIrq (s : State) (c q : Nat) : State :=
  let v := fld (s.qu c q).cfg 27 16
  let fn := (s.cx c).owner
  if v < (if fn = 0 then 4096 else 16) then s.sendMsix fn v else s.ctxErr c 10

/-- A queue's fetched descriptors that have not started are discarded, and HEAD and the expected SEQ move back to the
first of them (R50, R68). The descriptor that was refused has left the list: HEAD and the expected SEQ stay one past it, whatever the
status (R51, R68; the model's choice, log entry 51). -/
def State.dropFetched (s : State) (c q : Nat) : State :=
  (s.unpick fun id => id.ctx.val = c && id.q.val = q).modQu c q fun r =>
    { r with fetched := [], head := r.head - BitVec.ofNat 32 r.fetched.length,
             expect := r.expect - BitVec.ofNat 32 r.fetched.length, noRoom := none }

/-- A queue halts with a status; a draining one keeps draining, and a disabled one stays disabled (R66, R68). -/
def State.haltQueue (s : State) (c q : Nat) (st : Byte) : State :=
  let s := if (s.qu c q).st = .running then s.dropFetched c q else s
  s.modQu c q fun r => { r with lastErr := st, st := if r.st = .running then .halted else r.st }

/-- The address of slot `n` of a ring of 2^LOG2_SIZE entries of `sz` bytes. -/
def ringAddr (lo hi cfg n : W32) (sz : Nat) : Nat :=
  lo.toNat + hi.toNat * 2 ^ 32 + n.toNat % 2 ^ (fld cfg 4 0) * sz
/-- The space of a queue's rings: host memory, or context virtual space with LOC = 1 (R48). -/
def ringSpace (cfg : W32) : Nat := if bit cfg 30 then 1 else 4

/-- The completion record of a command (R66). PHASE is 1 on the first pass and inverted on each later one. -/
def recordWords (s : State) (w : List W32) (seq : W32) (cfg tail : W32) (st : Byte) (detail : W32) (cell : Nat) : List W32 :=
  let phase := 1 - tail.toNat / 2 ^ (fld cfg 4 0) % 2
  [seq, BitVec.ofNat 32 (st.toNat * 2 ^ 24 + opcodeOf w * 2 ^ 16 + phase * 2 ^ 15 + cell), s.hubTime, detail]

/-- The completion record of a queue cannot be written yet: its ring's memory is not served (R207, R382). -/
def State.recordWaits (s : State) (c q : Nat) : Bool :=
  let r := s.qu c q
  match s.segs ⟨c, 0, none, none⟩ (ringSpace r.cfg) (ringAddr r.cqBaseLo r.cqBaseHi r.cfg r.cqTail 16) 16 true with
  | .ok _ => false
  | .error e => e.1 = St.notYet

/-- The record written at CQ_TAIL, which advances even where the record is lost; the status that a lost record halts
the queue with (R66, R439). -/
def State.writeRecord (s : State) (c q : Nat) (w : List W32) (seq : W32) (st : Byte) (detail : W32) (cell : Nat) (hostOk : Bool) :
    State × Option Byte :=
  let r := s.qu c q
  let words := recordWords s w seq r.cfg r.cqTail st detail cell
  let adv (s : State) := s.modQu c q fun r => { r with cqTail := r.cqTail + 1 }
  if ringSpace r.cfg = 4 && !hostOk then (adv s, some St.pageFault)
  else match s.writeBytes ⟨c, 0, none, none⟩ (ringSpace r.cfg) (ringAddr r.cqBaseLo r.cqBaseHi r.cfg r.cqTail 16) (wordsToBytes words) with
    | .ok t => (adv t, none)
    | .error e => (adv s, some (if e.1 = St.guard then St.guard else St.pageFault))

/-- The end of a command that leaves a record: signals, record, step, trace, halt, interrupt (R61, R66 to R69, R333). The
command's run is removed by the caller. `sigs` applies the signals of a command that completes `OK`. -/
def State.report (s : State) (c q : Nat) (w : List W32) (seq : W32) (st : Byte) (detail : W32) (cell : Nat) (hostOk : Bool)
    (sigs : State → State) : State :=
  let s := if st = St.ok then sigs s else s
  let s := s.stepFail c st
  let (s, lost) := s.writeRecord c q w seq st detail cell hostOk
  let s := s.traceRec 2 c q w st cell
  let s := if haltsQueue st then s.haltQueue c q st else s
  let s := match lost with | some e => s.haltQueue c q e | none => s
  if (irqBit w || haltsQueue st || lost.isSome) then s.queueIrq c q else s

/-- The stream that a command's doorbell named: its last activity, and a miss when the deadline has passed (R19, R23). -/
def State.streamDone (s : State) (r : Run) : State :=
  let c := r.id.ctx.val
  match r.stream with
  | none => s
  | some n =>
    if !((s.stm n).live && (s.stm n).ctx = c) then s
    else
      let late := match r.deadline with | some d => !(s.hubTime = d) && reached s.hubTime d | none => false
      s.modStm n fun m => { m with lastAct := s.hubTime, miss := if late && !(s.cx c).isB then satAdd 16 m.miss 1 else m.miss }

/-- A run leaves the running commands, its cells reach their boundary (R30), and a scout that it held is free. -/
def State.removeRun (s : State) (r : Run) : State :=
  { s with
    runs := s.runs.filter fun x => x.id ≠ r.id
    cells := s.cells.map fun p => (p.1, if p.2.run = some r.id then { p.2 with run := none, duty := 0 } else p.2)
    scouts := s.scouts.map fun p => (p.1, if p.2.run = some r.id then { p.2 with run := none } else p.2) }

/-- The data of a command crosses the hub's die port (R229, R238; log entry 84): host memory for a cell's or a store die's command; what lies
on the dies for one that the hub runs. -/
def needsHub (w : List W32) : Bool :=
  let op := opcodeOf w
  let die := isCellOp op || (0x30 ≤ op && op ≤ 0x33) || op = 0x40
  (List.range 3).any fun n => let sp := (slot w n).space; if die then sp = 4 else sp = 1 || sp = 2 || sp = 3
/-- DP16 is `DP_DOWN` (R238). -/
def State.hubCut (s : State) : Bool := (s.diePort 16).ended && (s.diePort 16).st = .down

/-- The running command that a request belongs to: none once its command has ended without it, or its queue was enabled anew. -/
def MfmReq.owner (m : MfmReq) : Option CmdId := if m.prior then none else m.id

/-- The logical cell that a record shows (R66). -/
def Run.cellNo (r : Run) : Nat := r.cell.getD 0

/-- Who a running command is to memory. -/
def Run.who (r : Run) : Who := 
  ⟨r.id.ctx.val, r.cell.getD (cellOf r.words), if r.slot.isSome then some (specTag r.words) else none, r.cell⟩

/-- The reduction result of a VSTREAM (slot 5), in the extension block as it was read at the start (R157). -/
def Run.vsResult (r : Run) : Option Slot :=
  if opcodeOf r.words ≠ 0x10 || vsRed r.words = 0 then none
  else r.ext.map fun x => extSlot x 5

end Sys2Proof.Machine
end

