-- ==== Sys2Proof/Machine/Kv.lean ====
section
/-! DEFINITION. The KV page engine: chains of index, record and sketch pages in HBM (R210 to R213), allocation (R216),
copies and shadow pages under an epoch (R119, R217), what commit and abort do with them (R123, R124), and key sketches
under the bound recipe (R133 to R136). -/

namespace Sys2Proof.Machine

/-- A failed KV access: status and DETAIL, and the context error it sets (R216). -/
abbrev KvErr := Err × Option Nat

/-- A view of a stream's chain: the committed one, or the one of the epoch in a slot (R121); and the cell that executes the command,
if one does. -/
structure KvView where
  ctx    : Nat
  stream : Nat
  slot   : Option Nat
  on     : Option Nat := none
deriving DecidableEq, Repr

/-- An access to a page of a chain stalls with the partition of its context (R12, R18, R207). -/
def State.kvStarved (s : State) (v : KvView) (p : Nat) : Bool := s.starved (s.partOf ⟨v.ctx, 0, none, v.on⟩) p

/-- A plain access error as a KV error. -/
def kvLift {α : Type} : Except Err α → Except KvErr α
  | .ok a => .ok a
  | .error e => .error (e, none)

/-- The epoch's part of the stream in a view. -/
def State.kvEp (s : State) (v : KvView) : Option EpStream :=
  match v.slot with
  | none => none
  | some k => ((s.cx v.ctx).epochs.find? fun e => e.slot = k).bind fun e => e.streams.find? fun x => x.stream = v.stream
/-- The state with that part changed. -/
def State.modEpS (s : State) (v : KvView) (f : EpStream → EpStream) : State :=
  match v.slot with
  | none => s
  | some k => s.modEpoch v.ctx k fun e => { e with streams := e.streams.map fun x => if x.stream = v.stream then f x else x }

/-- The first index page of the chain in a view. -/
def State.kvHeadOf (s : State) (v : KvView) : Option Nat :=
  match v.slot with
  | none => if (s.stm v.stream).kvHas then some (s.stm v.stream).kvHead.toNat else none
  | some _ => (s.kvEp v).bind (·.head)
/-- The chain of a view gets its first page. -/
def State.setHead (s : State) (v : KvView) (p : Nat) : State :=
  match v.slot with
  | none => s.modStm v.stream fun m => { m with kvHas := true, kvHead := BitVec.ofNat 24 p }
  | some _ => s.modEpS v fun x => { x with head := some p }

/-- The page that holds a chain page's contents in a view: its copy, where the epoch has made one (R119). -/
def State.kvPage (s : State) (v : KvView) (p : Nat) : Nat :=
  match s.kvEp v with
  | some e => ((e.map.find? fun m => m.1 = p).map (·.2)).getD p
  | none => p

/-- SEQ_POS in a view (R141). -/
def State.kvSeq (s : State) (v : KvView) : Nat :=
  match s.kvEp v with
  | some e => e.base.toNat + e.appended
  | none => (s.stm v.stream).seqPos.toNat

/-! ### Page allocation (R216) -/

/-- The lowest free page of the KV pool. -/
def State.poolFirst (s : State) : Option Nat := (s.mem.pool.find? fun p => p.2 = .free).map (·.1)

/-- A page for a context: from its free list, then from the pool, zeroed; counted against KV_PAGES. Where there is none, R216 names the
status; DETAIL is 0, the model's choice, since R67's page number is a virtual one and a KV page has none (log entry 95). -/
def State.kvTake (s : State) (c : Nat) : Except KvErr (Nat × State) :=
  let r := s.cx c
  if r.kvUsed + 1 > r.kvPages then .error ((St.pageFault, 0), some 3)
  else match r.kvFree with
  | p :: rest => .ok (p, s.setCx c { r with kvFree := rest, kvUsed := r.kvUsed + 1 })
  | [] => match s.poolFirst with
    | none => .error ((St.pageFault, 0), some 4)
    | some p =>
      if !s.stackUp (stackOf p) then .error (s.stackErr (stackOf p), none)
      else if s.starved ownPart p then .error ((St.notYet, 0), none)
      else
        let s := s.modMem fun m => (m.zeroPage (s.ctxKey c) p)
        let s := s.modMem fun m => { m with pool := Tab.set .notPool m.pool p (.taken c) }
        .ok (p, s.setCx c { r with kvUsed := r.kvUsed + 1 })

/-- A page goes back to its context's free list, zeroed (R20, R123); a retired one goes to no list (R220). -/
def State.kvGive (s : State) (c p : Nat) : State :=
  let s := s.modMem fun m => m.zeroPage (s.ctxKey c) p
  let s := s.modCx c fun r => { r with kvUsed := r.kvUsed - 1 }
  if s.mem.isRetired p then s.modMem fun m => { m with pool := Tab.set .notPool m.pool p .notPool }
  else s.modCx c fun r => { r with kvFree := r.kvFree ++ [p] }

/-- A page taken in a view: a shadow page when the view is an epoch's. -/
def State.kvNew (s : State) (v : KvView) : Except KvErr (Nat × State) := do
  let (p, s) ← s.kvTake v.ctx
  return (p, s.modEpS v fun x => { x with fresh := x.fresh ++ [p] })

/-- The page to write for a chain page: in an epoch's view the first change to an existing page copies it (R119, R217). The copy is kept
in the epoch's map; the index page that names the original is not copied for it, and is rewritten at the commit, the model's choice
(log entry 95). -/
def State.kvOwn (s : State) (v : KvView) (p : Nat) : Except KvErr (Nat × State) :=
  match s.kvEp v with
  | none => .ok (p, s)
  | some e =>
    if e.fresh.contains p then .ok (p, s)
    else match e.map.find? fun m => m.1 = p with
    | some m => .ok (m.2, s)
    | none => do
      let (q, s) ← s.kvTake v.ctx
      if !s.stackUp (stackOf p) then throw (s.stackErr (stackOf p), none)
      if s.kvStarved v p || s.kvStarved v q then throw ((St.notYet, 0), none)
      let s := s.modMem fun m => m.copyPage (s.ctxKey v.ctx) p q
      return (q, s.modEpS v fun x => { x with map := x.map ++ [(p, q)] })

/-! ### Words of a chain -/

/-- Bytes of a chain page in a view. -/
def State.kvBytes (s : State) (v : KvView) (p off n : Nat) : Except KvErr (List Byte) :=
  if s.kvStarved v (s.kvPage v p) then .error ((St.notYet, 0), none)
  else kvLift (s.hbmRead (s.ctxKey v.ctx) (s.kvPage v p * 65536 + off) n)
/-- A word of a chain page in a view. -/
def State.kvWord (s : State) (v : KvView) (p off : Nat) : Except KvErr Nat := do
  let bs ← s.kvBytes v p off 4
  return ofBytes bs
/-- Bytes written to a chain page in a view. -/
def State.kvPut (s : State) (v : KvView) (p off : Nat) (bs : List Byte) : Except KvErr State := do
  let (q, s) ← s.kvOwn v p
  if !s.stackUp (stackOf q) then throw (s.stackErr (stackOf q), none)
  if s.kvStarved v q then throw ((St.notYet, 0), none)
  return s.modMem fun m => m.hbmWrite (s.ctxKey v.ctx) (q * 65536 + off) bs
/-- A word written to a chain page in a view. -/
def State.kvPutWord (s : State) (v : KvView) (p off w : Nat) : Except KvErr State := s.kvPut v p off (toBytes 4 w)

/-- Index page `i` of a chain (R212). -/
def State.kvIdx (s : State) (v : KvView) : Nat → Except KvErr (Option Nat)
  | 0 => .ok (s.kvHeadOf v)
  | i + 1 => do
    match ← s.kvIdx v i with
    | none => return none
    | some p =>
      let n ← s.kvWord v p 0
      return if n = 0xFFFFFFFF then none else some (n % 2 ^ 24)

/-- The header of index page `i` (R212). -/
def idxHeader (i : Nat) : List Byte := wordsToBytes [0xFFFFFFFF, BitVec.ofNat 32 (1008 * i), 0, 0]

/-- The chain has index page `i`, which is allocated where it is missing. -/
def State.kvNeedIdx (s : State) (v : KvView) : Nat → Except KvErr (Nat × State)
  | 0 => match s.kvHeadOf v with
    | some p => .ok (p, s)
    | none => do
      let (p, s) ← s.kvNew v
      let s ← s.kvPut v p 0 (idxHeader 0)
      return (p, s.setHead v p)
  | i + 1 => do
    let (p, s) ← s.kvNeedIdx v i
    let n ← s.kvWord v p 0
    if n ≠ 0xFFFFFFFF then return (n % 2 ^ 24, s)
    let (q, s) ← s.kvNew v
    let s ← s.kvPut v q 0 (idxHeader (i + 1))
    let s ← s.kvPutWord v p 0 q
    return (q, s)

/-- `k` pages taken in a view. -/
def State.kvNews (s : State) (v : KvView) : Nat → Except KvErr (List Nat × State)
  | 0 => .ok ([], s)
  | k + 1 => do
    let (p, s) ← s.kvNew v
    let (ps, s) ← s.kvNews v k
    return (p :: ps, s)

/-- `k` links more in the index page `p` that has `cnt` of them (R211, R212). -/
def State.kvAddLinks (s : State) (v : KvView) (p cnt : Nat) : Nat → Except KvErr State
  | 0 => .ok s
  | k + 1 => do
    let (ps, s) ← s.kvNews v (s.cx v.ctx).rslab
    let s ← s.kvPut v p (0x400 + cnt * 64) (wordsToBytes ((ps ++ List.replicate (16 - ps.length) 0).map fun q => BitVec.ofNat 32 q))
    let s ← s.kvPutWord v p 8 (cnt + 1)
    s.kvAddLinks v p (cnt + 1) k

/-- The chain has link `l`. -/
def State.kvNeedLink (s : State) (v : KvView) (l : Nat) : Except KvErr State := do
  let (p, s) ← s.kvNeedIdx v (l / 1008)
  let n ← s.kvWord v p 8
  s.kvAddLinks v p n (l % 1008 + 1 - n)

/-- The page of slab `j` of link `l`, if the link is allocated. -/
def State.kvLink (s : State) (v : KvView) (l j : Nat) : Except KvErr (Option Nat) := do
  match ← s.kvIdx v (l / 1008) with
  | none => return none
  | some p =>
    let n ← s.kvWord v p 8
    if l % 1008 ≥ n then return none
    let w ← s.kvWord v p (0x400 + l % 1008 * 64 + 4 * j)
    return some (w % 2 ^ 24)

/-- `n` bytes from byte `x` of the record of position `pos` (R210); a position without a link reads as zeros. -/
def State.kvRecord (s : State) (v : KvView) (pos x n : Nat) : Except KvErr (List Byte) := do
  let ps ← (cutAt 4096 x n).mapM fun c => do
    match ← s.kvLink v (pos / 16) (c.1 / 4096) with
    | none => return List.replicate c.2 0
    | some p => s.kvBytes v p (pos % 16 * 4096 + c.1 % 4096) c.2
  return ps.flatten

/-- Bytes written from byte `x` of the record of position `pos` up (R214). -/
def State.kvSetRecord (s : State) (v : KvView) (pos x : Nat) (bs : List Byte) : Except KvErr State := do
  let s ← s.kvNeedLink v (pos / 16)
  (cutAt 4096 x bs.length).foldlM (fun s c => do
    match ← s.kvLink v (pos / 16) (c.1 / 4096) with
    | none => return s
    | some p => s.kvPut v p (pos % 16 * 4096 + c.1 % 4096) ((bs.drop (c.1 - x)).take c.2)) s

/-! ### Sketches (R133 to R136, R213) -/

/-- A field of a recipe: the key's offset, its format and exponent, its length, and the projection's address. -/
structure SkField where
  offset : Nat
  fmt    : Nat
  xf     : Int
  dk     : Nat
  pva    : Nat
deriving DecidableEq, Repr

/-- Words of a context's recipe at virtual page `vpn` (R134). -/
def State.recipeWords (s : State) (c vpn off n : Nat) : Except Err (List W32) := do
  let bs ← s.readBytes ⟨c, 0, none, none⟩ 1 (vpn * 65536 + off) (4 * n)
  return bytesToWords n bs

/-- A recipe's header and fields within the ranges of R134. -/
def skHeadGood (w : List W32) : Bool :=
  wd w 0 = 0x534B5231 && 1 ≤ fld (wd w 1) 31 0 && fld (wd w 1) 31 0 ≤ 128 && (w.drop 2).all fun x => x = 0
def skFieldGood (rslab : Nat) (w : List W32) : Bool :=
  (wd w 0).toNat % 64 = 0 && (fld (wd w 1) 31 24 = 2 || fld (wd w 1) 31 24 = 3) && fld (wd w 1) 23 16 ≠ 0x80 &&
  fld (wd w 1) 15 5 = 0 && 1 ≤ fld (wd w 1) 4 0 && fld (wd w 1) 4 0 ≤ 16 && fld (wd w 3) 31 16 = 0 && (wd w 2).toNat % 64 = 0 &&
  (wd w 0).toNat + 64 * fld (wd w 1) 4 0 ≤ rslab * 4096

/-- A field from its four words. -/
def skField (w : List W32) : SkField :=
  ⟨(wd w 0).toNat, fld (wd w 1) 31 24, sext 8 (fld (wd w 1) 23 16), 32 * fld (wd w 1) 4 0,
    (wd w 2).toNat + fld (wd w 3) 15 0 * 2 ^ 32⟩

/-- NF of the bound recipe. -/
def State.recipeNf (s : State) (c vpn : Nat) : Except Err Nat := do
  let w ← s.recipeWords c vpn 0 16
  return fld (wd w 1) 7 0

/-- 2^k as an FP32, for −149 ≤ k ≤ 127. -/
def pow2F (k : Int) : W32 := toF32 (.fin false 1 k)

/-- The 4-bit sign-magnitude element of a value (R133, R135). -/
def sketchElem (v : W32) : Nat :=
  let q : Int := if isNaNF v then 0 else
    match f32v v with
    | .inf true => -7
    | .inf false => 7
    | x => max (-7) (min 7 ((roundInt none x).getD 0))
  if q < 0 then 8 + q.natAbs else q.natAbs

/-- The sketch of one field from the 64 keys of a block and the 64 rows of P (R135). -/
def sketchOf (xf : Int) (dk : Nat) (keys rows : List (List W32)) : List Byte :=
  let sum := keys.foldl (fun acc k => (acc.zip k).map fun p => addF p.1 p.2) (List.replicate dk 0)
  let els := rows.map fun r =>
    let y := (r.zip sum).foldl (fun y p => fmaF p.1 p.2 y) 0
    sketchElem (mulF y (pow2F (-6 - xf)))
  pack 6 els

/-- Two-byte elements as FP32. -/
def keyVec (fmt n : Nat) (bs : List Byte) : List W32 :=
  (List.range n).map fun i => elemF32 fmt (ofBytes ((bs.drop (2 * i)).take 2)) 127

/-- The sketch of field `f` of block `b` in a view. -/
def State.kvSketchField (s : State) (v : KvView) (vpn b f : Nat) : Except KvErr (List Byte) := do
  let fd := skField (← kvLift (s.recipeWords v.ctx vpn (0x40 + 16 * f) 4))
  let keys ← (List.range 64).mapM fun i => do
    let bs ← s.kvRecord v (64 * b + i) fd.offset (2 * fd.dk)
    return keyVec fd.fmt fd.dk bs
  let rows ← (List.range 64).mapM fun i => do
    let bs ← kvLift (s.readBytes ⟨v.ctx, 0, none, none⟩ 1 (fd.pva + i * 2 * fd.dk) (2 * fd.dk))
    return keyVec 2 fd.dk bs
  return sketchOf fd.xf fd.dk keys rows

/-- Blocks per sketch page (R213). -/
def skBpp (nf : Nat) : Nat := 2048 / nf

/-- The chain has sketch page `j` of its index page `i`. -/
def State.kvAddSketch (s : State) (v : KvView) (p cnt : Nat) : Nat → Except KvErr State
  | 0 => .ok s
  | k + 1 => do
    let (q, s) ← s.kvNew v
    let s ← s.kvPutWord v p (0x40 + 4 * cnt) q
    let s ← s.kvPutWord v p 12 (cnt + 1)
    s.kvAddSketch v p (cnt + 1) k

/-- The sketches of block `b` computed and stored (R135, R136). -/
def State.kvSketch (s : State) (v : KvView) (vpn nf b : Nat) : Except KvErr State := do
  let j := b % 252 / skBpp nf
  let (p, s) ← s.kvNeedIdx v (b / 252)
  let n ← s.kvWord v p 12
  let s ← s.kvAddSketch v p n (j + 1 - n)
  let q ← s.kvWord v p (0x40 + 4 * j)
  let fs ← (List.range nf).mapM fun f => s.kvSketchField v vpn b f
  s.kvPut v (q % 2 ^ 24) (b % 252 % skBpp nf * nf * 32) fs.flatten

/-- The stored sketch of a field of a block, as signed elements; a block without one reads as zeros. -/
def State.kvReadSketch (s : State) (v : KvView) (nf f b : Nat) : Except KvErr (List Int) := do
  let zero := List.replicate 64 (0 : Int)
  match ← s.kvIdx v (b / 252) with
  | none => return zero
  | some p =>
    let n ← s.kvWord v p 12
    if b % 252 / skBpp nf ≥ n then return zero
    let q ← s.kvWord v p (0x40 + 4 * (b % 252 / skBpp nf))
    let bs ← s.kvBytes v (q % 2 ^ 24) (b % 252 % skBpp nf * nf * 32 + f * 32) 32
    return (unpack 6 64 bs).map fun e => if e ≥ 8 then -((e - 8 : Nat) : Int) else (e : Int)

/-- The sketches of every block that an advance from `old` by `n` positions completes (R214). -/
def State.kvSketches (s : State) (v : KvView) (old n : Nat) : Except KvErr State :=
  match (s.cx v.ctx).recipe with
  | none => .ok s
  | some vpn => do
    let nf ← kvLift (s.recipeNf v.ctx vpn)
    (List.range ((old + n) / 64 - old / 64)).foldlM (fun s i => s.kvSketch v vpn nf (old / 64 + i)) s

/-- SEQ_POS advanced by `n` in a view (R214). -/
def State.kvAdvance (s : State) (v : KvView) (n : Nat) : State :=
  match v.slot with
  | none => s.modStm v.stream fun m => { m with seqPos := m.seqPos + BitVec.ofNat 32 n }
  | some _ => s.modEpS v fun x => { x with appended := x.appended + n }

/-! ### Release and migration -/

/-- A word of an index page as it lies in memory. -/
def State.idxWord (s : State) (c p off : Nat) : Nat := ofBytes (s.mem.hbmBytes (s.ctxKey c) (p * 65536 + off) 4)
/-- The record pages, and the sketch pages, that one index page names. -/
def State.idxLinks (s : State) (c p : Nat) : List Nat :=
  ((List.range (min (s.idxWord c p 8) 1008)).map fun l => (List.range (s.cx c).rslab).map fun j => s.idxWord c p (0x400 + l * 64 + 4 * j) % 2 ^ 24).flatten
def State.idxSketches (s : State) (c p : Nat) : List Nat :=
  (List.range (min (s.idxWord c p 12) 240)).map fun j => s.idxWord c p (0x40 + 4 * j) % 2 ^ 24
/-- The pages that one committed index page names. -/
def State.idxPages (s : State) (c p : Nat) : List Nat := s.idxLinks c p ++ s.idxSketches c p

/-- The committed index pages of a chain from page `p` on. -/
def State.idxChain (s : State) (c : Nat) : Nat → Nat → List Nat
  | 0, _ => []
  | f + 1, p =>
    let n := ofBytes (s.mem.hbmBytes (s.ctxKey c) (p * 65536) 4)
    p :: if n = 0xFFFFFFFF then [] else s.idxChain c f (n % 2 ^ 24)

/-- Every page of a stream's committed chain that the pool counts as its context's. -/
def State.chainPages (s : State) (n : Nat) : List Nat :=
  let m := s.stm n
  if !m.kvHas then [] else
  let idx := s.idxChain m.ctx (s.mem.pool.length + 1) m.kvHead.toNat
  ((idx.map fun p => p :: s.idxPages m.ctx p).flatten.filter fun p =>
    Tab.get PoolPage.notPool s.mem.pool p = .taken m.ctx || s.mem.isRetired p).eraseDups

/-- A stream closes: its chain returns to the free list, zeroed, and its entry becomes `FREE` (R20). -/
def State.closeStream (s : State) (n : Nat) : State :=
  let c := (s.stm n).ctx
  ((s.chainPages n).foldl (fun s p => s.kvGive c p) s).setStm n {}

/-! ### Commit and abort (R123, R124, R217) -/

/-- What stays of a chain page when an epoch's stream settles: the page that the chain names from now on, and the pages
released by that choice. -/
def settlePage (e : EpStream) (keep : Bool) (p : Nat) : Nat × List Nat :=
  match e.map.find? fun m => m.1 = p with
  | some m => if keep then (m.2, [p]) else (p, [m.2])
  | none => (p, if e.fresh.contains p && !keep then [p] else [])

/-- The entries of one table of an index page settled: entries from `first` on, each kept or not; the new table words
and the pages released. -/
def settleList (e : EpStream) (keep : Nat → Bool) (ws : List (Nat × Nat)) : List (Nat × Nat) × List Nat :=
  let r := ws.map fun (i, p) =>
    let (q, rel) := settlePage e (keep i) p
    if rel.contains q then ((i, 0), rel) else ((i, q), rel)
  (r.map (·.1), (r.map (·.2)).flatten)

/-- One index page `p`, number `i`, of a settling chain: the page that stays (none: released), the pages released. -/
def State.settleIdx (s : State) (v : KvView) (e : EpStream) (new nf i p : Nat) (next : Option Nat) :
    Except KvErr (Option Nat × List Nat × State) := do
  let rslab := (s.cx v.ctx).rslab
  let nl ← s.kvWord v p 8
  let ns ← s.kvWord v p 12
  let keepL (k : Nat) : Bool := 16 * (1008 * i + k / 16) < new
  let keepS (k : Nat) : Bool := 64 * (252 * i + k * skBpp nf) < new
  let keepI : Bool := 16128 * i < new
  let links ← (List.range nl).mapM fun l => (List.range rslab).mapM fun j => do
    let w ← s.kvWord v p (0x400 + l * 64 + 4 * j)
    return (l * 16 + j, w % 2 ^ 24)
  let sks ← (List.range ns).mapM fun j => do
    let w ← s.kvWord v p (0x40 + 4 * j)
    return (j, w % 2 ^ 24)
  let (ls, r1) := settleList e keepL links.flatten
  let (ss, r2) := settleList e keepS sks
  let (q, r3) := settlePage e keepI p
  if r3.contains q then return (none, r1 ++ r2 ++ r3, s)
  if !s.stackUp (stackOf q) then throw (s.stackErr (stackOf q), none)
  if s.kvStarved v q then throw ((St.notYet, 0), none)
  let gone (t : List (Nat × Nat)) (k : Nat) : Bool := t.any fun x => x.1 = k && e.fresh.contains x.2
  let cntL := ((List.range nl).filter fun l => keepL (l * 16) || !gone links.flatten (l * 16)).length
  let cntS := ((List.range ns).filter fun j => keepS j || !gone sks j).length
  let put (m : MemRec) (off w : Nat) : MemRec := m.hbmWrite (s.ctxKey v.ctx) (q * 65536 + off) (toBytes 4 w)
  let s := s.modMem fun m =>
    let m := put m 0 (next.getD 0xFFFFFFFF)
    let m := put m 8 cntL
    let m := put m 12 cntS
    let m := ls.foldl (fun m x => put m (0x400 + x.1 / 16 * 64 + x.1 % 16 * 4) x.2) m
    ss.foldl (fun m x => put m (0x40 + 4 * x.1) x.2) m
  return (some q, r1 ++ r2 ++ r3, s)

/-- The index pages of a settling chain, last first. -/
def State.settleChain (s : State) (v : KvView) (e : EpStream) (new nf : Nat) :
    List (Nat × Nat) → Option Nat → Except KvErr (Option Nat × List Nat × State)
  | [], next => .ok (next, [], s)
  | (i, p) :: t, next => do
    let (q, rel, s) ← s.settleIdx v e new nf i p next
    let (h, rel', s) ← s.settleChain v e new nf t q
    return (h, rel ++ rel', s)

/-- The raw index pages of a chain in a view, with their numbers: a write reaches at most 65,536 positions past SEQ_POS. -/
def State.kvIndexes (s : State) (v : KvView) : Except KvErr (List (Nat × Nat)) := do
  let l ← (List.range (s.kvSeq v / 16128 + 7)).mapM fun i => do
    let p ← s.kvIdx v i
    return p.map fun p => (i, p)
  return l.filterMap id

/-- One named stream of an epoch committed with accept count `a` (R123): SEQ_POS, the shadow pages that hold positions
below it, and the release of the others and of the pages they replace. -/
def State.kvCommit (s : State) (v : KvView) (a : Nat) : Except KvErr State := do
  match s.kvEp v with
  | none => return s
  | some e =>
    let new := e.base.toNat + min a e.appended
    let nf := match (s.cx v.ctx).recipe with
      | some vpn => match s.recipeNf v.ctx vpn with | .ok n => max n 1 | .error _ => 1
      | none => 1
    let idx ← s.kvIndexes v
    let (head, rel, s) ← s.settleChain v e new nf idx.reverse none
    let s := rel.eraseDups.foldl (fun s p => s.kvGive v.ctx p) s
    return s.modStm v.stream fun m =>
      { m with seqPos := BitVec.ofNat 32 new, kvHas := head.isSome, kvHead := BitVec.ofNat 24 (head.getD 0) }

/-- One named stream of an epoch aborted: its copies and shadow pages are zeroed and returned (R124). -/
def State.kvAbort (s : State) (v : KvView) : State :=
  match s.kvEp v with
  | none => s
  | some e => (e.map.map (·.2) ++ e.fresh).foldl (fun s p => s.kvGive v.ctx p) s

end Sys2Proof.Machine
end

