-- ==== Sys2Proof/Machine/Contexts.lean ====
section
/-! DEFINITION. Contexts and streams: the context operations but TEARDOWN (R10, R13 to R16, R18, R36, R462) and the
stream operations (R19, R20). Every operation ends in the step that starts it, so BUSY reads 0 (log entry 16). -/

namespace Sys2Proof.Machine
open Host

/-- A block-specific register of a page takes a host write: the block is ready (R382), and the hive is not fenced (R325:
BAR0 then answers reads of the device page and the safety block only). -/
def State.pageUse (s : State) (p : Page) : Bool := s.pageReady p && !s.fenced

/-- An operation register's effect happens where its page can be used; elsewhere the write is discarded (R382). -/
def State.onPage (s : State) (p : Page) (f : State → State) : State := if s.pageUse p then f s else s

/-- The context that CTX_INDEX names. -/
def State.ctxIndex (s : State) : Nat := fld (s.rd pgCtx 0x100) 11 0
/-- The staged words of CTX_WORD0 to CTX_WORD15. -/
def State.staged (s : State) : List W32 := (List.range 16).map fun i => s.rd pgCtx (0x140 + 4 * i)
/-- The outcome of a context operation (R14). -/
def State.ctxResult (s : State) (st : Nat) : State := s.result pgCtx 0x108 st

/-- The bits that a context entry has in each word (R10). -/
def ctxMask : List W32 :=
  [0xFFFFFFFF, 0xFFFFFF3F, 0x00FFFFFF, 0x01FF007F, 0x00FFFFFF, 0x00007FFF, 0xFFFF1FFF, 0xFFFFFFFF,
   0xFFFFFFFF, 0xFFFFFFFF, 0xFFFFFFFF, 0xFFFFFFFF, 0xFFFFFFFF, 0xFFFFFFFF, 0x0000FFFF, 0x00000000]
/-- The bits of an entry that UPDATE replaces: BW_PART, WEIGHT, SLICE, B_LIMIT and the quotas (R15). -/
def updMask : List W32 := [0x03F00000, 0x0000FF3F, 0, 0x0000007F, 0x00FFFFFF, 0x00007FFF, 0, 0, 0, 0, 0, 0, 0, 0, 0x0000FFFF, 0]
/-- Sixteen words under a mask. -/
def maskWords (m ws : List W32) : List W32 := (List.range 16).map fun i => wd ws i &&& wd m i

/-- A field of the entry lies outside its range (R16). -/
def CtxRec.badField (r : CtxRec) : Bool :=
  r.sclass = 3 || r.bwPart = 63 || r.banks < 5 || r.banks > 64 || r.mfmOut < 1 || r.mfmOut > 256 ||
  (r.isB && (r.slice < 1 || r.slice > 40 || r.weight = 0)) || r.streams > 16384 || r.evtBase + r.evtCount > 65536 || r.mask.isEmpty

/-- The S-class rule of R25: DET and PIN are 1 and S_RESERVE_PAIRS is not 0. -/
def State.sRuleBroken (s : State) (r : CtxRec) : Bool := r.isS && (!r.det || !r.pin || fld (s.rd pgCtx 0x200) 4 0 = 0)

/-- The cells of the reserve pairs (R27). -/
def State.pairCells (s : State) : List Nat :=
  (s.pairs.map fun p => (if p.lostA then [] else [p.a]) ++ (if p.lostB then [] else [p.b])).flatten
/-- The cells on which a pinned context's quota counts (R36). -/
def State.pinCells (s : State) (r : CtxRec) : List Nat := (List.range 128).filter fun c => r.inMask c || (r.isS && s.pairCells.contains c)
/-- The pinned quotas on a cell, of every context that is not `FREE` but `c` (R36). -/
def State.pinnedOn (s : State) (c cell : Nat) : Nat :=
  (s.ctx.map fun p => if p.1 ≠ c && p.2.st ≠ .free && p.2.pin && (s.pinCells p.2).contains cell then p.2.banks else 0).sum
/-- The pinned quotas would exceed 64 banks on some cell (R36). -/
def State.pinFails (s : State) (c : Nat) (r : CtxRec) : Bool :=
  r.pin && (s.pinCells r).any fun cell => s.pinnedOn c cell + r.banks > 64

/-- Another context that is not `FREE` holds the key slot (R16). -/
def State.keyUsed (s : State) (c slot : Nat) : Bool := s.ctx.any fun p => p.1 ≠ c && p.2.st ≠ .free && p.2.keySlot = slot

/-- The checks of LOAD in the order of R462. -/
def State.loadStatus (s : State) (c : Nat) (new : CtxRec) : Nat :=
  if (s.cx c).st ≠ .free then Rs.ctxBusy
  else if new.badField || s.sRuleBroken new then Rs.badConfig
  else if new.isS && !s.boot.locked then Rs.ctxBusy
  else if s.keyUsed c new.keySlot then Rs.keyInUse
  else if Tab.get none s.sec.keys new.keySlot = none then Rs.keyEmpty
  else if s.pinFails c new then Rs.noSpad
  else Rs.ok

/-- NO_CELLS is set for a context whose mask names only absent cells (R11). -/
def State.noCells (s : State) (c : Nat) : State :=
  if (s.cx c).st ≠ .free && !(s.cx c).mask.any (fun i => (s.cell i).phys.isSome) then s.ctxErr c 1 else s

/-- LOAD (R15, R433, R187). -/
def State.ctxLoad (s : State) : State :=
  let c := s.ctxIndex
  let new : CtxRec := { st := .opened, ent := maskWords ctxMask s.staged, rslab := 1 }
  let st := s.loadStatus c new
  if st = Rs.ok then ((s.setCx c new).noCells c).ctxResult st else s.ctxResult st

/-- READ (R15): the entry, or the reset values of a `FREE` context, in CTX_WORD0 to CTX_WORD15. -/
def State.ctxRead (s : State) : State :=
  let r := s.cx s.ctxIndex
  ((List.range 16).foldl (fun t i => t.wr pgCtx (0x140 + 4 * i) (if r.st = .free then 0 else wd r.ent i)) s).ctxResult Rs.ok

/-- The checks of UPDATE (R15, R462). -/
def State.updateStatus (s : State) (c : Nat) (new : List W32) : Nat :=
  let r := s.cx c
  let keep (ws : List W32) : List W32 := (List.range 16).map fun i => wd ws i &&& wd ctxMask i &&& ~~~ (wd updMask i)
  let n : CtxRec := { r with ent := new }
  if r.st = .free || r.st = .zeroing then Rs.ctxBusy
  else if keep new ≠ keep r.ent || n.badField || n.banks < r.banks || n.kvPages < r.kvPages || n.streams < r.streams then Rs.badConfig
  else if n.banks > r.banks && s.pinFails c n then Rs.noSpad
  else Rs.ok

/-- The cells on which a context's entry takes effect only at the next boundary: those that run a command, and those on
which its banks are resident (R18). -/
def State.busyFor (s : State) (c : Nat) : List Nat :=
  (List.range 128).filter fun i => (s.cell i).run.isSome || (s.bankMap c i).isSome

/-- UPDATE (R15, R18): each cell keeps the old entry until its next command boundary. -/
def State.ctxUpdate (s : State) : State :=
  let c := s.ctxIndex
  let new := maskWords ctxMask s.staged
  let st := s.updateStatus c new
  if st ≠ Rs.ok then s.ctxResult st
  else
    let r := s.cx c
    let fresh := (s.busyFor c).filter fun i => !(r.stale.any fun p => p.1 = i)
    (s.setCx c { r with ent := new, stale := r.stale ++ fresh.map fun i => (i, r.ent) }).ctxResult st

/-- A context stops accepting doorbells and starts no command; picked commands go back to the ready ones (R15, R31). -/
def State.quiesceCtx (s : State) (c : Nat) : State :=
  (s.modCx c fun r => { r with st := .quiescing }).unpick fun id => id.ctx.val = c

/-- QUIESCE (R15). -/
def State.ctxQuiesce (s : State) : State :=
  let c := s.ctxIndex
  if (s.cx c).st = .opened then (s.quiesceCtx c).ctxResult Rs.ok else s.ctxResult Rs.ctxBusy

/-- The context becomes `QUIESCED` once no command of it runs (R15). -/
def State.quiesceDone (s : State) (c : Nat) : State :=
  if (s.cx c).st = .quiescing && (s.runsOf c).isEmpty then s.modCx c fun r => { r with st := .quiesced } else s

/-- RESUME (R15); a spill may choose the context again (R37). -/
def State.ctxResume (s : State) : State :=
  let c := s.ctxIndex
  if (s.cx c).st = .quiescing || (s.cx c).st = .quiesced then
    (s.modCx c fun r => { r with st := .opened, noSpill := [] }).ctxResult Rs.ok
  else s.ctxResult Rs.ctxBusy

/-! ### Streams (R19, R20) -/

/-- The stream that STR_INDEX names. -/
def State.strIndex (s : State) : Nat := fld (s.rd pgCtx 0x180) 13 0
/-- The outcome of a stream operation. -/
def State.strResult (s : State) (st : Nat) : State := s.result pgCtx 0x188 st

/-- The streams that a context owns. -/
def State.streamsOf (s : State) (c : Nat) : List Nat := (s.str.filter fun p => p.2.live && p.2.ctx = c).map (·.1)

/-- The checks of stream OPEN in the order of R462. -/
def State.openStatus (s : State) (n c : Nat) : Nat :=
  if (s.stm n).live then Rs.ctxBusy
  else if (s.cx c).st ≠ .opened then Rs.badOwner
  else if (s.streamsOf c).length ≥ (s.cx c).streams then Rs.noQuota
  else Rs.ok

/-- OPEN (R20). -/
def State.strOpen (s : State) : State :=
  let n := s.strIndex
  let w (i : Nat) : W32 := s.rd pgCtx (0x1A0 + 4 * i)
  let c := fld (w 0) 11 0
  let st := s.openStatus n c
  if st ≠ Rs.ok then s.strResult st
  else
    (s.setStm n { live := true, ctx := c, deadline := BitVec.ofNat 16 (fld (w 3) 31 16),
                  period := BitVec.ofNat 16 (fld (w 3) 15 0), start := w 4 }).strResult st

/-- The words of a stream entry (R19). -/
def StreamRec.words (m : StreamRec) : List W32 :=
  [BitVec.ofNat 32 (b2n m.live * 2 ^ 31 + m.ctx), m.seqPos, m.kvHead.setWidth 32,
   BitVec.ofNat 32 (m.deadline.toNat * 2 ^ 16 + m.period.toNat), m.start, m.specOpen.setWidth 32, m.lastAct, m.miss.setWidth 32]

/-- READ (R20). -/
def State.strRead (s : State) : State :=
  let m := s.stm s.strIndex
  ((List.range 8).foldl (fun t i => t.wr pgCtx (0x1A0 + 4 * i) (wd m.words i)) s).strResult Rs.ok

/-- CLOSE (R20): needs a `LIVE` stream, no command in flight for it and no open epoch. -/
def State.strClose (s : State) : State :=
  let n := s.strIndex
  if !(s.stm n).live || (s.runs.any fun r => r.stream = some n) || (s.stm n).specOpen ≠ 0 then s.strResult Rs.ctxBusy
  else (s.closeStream n).strResult Rs.ok

/-! ### The commands -/

/-- CTX_LOAD. -/
def execCtxLoad (s : State) : Host.Outcome State Fault Refusal := .next (s.onPage pgCtx State.ctxLoad)
/-- CTX_READ. -/
def execCtxRead (s : State) : Host.Outcome State Fault Refusal := .next (s.onPage pgCtx State.ctxRead)
/-- CTX_UPDATE. -/
def execCtxUpdate (s : State) : Host.Outcome State Fault Refusal := .next (s.onPage pgCtx State.ctxUpdate)
/-- QUIESCE. -/
def execQuiesce (s : State) : Host.Outcome State Fault Refusal := .next (s.onPage pgCtx State.ctxQuiesce)
/-- QUIESCE_DONE. -/
def execQuiesceDone (ctx : Fin 4096) (s : State) : Host.Outcome State Fault Refusal := .next (s.quiesceDone ctx.val)
/-- RESUME. -/
def execResume (s : State) : Host.Outcome State Fault Refusal := .next (s.onPage pgCtx State.ctxResume)
/-- STREAM_OPEN. -/
def execStreamOpen (s : State) : Host.Outcome State Fault Refusal := .next (s.onPage pgCtx State.strOpen)
/-- STREAM_READ. -/
def execStreamRead (s : State) : Host.Outcome State Fault Refusal := .next (s.onPage pgCtx State.strRead)
/-- STREAM_CLOSE. -/
def execStreamClose (s : State) : Host.Outcome State Fault Refusal := .next (s.onPage pgCtx State.strClose)

end Sys2Proof.Machine
end

