-- ==== Sys2Proof/Machine/Routes.lean ====
section
/-! DEFINITION. The registers of a Chaver port, member selection and routes (R271 to R279). -/

namespace Sys2Proof.Machine

/-- A link-local flit of a type with a payload; handover and join flits use TC 4 buffer space (R273). -/
def localFlit (type : Nat) (payload : List Byte) : Flit :=
  { dst := 0, src := 0, type := BitVec.ofNat 4 type, tc := if type ≥ 4 then 4 else 0, vcd := false, mc := false, hops := 0, len := BitVec.ofNat 8 payload.length,
    key := 0, lseq := 0, ackSeq := 0, ackV := false, nak := false, xoff := 0, otc := 0, payload := payload }

/-! ### Port registers -/

/-- EN, role and member of a port (R257, R287). -/
def State.cpEn (s : State) (p : Nat) : Bool := bit (s.rd (pgPort p) 0x100) 31
def State.cpRole (s : State) (p : Nat) : Nat := fld (s.rd (pgPort p) 0x100) 18 16
def State.cpMember (s : State) (p : Nat) : Nat := fld (s.rd (pgPort p) 0x100) 13 12
/-- `LINK_CFG.ENC` of a port. -/
def State.linkEnc (s : State) (p : Nat) : Bool := bit (s.reg (linkKeyAt p)) 31
/-- LTO in µs. -/
def State.lto (s : State) : Nat := fld (s.rd pgFab 0x104) 8 0
/-- The plan of a port: its valid bit, peer port and peer hive. -/
def planMask : W32 := 0x9F00FFFF
def State.plan (s : State) (p : Nat) : W32 := s.rd (pgPort p) 0x108 &&& planMask

/-- The enabled port that holds a role and a member. -/
def State.memberPort (s : State) (role m : Nat) : Option Nat :=
  (List.range 32).find? fun p => s.cpEn p && s.cpRole p = role && s.cpMember p = m

/-- The hash set of a port: direction × 4 + member, and 24 + XP for an express port. -/
def State.hashSet (s : State) (p : Nat) : Option Nat :=
  if s.cpRole p = 0 then none else some ((s.cpRole p - 1) * 4 + s.cpMember p)

/-- A handover of a hash set's member is pending (R271). -/
def State.pendingHand (s : State) (n : Nat) : Bool := (s.port n).hand ≠ .none
/-- The port of hash set `n`'s own member, while it is serving (R271). -/
def State.serving (s : State) (n : Nat) : Option Nat :=
  if s.pendingHand n then none
  else match s.memberPort (n / 4 + 1) (n % 4) with
    | some p => if (s.port p).st = .up then some p else none
    | none => none

/-- The hash sets of a direction group in the order in which R271 tries them. -/
def tries (n : Nat) : List Nat := (List.range 4).map fun j => n / 4 * 4 + (n + j) % 4
/-- The port that carries a hash set: the first serving member (R271); `some none` while the set is stopped, by its own handover
or by the takeover of the port that carried it (R272, R273); none where the direction is dead. An express port takes no part in
member selection. -/
def State.carrier (s : State) (n : Nat) : Option (Option Nat) :=
  if s.pendingHand n || (s.port n).stopBy.isSome then some none
  else (if n < 24 then tries n else [n]).findSome? fun i => (s.serving i).map some
/-- The member that takes a hash set over: the first serving one (R272). -/
def State.substitute (s : State) (n : Nat) : Option Nat :=
  if n < 24 then ((tries n).drop 1).findSome? fun i => s.serving i else none

/-- `CP_STATUS.SUBST` (R287): the port serving a port's member while it is not serving; 0 otherwise. -/
def State.substOf (s : State) (p : Nat) : Nat :=
  match s.hashSet p with
  | some n => if (s.serving n).isSome then 0 else (s.substitute n).getD 0
  | none => 0

/-! ### Routes (R271, R276 to R279) -/

/-- The fold of R271. -/
def memberOf (f : Flit) : Nat :=
  let x := (f.src ^^^ f.dst ^^^ f.key.setWidth 16).toNat
  (List.range 8).foldl (fun m i => m ^^^ (x / 4 ^ i % 4)) 0

/-- Coordinate of a hive on an axis (0 X, 1 Y, 2 Z), and an axis's size and dateline (R5, R276). -/
def coord (h axis : Nat) : Nat := h / 16 ^ (2 - axis) % 16
def State.axisSize (s : State) (axis : Nat) : Nat := fld (s.rd pgFab 0x108) (23 - 4 * axis) (20 - 4 * axis) + 1
def State.dateline (s : State) (axis : Nat) : Nat := fld (s.rd pgFab 0x108) (11 - 4 * axis) (8 - 4 * axis)

/-- The dimension-order route from this hive to a hive of its colony (R279): a direction, or 6 at the destination. -/
def State.dor (s : State) (d : Nat) : Nat :=
  match (List.range 3).find? fun a => coord d a ≠ coord s.hive a with
  | none => 6
  | some a =>
    let n := s.axisSize a
    let up := (coord d a + n - coord s.hive a % n) % n
    if up ≤ n - up then 2 * a else 2 * a + 1

/-- A hive entry of the active table, as its direction (R278, R279). -/
def State.hiveDir (s : State) (d : Nat) : Nat :=
  let e := (Tab.get 0 s.fab.hiveAct (d % 4096)).toNat
  if e / 128 = 1 then e / 16 % 8 else s.dor d

/-- Where a flit goes. `out n`: the queue of hash set `n`. -/
inductive RouteTo where
  | here
  | out (n : Nat)
  | dead
  | noRoute
  | loop
deriving DecidableEq, Repr

/-- The queue of a direction's member for a flit (R271). -/
def State.dirOut (s : State) (dir : Nat) (f : Flit) : RouteTo :=
  if dir = 6 then .here
  else if dir ≥ 7 then .noRoute
  else if (s.carrier (dir * 4 + memberOf f)).isSome then .out (dir * 4 + memberOf f) else .dead

/-- `route` of R279. -/
def State.routeOf (s : State) (f : Flit) (express : Bool) : RouteTo :=
  let d := f.dst.toNat
  let h := s.hive
  if f.hops.toNat ≥ 48 then .loop
  else if d / 4096 ≠ h / 4096 then
    let c := Tab.get 0 s.fab.colAct (d / 4096)
    if express || !bit c 31 then .noRoute
    else if fld c 15 0 ≠ h then s.dirOut (s.hiveDir (fld c 15 0)) f
    else if f.src.toNat ≠ h && fld (s.plan (24 + fld c 17 16)) 15 0 ≠ d then .noRoute
    else if (s.carrier (24 + fld c 17 16)).isSome then .out (24 + fld c 17 16) else .dead
  else if d = h then .here
  else s.dirOut (s.hiveDir d) f

end Sys2Proof.Machine
end

