-- ==== Sys2Proof/Machine/Groups.lean ====
section
/-! DEFINITION. The group table of the collectives (R305 to R308), and what a COLLECTIVE takes from it as it starts (R311, R312). -/

namespace Sys2Proof.Machine

/-! ### The group table (R305 to R308) -/

/-- The bits of a group entry that R305 lists. -/
def grpMask : List W32 :=
  [0xF8FF0FFF, 0xFFFFFFF0, 0x3FF, 0xFFFF] ++ List.replicate 8 0xFFFFFFFF ++ List.replicate 4 0

def State.grp (s : State) (g : Nat) : GrpRec := Tab.get {} s.fab.grp g
def State.setGrp (s : State) (g : Nat) (r : GrpRec) : State := s.modFab fun f => { f with grp := Tab.set {} f.grp g r }

/-- Extent of a block along an axis. -/
def grpExt (w : List W32) (axis : Nat) : Nat := fld (wd w 1) (15 - 4 * axis) (12 - 4 * axis) + 1
/-- The axis belongs to the block. -/
def grpAxis (w : List W32) (axis : Nat) : Bool := bit (wd w 0) (27 + axis)
/-- The valid slots: MEMBER, REPL, whether it substitutes (R305). -/
def grpSlots (w : List W32) : List (W16 × W16 × Bool) :=
  ((List.range 8).filter fun j => bit (wd w 3) (8 + j)).map fun j =>
    (BitVec.ofNat 16 (fld (wd w (4 + j)) 31 16), BitVec.ofNat 16 (fld (wd w (4 + j)) 15 0), bit (wd w 3) j)

/-- The hive at offset `d` from a coordinate, modulo the axis size. -/
def State.offCoord (s : State) (w : List W32) (axis d : Nat) : Nat :=
  (coord (fld (wd w 1) 31 16) axis + d) % s.axisSize axis

/-- The hives of a block in the order of their positions (R306). -/
def State.grpBlock (s : State) (w : List W32) : List W16 :=
  let col := fld (wd w 1) 31 28
  (List.range (grpExt w 2)).flatMap fun dz => (List.range (grpExt w 1)).flatMap fun dy => (List.range (grpExt w 0)).map fun dx =>
    BitVec.ofNat 16 (col * 4096 + s.offCoord w 0 dx * 256 + s.offCoord w 1 dy * 16 + s.offCoord w 2 dz)

/-- The members by rank (R306): excluded positions removed, substitutes in their positions' places. -/
def State.grpRanks (s : State) (w : List W32) : List W16 :=
  (s.grpBlock w).filterMap fun h =>
    match (grpSlots w).find? fun x => x.1 = h with
    | some x => if x.2.2 then some x.2.1 else none
    | none => some h

/-- Two elements of a list are equal. -/
def hasTwin (l : List W16) : Bool := l.eraseDups.length ≠ l.length

/-- The cases of GRP_BAD (R308). -/
def State.grpBad (s : State) (w : List W32) : Bool :=
  let slots := grpSlots w
  let axes := ((List.range 3).filter (grpAxis w)).length
  ((List.range 3).any fun a => grpExt w a > s.axisSize a || (!grpAxis w a && grpExt w a ≠ 1)) ||
  fld (wd w 1) 31 28 ≠ colonyOf s.hive ||
  (slots.any fun x => !(s.grpBlock w).contains x.1) || hasTwin (slots.map (·.1)) ||
  hasTwin ((slots.filter fun x => x.2.2).map (·.2.1)) ||
  (bit (wd w 0) 30 && (axes > 1 || !slots.isEmpty)) ||
  fld (wd w 2) 9 0 = 0 || fld (wd w 2) 9 0 > 1000 ||
  !(s.grpRanks w).contains (BitVec.ofNat 16 s.hive)

/-! ### The start of a COLLECTIVE (R311, R312) -/

/-- Elements of an operand. -/
def Slot.count (x : Slot) : Nat := x.d0 * x.d1 * x.d2

/-- The checks that need the group entry (R311). -/
def State.collBad (s : State) (c : Nat) (w : List W32) : Option Nat :=
  let g := (s.grp (fld (wd w 29) 7 0)).words
  let n := (s.grpRanks g).length
  let op := collOp w
  let sh := (wd w 30).toNat
  let a := (slot w 0).count
  let d := (slot w 1).count
  let many := n * sh
  firstBad [(!bit (wd g 0) 31 || fld (wd g 0) 11 0 ≠ c, 29), (fld (wd w 31) 11 0 ≥ n, 31),
    ((op = 1 || op = 3) && a ≠ many, 11), (op = 2 && a ≠ sh, 11),
    (op = 1 && d ≠ sh, 18), ((op = 2 || op = 3) && d ≠ many, 18), (op = 4 && d ≠ a, 18)]

/-- A message of the operation that starts next in a group. -/
def GrpRec.isNext (g : GrpRec) (p : W16 × List Byte) : Bool := wd (bytesToWords 2 p.2) 1 = g.opseq
/-- A COLLECTIVE as it starts: its group entry, its operation number, and the messages of it that have come already (R312). -/
def State.newColl (s : State) (w : List W32) : CollRun :=
  let gi := fld (wd w 29) 7 0
  let g := s.grp gi
  let ranks := s.grpRanks g.words
  { group := gi, gen := fld (wd g.words 0) 23 16, opseq := g.opseq,
    rank := (ranks.findIdx? fun h => h = BitVec.ofNat 16 s.hive).getD 0, ranks := ranks, op := collOp w, red := collRed w,
    trap := bit (wd w 29) 25, chunkLog := collChunk w, sh := (wd w 30).toNat, root := fld (wd w 31) 11 0,
    mc := bit (wd g.words 0) 30, credits := 0, granted := [], sentP := [], doneP := [], waitP := [], sentF := [], doneF := [],
    fwdF := [], nf := false, token := none, sentT := false, lastMsg := s.now, inbox := g.early.filter g.isNext, begun := false }
/-- It takes the entry's next operation number (R312). -/
def State.takeOpseq (s : State) (w : List W32) : State :=
  let gi := fld (wd w 29) 7 0
  let g := s.grp gi
  s.setGrp gi { g with opseq := g.opseq + 1, early := g.early.filter fun p => !g.isNext p }

end Sys2Proof.Machine
end

