-- ==== Sys2Proof/Machine/Uses.lean ====
section
/-! DEFINITION. What a command uses: the store dies whose stacks and slices hold its operands (R190, R203), those that hold its stream's
chain, those whose engines serve it (R328, R388, R409), and the ports toward a hive (R271, R279). -/

namespace Sys2Proof.Machine

/-- Bundles of a die port in each direction (R225). -/
def bundlesOf (dp : Nat) : Nat := if dp = 16 then 4 else 28
/-- The key of a bundle of one direction. -/
def bundleKey (dp : Nat) (rx : Bool) (b : Nat) : Nat := (dp * 2 + b2n rx) * 32 + b
/-- The key of a bundle among those of one direction only. -/
def laneKey (dp b : Nat) : Nat := dp * 32 + b

def State.grantOf (s : State) (dp b : Nat) : Grant := Tab.get {} s.base.ledger (laneKey dp b)

/-- The tables of a report round: when each ordered pair last reported bytes. -/
def pairKey (a b : Nat) : Nat := a * 17 + b
def State.lastReport (s : State) (a b : Nat) : Option Nat :=
  (s.base.reports.find? fun p => p.1 = pairKey a b).map (·.2 - 1)


/-- The view in which a command sees a stream (R141). -/
def Run.view (r : Run) (n : Nat) : KvView := ⟨r.id.ctx.val, n, r.slot, r.cell⟩

/-- The view of a stream that a tagged command has: its epoch's, where the epoch names the stream. -/
def State.viewOf (s : State) (r : Run) (n : Nat) : KvView :=
  let v := r.view n
  if (s.kvEp v).isSome then v else ⟨r.id.ctx.val, n, none, r.cell⟩


/-- The bytes that slot 3, 4 or 5 addresses. -/
def extParts (w x : List W32) (n : Nat) : List Part :=
  let z := extSlot x n
  z.bytes (if n = 3 then vsStride w 2 else if n = 4 then vsStride w 3 else 1)


/-- The runs of bytes that a command addresses, with their SPACE: its slots, and those of its extension block. -/
def touchesOf (r : Run) : List (Nat × Part) :=
  let w := r.words
  ((List.range 3).flatMap fun n => (slotTouch w n).map fun p => ((slot w n).space, p)) ++
  match r.ext with
  | some (x :: xs) => ((slot w 1).space, ⟨(vsExtVa w : Nat), (vsExtVa w + 128 : Nat)⟩) ::
      (List.range 3).flatMap fun i => (extParts w (x :: xs) (3 + i)).map fun p => ((extSlot (x :: xs) (3 + i)).space, p)
  | _ => []

/-- The store dies of the pages of a virtual run of bytes, as far as it can be translated. -/
def State.pageDies (s : State) (c lo hi : Nat) : List Nat :=
  (List.range ((hi - 1) / 65536 + 1 - lo / 65536)).filterMap fun i =>
    match s.walk c (lo / 65536 + i) false with | .ok q => some (stackOf q / 2) | .error _ => none
/-- The store dies whose stacks, or whose slice, hold a run of bytes; an address of this hive counts like its region (R289). -/
def State.partDies (s : State) (c : Nat) (x : Nat × Part) : List Nat :=
  let lo := x.2.lo.toNat
  if x.2.lo < 0 || x.2.hi ≤ x.2.lo then []
  else match x.1 with
  | 1 => s.pageDies c lo x.2.hi.toNat
  | 3 => [lo / 2 ^ 26 % 8]
  | 5 => if gHive lo ≠ s.hive then []
    else if gRegion lo = 0 then s.pageDies c (gOff lo) (gOff lo + (x.2.hi - x.2.lo).toNat)
    else if gRegion lo = 1 then [gOff lo / 2 ^ 26 % 8] else []
  | _ => []
/-- The store dies that hold operands of a command. -/
def State.operandDies (s : State) (r : Run) : List Nat := ((touchesOf r).flatMap (s.partDies r.id.ctx.val)).eraseDups

/-- A command that works on the KV chain of a stream: KV_WRITE, SCOUT, GATHER_KV. -/
def usesChain (w : List W32) : Bool := (opcodeOf w = 0x20 && copyMode w = 2) || opcodeOf w = 0x32 || opcodeOf w = 0x33
/-- The store dies that hold the chain which a command works on: its index pages with the sketch pages of a SCOUT, else with the record
pages (log entry 24). -/
def State.chainDies (s : State) (r : Run) : List Nat :=
  let v := s.viewOf r (streamOf r.words)
  if !usesChain r.words then []
  else match s.kvIndexes v with
  | .error _ => []
  | .ok idx => ((idx.flatMap fun x =>
      let q := s.kvPage v x.2
      q :: (if opcodeOf r.words = 0x32 then s.idxSketches v.ctx q else s.idxLinks v.ctx q).map (s.kvPage v)).map fun q => stackOf q / 2).eraseDups

/-- The store die that runs a digital path: the one that holds the stream's KV chain (R147, R328; log entry 24). -/
def State.scoutDie (s : State) (r : Run) : Nat :=
  match s.kvHeadOf (s.viewOf r (streamOf r.words)) with | some p => stackOf p / 2 | none => 0


/-- The store dies whose engines run a command: a SCOUT on the die of its scout or of its digital path, a GATHER_KV on the one that holds
the head of its chain, a ROUTE or COMBINE on those that hold its operands, a COLLECTIVE on all; with S class also on SD*n* XOR 4 (R328;
log entry 24). -/
def State.agentDies (s : State) (r : Run) : List Nat :=
  let op := opcodeOf r.words
  let own := match r.scout with
    | some x => (match x.die with | some d => [d] | none => []) ++ (match x.unit with | some u => [u / 2] | none => [])
    | none => if op = 0x33 then [s.scoutDie r] else if op = 0x30 || op = 0x31 then s.operandDies r
      else if op = 0x40 then List.range 8 else []
  if (s.cx r.id.ctx.val).isS then (own ++ own.map (· ^^^ 4)).eraseDups else own
/-- A command uses store die `n` (R388). -/
def State.usesDie (s : State) (r : Run) (n : Nat) : Bool :=
  (s.agentDies r).contains n || (s.operandDies r).contains n || (s.chainDies r).contains n

/-- The engines that are to run a store-die command cannot now: a die's clock is held (R323), or it has not ended its step (R382); an S-class
one whose second die is out of service ends (R238, R328). -/
def State.agentStop (s : State) (r : Run) (dies : List Nat) : Option Err :=
  match dies.find? fun n => !s.boot.sdReady.getLsbD n && s.sdOver n && (s.cx r.id.ctx.val).isS with
  | some n => some (St.ecc, BitVec.ofNat 32 (0x408 + n))
  | none => if dies.any fun n => s.base.sdHeld.getLsbD n || ((s.cx r.id.ctx.val).isS && !s.boot.sdReady.getLsbD n) then some (St.notYet, 0) else none

/-- The ports that carry flits of this hive toward a hive, under some keys. -/
def State.portsTo (s : State) (keys : List Nat) (h : Nat) : List Nat :=
  keys.filterMap fun k =>
    match s.routeOf { localFlit 0 [] with dst := BitVec.ofNat 16 h, src := BitVec.ofNat 16 s.hive, key := BitVec.ofNat 8 k } false with
    | .out n => (s.carrier n).join
    | _ => none
/-- The ports that the operands of a command in other hives need. -/
def State.operandPorts (s : State) (r : Run) : List Nat :=
  (((List.range 3).filter fun n => (slot r.words n).space = 5 && gHive (slot r.words n).base ≠ s.hive).flatMap fun n =>
    s.portsTo [0] (gHive (slot r.words n).base)).eraseDups

end Sys2Proof.Machine
end

