-- ==== Sys2Proof/Machine/Clock.lean ====
section
/-! DEFINITION. Time passing: `HUB_TIME` advances (R21) and the counting banks count (R409 to R413). A command that says
that a timer has expired brings the time to that timer's end (`State.passTo`, log entry 3). -/

namespace Sys2Proof.Machine

/-- A thermal domain is throttled (R361). -/
def Power.hot (p : Power) (d : Nat) : Bool := Tab.get 0 p.levels d = 2

/-- The clock of a cell in force, in MHz: CELL_CLK as the cell took it, held down by throttling (R362, R372). -/
def State.cellMhz (s : State) (c : Nat) : Nat := min (s.cell c).mhz (Tab.get 1500 s.power.combMhz (c / 16))

/-- Command limits of a cell lengthen by the ratio of the set clock to the throttled clock (R362). -/
def State.stretch (s : State) (c us : Nat) : Nat := us * (s.cell c).mhz / max 1 (s.cellMhz c)

/-- The engines of a cell that a command uses: index 0 the matrix array, 1 the vector stream engine, 2 the reduction unit, 3 the forager (R409). -/
def usesEngine (w : List W32) (i : Nat) : Bool :=
  match opcodeOf w with
  | 0x01 => i = 0
  | 0x10 => i = 1 || (i = 2 && vsRed w ≠ 0)
  | 0x11 => i = 1
  | 0x20 => i = 3
  | _ => false
/-- A running command keeps an engine of a cell busy. -/
def Run.usesEngine (r : Run) (i : Nat) : Bool := r.res.isNone && Sys2Proof.Machine.usesEngine r.words i

/-- What the cycles of an engine are, in eighths (R410): none idle; busy ones, and stalled ones charged to a reason. -/
structure Work where
  busy   : Nat
  reason : Nat
deriving DecidableEq, Repr

/-- The data of a store die cannot come now: its clock island is held (R323), or a stack of it that is out of service may still be
brought up (R382). -/
def State.dieWaits (s : State) (n : Nat) : Bool :=
  s.base.sdHeld.getLsbD n || (!s.sdOver n && !(s.stackUp (2 * n) && s.stackUp (2 * n + 1)))
/-- Flows from die `b` to die `a` have reported bytes, and no grant is in force for them (R227). -/
def State.grantWaits (s : State) (b a : Nat) : Bool :=
  (s.lastReport b a).isSome && !((List.range (bundlesOf a)).any fun k => match (s.grantOf a k).src with | some p => p.1 = b | none => false)

/-- Why the work of a running command of a cell cannot proceed at all, by the lowest code (R410; log entry 18): operands of a store die that
cannot come, no free accumulator bank, no grant between the cell's comb and that die, no tokens in its partition, a fabric response
outstanding. -/
def State.stallOf (s : State) (r : Run) : Option Nat :=
  let full (t : Nat) : Option (Nat × List W32) → Bool := fun b => match b with | some x => x.1 ≠ t | none => false
  let dies := s.operandDies r
  let comb := r.cellNo / 16
  if dies.any s.dieWaits then some 0
  else if match r.mm with | some m => full m.tile m.bank0 && full m.tile m.bank1 | none => false then some 1
  else if dies.any (fun n => s.grantWaits (8 + n) comb || s.grantWaits comb (8 + n)) then some 3
  else if s.bwCap (s.partOf r.who) = 0 && (List.range 3).any (fun n => (slot r.words n).space = 1) then some 5
  else if s.fab.reqs.any fun m => m.owner = some r.id then some 7
  else none

/-- The words of the fetched command that a cell has picked. -/
def State.pickedWords (s : State) (c : Nat) : Option (List W32) :=
  match (s.cell c).picked with
  | some id => ((s.qu id.ctx.val id.q.val).fetched.find? fun f => cmdId id.ctx.val id.q.val f = id).map (·.words)
  | none => none
/-- The engine of a cell: paced cycles are charged to the load shed while the supply is not `PWR_OK` and to the power cap while that paces, else to
the slew governor; those of an
S-class command that waits for its twin partner are held by the hub. -/
def State.cellWork (s : State) (c eng : Nat) : Option Work :=
  let x := s.cell c
  let paced := if s.power.supply = .ok && !s.power.capped then 4 else 2
  match s.runs.find? fun r => (r.cell = some c || r.partner = some c) && r.usesEngine eng with
  | some r => some (match s.stallOf r with | some k => ⟨0, k⟩ | none => ⟨min x.duty 8, paced⟩)
  | none => match s.pickedWords c with
    | some w => if !usesEngine w eng then none else if x.gated then some ⟨0, paced⟩
      else if (match x.picked with | some id => (s.cx id.ctx.val).isS | none => false) then some ⟨0, 2⟩ else none
    | none => none

/-- A running command whose work has not ended. -/
def Run.active (r : Run) : Bool := r.res.isNone
/-- The work of a store die's shared engine: its slice serves the operands and chains that lie on it, its router agent the ROUTE and COMBINE
commands that run there; its collective engine adds until it waits for a credit or for a message (R409, R410). -/
def State.dieWork (s : State) (n eng : Nat) : Option Work :=
  let busy (b : Bool) : Option Work := if b then some ⟨8, 0⟩ else none
  if eng = 0 then busy (s.runs.any fun r => r.active && ((s.operandDies r).contains n || (s.chainDies r).contains n))
  else if eng = 1 then busy (s.runs.any fun r => r.active && (opcodeOf r.words = 0x30 || opcodeOf r.words = 0x31) && (s.agentDies r).contains n)
  else if eng = 2 then (s.runs.find? fun r => r.active && opcodeOf r.words = 0x40).map fun r =>
    match r.coll with
    | none => ⟨8, 0⟩
    | some x => if x.waitP.isEmpty then ⟨0, 7⟩ else ⟨0, 6⟩
  else busy (s.scoutRec (2 * n + (eng - 3))).run.isSome

/-- An engine's cycles in a microsecond, those of a throttled store die at 50 % duty (R361), and what they are; `none` where it is idle, as in keep-warm (R245; log entry 18). -/
def State.engineCycles (s : State) (page eng : Nat) : Nat × Option Work :=
  let half (n : Nat) (w : Option Work) : Option Work := if s.power.hot (24 + n) then w.map fun x => if x.busy = 8 then ⟨4, 2⟩ else x else w
  match pageOf (page * 4096) with
  | some (⟨.comb, n⟩, _) => (s.cellMhz (n * 16 + eng / 4), s.cellWork (n * 16 + eng / 4) (eng % 4))
  | some (⟨.sd, n⟩, _) => (1600, half n (s.dieWork n eng))
  | _ => (941, none)

/-- Stalled cycles charged to a reason (R410, R413). -/
def Bank.charge (b : Bank) (reason cycles : Nat) : Bank :=
  if cycles = 0 then b else { b with stall := (List.range 8).map fun k => satAdd 48 (b.stall.getD k 0) (if k = reason then cycles else 0) }

/-- The cycles of an engine without work: those of a port's flit slots that carried data, or in which flits waited for credit, are not
idle (R410). -/
def Bank.spare (b : Bank) (cycles : Nat) : Bank :=
  let used := min b.sent cycles
  let stuck := min b.held (cycles - used)
  ({ b with busy := satAdd 48 b.busy used, idle := satAdd 48 b.idle (cycles - used - stuck), sent := b.sent - used, held := b.held - stuck } : Bank).charge
    6 stuck

/-- A counting bank after a number of cycles. -/
def Bank.count (b : Bank) (cycles : Nat) (work : Option Work) : Bank :=
  if !b.counting then b
  else match work with
  | none => b.spare cycles
  | some w => ({ b with busy := satAdd 48 b.busy (cycles * w.busy / 8) } : Bank).charge w.reason (cycles - cycles * w.busy / 8)

/-- `n` microseconds pass. -/
def State.elapse (s : State) (n : Nat) : State :=
  { s with
    clock := { s.clock with now := s.clock.now + n }
    cntBanks := s.cntBanks.map fun p =>
      let e := s.engineCycles (p.1 / 256) (p.1 % 256)
      (p.1, { p.2 with cur := p.2.cur.count (e.1 * n) e.2 }) }

/-- The time is at least `t`. -/
def State.passTo (s : State) (t : Nat) : State := s.elapse (t - s.clock.now)

/-- The time is at least `n` µs after the moment `since`, if that moment is known. -/
def State.passSince (s : State) (since : Option Nat) (n : Nat) : State :=
  match since with | some t => s.passTo (t + n) | none => s

/-! ### The slew governor (R243 to R246) -/

/-- The power that an eighth of issue duty adds, in 0.25 W: at most an eighth of the 14 W of R245. -/
def dutyWatts (op : Nat) : Nat := min (Config.dutyStep op) 7

/-- The power that a comb may still rise, or fall, in the window of its last ten samples, in 0.25 W (R243). -/
def State.slewLimit (s : State) : Nat := 4 * fld (s.rd pgBase 0x100) 5 0
def State.samples (s : State) (c : Nat) : List Nat := Tab.get [] s.base.slew c
def State.upRoom (s : State) (c : Nat) : Nat :=
  let l := s.samples c
  s.slewLimit - (4 * (l.headD 0 - l.foldl min (l.headD 0)) + Tab.get 0 s.base.rise c)
def State.downRoom (s : State) (c : Nat) : Nat :=
  let l := s.samples c
  s.slewLimit - (4 * (l.foldl max (l.headD 0) - l.headD 0) + Tab.get 0 s.base.fall c)
/-- A rise of a comb's power admitted, or a fall. -/
def State.noteRise (s : State) (c n : Nat) : State := s.modBase fun b => { b with rise := Tab.set 0 b.rise c (Tab.get 0 b.rise c + n) }
def State.noteFall (s : State) (c n : Nat) : State := s.modBase fun b => { b with fall := Tab.set 0 b.fall c (Tab.get 0 b.fall c + n) }

/-- A cell takes CELL_CLK (R372): a rise is admitted under the governor, a cell's power being in proportion to its clock (log entry 86); one
that is not waits for the next boundary. -/
def State.takeClock (s : State) (cell : Nat) : State :=
  let x := s.cell cell
  let new := 50 * fld (s.rd pgPower 0x104) 4 0
  let top := Tab.get 1500 s.power.combMhz (cell / 16)
  let a := min x.mhz top
  let b := min new top
  let rise := cdiv (x.power * (b - a)) (max 1 a)
  if rise > s.upRoom (cell / 16) then s
  else ((s.noteRise (cell / 16) rise).noteFall (cell / 16) (x.power * (a - b) / max 1 a)).modCell cell fun r => { r with mhz := new }

/-- What a cell's power must rise by for `d` eighths of the duty of an opcode; its keep-warm power counts (R244, R245). -/
def State.dutyRise (s : State) (cell op d : Nat) : Nat := d * dutyWatts op - (s.cell cell).power
/-- The comb's allowance covers a cell's step to `d` eighths: without a look at the step where it covers the largest one. -/
def State.slewCovers (s : State) (cell op d : Nat) : Bool := s.upRoom (cell / 16) ≥ 7 * d || s.dutyRise cell op d ≤ s.upRoom (cell / 16)

/-- A cell is an S-class context's, picked or running. -/
def State.sCell (s : State) (c : Nat) : Bool :=
  let id := (s.cell c).run.or (s.cell c).picked
  match id with | some i => (s.cx i.ctx.val).isS | none => false
/-- The power at the lands in W in a load shed, 60 % of TDP (R354). -/
def shedLimit : Nat := 2160
/-- The power available at the lands in W (R352). -/
def State.capLimit (s : State) : Nat := min (fld (s.rd pgPower 0x104) 19 8) (320 * s.power.vinMain / 1000)
/-- A load shed or the power cap is in force, and what the last sample saw at the lands, with what has risen since, leaves no room for a
cell's first step (R352, R354). -/
def State.powerHolds (s : State) (c op : Nat) : Bool :=
  let limit := if s.power.supply ≠ .ok then some shedLimit else if s.power.capped then some s.capLimit else none
  limit.any fun w => 4 * s.power.totals.headD 0 + (s.base.rise.map (·.2)).sum + s.dutyRise c op 1 > 4 * w

/-- A cell's command is held back: its step is not covered, no power is left for it, or an S-class cell of the comb waits before it (R244). -/
def State.slewHolds (s : State) (c op : Nat) : Bool :=
  !s.slewCovers c op 1 || s.powerHolds c op || (!s.sCell c && (List.range 16).any fun i =>
    let x := c / 16 * 16 + i
    x ≠ c && (s.cell x).gated && (s.cell x).picked.isSome && s.sCell x)

/-- A cell's duty and power admitted. -/
def State.letOn (s : State) (cell op d : Nat) : State :=
  (s.noteRise (cell / 16) (s.dutyRise cell op d)).modCell cell fun r => { r with duty := d, power := max r.power (d * dutyWatts op), gated := false }

/-! ### Pacing of cell issue (R352, R354) -/

/-- The running cells, S-class ones first, then T-class, then B-class. -/
def State.byClass (s : State) : List Nat :=
  let l := (List.range 128).filter fun c => (s.cell c).run.isSome
  let b (c : Nat) : Bool := match (s.cell c).run with | some i => (s.cx i.ctx.val).isB | none => false
  l.filter s.sCell ++ (l.filter fun c => !s.sCell c && !b c) ++ l.filter fun c => !s.sCell c && b c
/-- The opcode that a cell runs. -/
def State.cellOp (s : State) (c : Nat) : Nat := match (s.cell c).run.bind s.run? with | some r => opcodeOf r.words | none => 0
/-- By how many eighths a cell's duty falls where `want` are to go: all of them in a load shed (R246), else as far as the limit downward
lets them (R352). -/
def State.dutyFall (s : State) (shed : Bool) (c want : Nat) : Nat :=
  let w := dutyWatts (s.cellOp c)
  if shed || w = 0 then want else min want (s.downRoom (c / 16) / w)
/-- Cell issue paced to `left` eighths over all cells: B-class cells first, then T-class, then S-class. -/
def State.paceTo (s : State) (shed : Bool) (left : Nat) : State :=
  (s.byClass.foldl (fun (a : State × Nat) c =>
    let d := (a.1.cell c).duty
    let k := a.1.dutyFall shed c (d - min d a.2)
    ((a.1.noteFall (c / 16) (k * dutyWatts (a.1.cellOp c))).modCell c fun r => { r with duty := d - k }, a.2 - (d - k))) (s, left)).1
/-- Pacing to what the hub leaves, a free value. -/
def State.pace (s : State) (shed : Bool) : State := (s.paceTo shed (Config.paceDuty s.free)).draw

/-- The power at the lands over the last 100 samples exceeds what is available (R352). -/
def State.overCap (s : State) : Bool := s.power.totals.sum > s.capLimit * s.power.totals.length

end Sys2Proof.Machine
end

