-- ==== Sys2Proof/Machine/Queues.lean ====
section
/-! DEFINITION. Doorbell pages and command queues: what a page shows to a function (R47, R440), doorbells (R52 to R54,
R17, R22, R384), event counters seen by the host (R62, R63), enabling, disabling and restarting a queue (R48 to R51,
R68), and the fetch of descriptors (R41, R55, R66). -/

namespace Sys2Proof.Machine
open Host

/-- The context whose doorbell page the page number `page` of a function's BAR2 shows, if that page is live (R47, R440). -/
def State.dbCtx (s : State) (fn page : Nat) : Option Nat :=
  if fn = 0 then some page
  else
    let m := Tab.get 0 s.vfMap (fn * 256 + page)
    let c := fld m 11 0
    if page < 256 && s.boot.vfs && bit m 31 && (s.cx c).st ≠ .free && (s.cx c).owner = fn then some c else none

/-- The doorbell pages answer: the hub runs and the hive is not fenced (R325, R382). -/
def State.dbOpen (s : State) : Bool := s.boot.hub && !s.fenced

/-- What a write to a doorbell page does to the context it reaches; nothing where the page is not live or not open. -/
def State.onDb (s : State) (fn page : Nat) (f : Nat → State → State) : State :=
  match s.dbCtx fn page with
  | some c => if s.dbOpen then f c s else s
  | none => s

/-- DOORBELL_DROP (R432, R433). -/
def State.dropBell (s : State) (c : Nat) : State := s.ctxErr c 0

/-- The context has queue `q` (R47). -/
def State.hasQueue (s : State) (c q : Nat) : Bool := q ≤ (s.cx c).nq

/-- The size of a queue's rings (R48). -/
def QueueRec.size (r : QueueRec) : Nat := 2 ^ fld r.cfg 4 0

/-- FRAME_START of a periodic stream brought to the frame of `t` (R22). -/
def StreamRec.frameAt (m : StreamRec) (t : W32) : W32 :=
  let p := m.period.toNat * 10
  let gone := sub32 t m.start
  if p = 0 || gone ≥ 2 ^ 31 then m.start else m.start + BitVec.ofNat 32 (gone / p * p)

/-- The deadline that an accepted doorbell gives (R22), with the stream it names. -/
def State.bellDeadline (s : State) (stream : Option Nat) : W32 :=
  match stream with
  | none => s.hubTime + 20000
  | some n =>
    let m := s.stm n
    (if m.period = 0 then s.hubTime else m.frameAt s.hubTime) + BitVec.ofNat 32 (m.deadline.toNat * 10)

/-- A doorbell that sets the tail (R53, R22). -/
def State.acceptBell (s : State) (c q : Nat) (tail : W32) (stream : Option Nat) : State :=
  let dl := if (s.cx c).isB then none else some (s.bellDeadline stream)
  let s := match stream with
    | some n => if (s.stm n).period = 0 then s else s.modStm n fun m => { m with start := m.frameAt s.hubTime }
    | none => s
  s.modQu c q fun r => { r with tail := tail, rel := r.rel ++ [⟨tail, stream, dl, s.now⟩] }

/-- A doorbell write (R17, R22, R52 to R54, R384). A reserved bit set is looked at before the queue's number: such a doorbell to a
queue above NQ sets DOORBELL_DROP too (log entry 71). -/
def State.bell (s : State) (c q : Nat) (value : W64) : State :=
  let tail : W32 := value.setWidth 32
  let r := s.qu c q
  let d := sub32 tail r.tail
  let named : Option Nat :=
    if (s.cx c).isB || !value.getLsbD 46 then none else some (value.toNat / 2 ^ 32 % 2 ^ 14)
  if value.toNat / 2 ^ 47 ≠ 0 || !s.service then s.dropBell c
  else if s.fenced then s
  else if !s.hasQueue c q then s
  else if (s.cx c).st ≠ .opened || r.st = .disabled || r.st = .draining then s.dropBell c
  else if d = 0 || d ≥ 2 ^ 31 then s
  else if sub32 tail r.cqHead > r.size then s.dropBell c
  else match named with
  | some n => if (s.stm n).live && (s.stm n).ctx = c then s.acceptBell c q tail named else s.dropBell c
  | none => s.acceptBell c q tail none

/-- The counter that a page's EVT_SEL selects (R63). -/
def State.evtSelOf (s : State) (c : Nat) : Nat := fld (Tab.get 0 s.evtSel c) 15 0

/-- A write of EVT_VALUE (R63). -/
def State.evtValue (s : State) (c : Nat) (v : W32) : State :=
  if (s.cx c).owns (s.evtSelOf c) then (s.setCtr (s.evtSelOf c) v).noteWaits else s.dropBell c
/-- A write of EVT_ADD (R63). -/
def State.evtAdd (s : State) (c : Nat) (v : W32) : State :=
  if (s.cx c).owns (s.evtSelOf c) then s.addCtr (s.evtSelOf c) v else s.dropBell c

/-- A queue starts afresh (R50). The requests that its earlier commands left unacknowledged stay, as those of earlier commands (R57). -/
def State.enableQueue (s : State) (c q : Nat) : State :=
  (s.modFab fun b => { b with reqs := b.reqs.map fun m =>
    { m with prior := m.prior || (match m.id with | some i => i.ctx.val = c && i.q.val = q | none => false) } }).modQu c q fun r => { r with
    head := 0, tail := 0, cqHead := 0, cqTail := 0, st := .running, expect := r.seq, fetched := [], rel := [], noRoom := none,
    cfg := putFld r.cfg 31 31 1 }

/-- A queue drains: fetched descriptors that have not started are discarded (R50). -/
def State.drainQueue (s : State) (c q : Nat) : State :=
  (s.unpick fun id => id.ctx.val = c && id.q.val = q).modQu c q fun r => { r with
    st := .draining, fetched := [], rel := [], noRoom := none, cfg := putFld r.cfg 31 31 0 }

/-- A write of `Qq_CFG` (R48, R50): VECTOR always, LOC and LOG2_SIZE while the queue is disabled, then EN. -/
def State.writeCfg (s : State) (c q : Nat) (v : W32) : State :=
  if !s.hasQueue c q then s else
  let s := s.modQu c q fun r =>
    let cfg := putFld r.cfg 27 16 (fld v 27 16)
    { r with cfg := if r.st = .disabled then putFld (putFld cfg 30 30 (fld v 30 30)) 4 0 (clampTo 4 16 (fld v 4 0)) else cfg }
  let r := s.qu c q
  if bit v 31 && !bit r.cfg 31 && r.st = .disabled then s.enableQueue c q
  else if !bit v 31 && bit r.cfg 31 then s.drainQueue c q
  else s

/-- The last command in flight of a draining queue has completed (R50). -/
def State.queueDrained (s : State) (c q : Nat) : State :=
  if (s.qu c q).st = .draining && (s.runsIn c q).isEmpty then s.modQu c q fun r => { r with st := .disabled } else s

/-- RESTART (R68). -/
def State.restart (s : State) (c q : Nat) : State :=
  if s.hasQueue c q && (s.qu c q).st = .halted then s.modQu c q fun r => { r with st := .running } else s

/-- A 4-byte write of a doorbell page (R47, R50, R63). -/
def State.dbWrite (s : State) (c off : Nat) (v : W32) : State :=
  if off = 0x40 then { s with evtSel := Tab.set 0 s.evtSel c (v &&& 0xFFFF) }
  else if off = 0x44 then s.evtValue c v
  else if off = 0x48 then s.evtAdd c v
  else if off < 0x100 || off ≥ 0x200 then s
  else
    let q := (off - 0x100) / 0x40
    let rel := off % 0x40
    if !s.hasQueue c q then s
    else if rel = 0x08 then s.writeCfg c q v
    else if rel = 0x20 then s.modQu c q fun r => { r with cqHead := v }
    else if rel = 0x2C then (if bit v 0 then s.restart c q else s)
    else if (s.qu c q).st ≠ .disabled then s
    else s.modQu c q fun r =>
      if rel = 0x00 then { r with baseLo := v } else if rel = 0x04 then { r with baseHi := v }
      else if rel = 0x0C then { r with seq := v } else if rel = 0x18 then { r with cqBaseLo := v }
      else if rel = 0x1C then { r with cqBaseHi := v } else r

/-- `Qq_STATUS` (R49). -/
def State.qStatus (s : State) (c q : Nat) : W32 :=
  let r := s.qu c q
  let st := match r.st with | .disabled => 0 | .running => 1 | .halted => 2 | .draining => 3
  BitVec.ofNat 32 (st * 2 ^ 30 + r.lastErr.toNat * 256 + s.inflight c q % 128)

/-- A 4-byte read of a doorbell page (R47, R63). -/
def State.dbRead (s : State) (c off : Nat) : W32 :=
  if off = 0x40 then Tab.get 0 s.evtSel c
  else if off = 0x44 then (if (s.cx c).owns (s.evtSelOf c) then s.ctr (s.evtSelOf c) else 0)
  else if off < 0x100 || off ≥ 0x200 then 0
  else
    let q := (off - 0x100) / 0x40
    let rel := off % 0x40
    let r := s.qu c q
    if !s.hasQueue c q then 0
    else if rel = 0x00 then r.baseLo else if rel = 0x04 then r.baseHi else if rel = 0x08 then r.cfg
    else if rel = 0x0C then r.seq else if rel = 0x10 then r.head else if rel = 0x14 then r.tail
    else if rel = 0x18 then r.cqBaseLo else if rel = 0x1C then r.cqBaseHi else if rel = 0x20 then r.cqHead
    else if rel = 0x24 then r.cqTail else if rel = 0x28 then s.qStatus c q else 0

/-- An access of a doorbell page of any size (R47): a bad read completes as Unsupported Request, a bad write is discarded
and sets DOORBELL_DROP; an aligned read returns its value. A write that R47 allows has a row of its own. -/
def State.dbAccess (s : State) (fn page off size : Nat) (write : Bool) : State :=
  if !s.dbOpen && !write then s.emit .unsupported
  else match s.dbCtx fn page with
  | none => if write then s else s.emit (.readDone (List.replicate size 0))
  | some c =>
    let db := off < 0x20
    let word := size = 4 && off % 4 = 0
    if write then (if (db && size = 8 && off % 8 = 0) || (!db && (word || !s.dbOpen)) then s else s.dropBell c)
    else if db && (word || (size = 8 && off % 8 = 0)) then s.emit (.readDone (List.replicate size 0))
    else if !db && word then s.emit (.readDone (toBytes 4 (s.dbRead c off).toNat))
    else s.emit .unsupported

/-! ### Fetch (R41, R55, R66) -/

/-- The release that covers count `n`: the oldest whose tail lies beyond it (R53). -/
def releaseOf (rel : List Release) (n : W32) : Option Release := rel.find? fun x => reached x.upTo (n + 1)

/-- The descriptor at HEAD as the front end reads it: its words, and the failure of the read or of the first check. Where the read fails,
its record shows the expected SEQ and OPCODE 0, the model's choice (R66; log entry 95). -/
def State.fetchWords (s : State) (c q : Nat) : List W32 × Option Err :=
  let r := s.qu c q
  match s.readBytes ⟨c, 0, none, none⟩ (ringSpace r.cfg) (ringAddr r.baseLo r.baseHi r.cfg r.head 128) 128 with
  | .ok bs =>
    let w := bytesToWords 32 bs
    (w, fetchBad (s.cx c) c r.expect w)
  | .error e => (setAt 0 (List.replicate 32 0) 1 r.expect, some e)

/-- The read of host memory that a fetched descriptor came from times out (R439): an unstarted one takes CMD_PAGE_FAULT, DETAIL 0. -/
def State.fetchFailed (s : State) (id : CmdId) : State :=
  let c := id.ctx.val
  let q := id.q.val
  if ringSpace (s.qu c q).cfg ≠ 4 then s
  else (s.unpick fun x => x = id).modQu c q fun r => { r with fetched := r.fetched.map fun f =>
    if (cmdId c q f) = id then { f with bad := some (St.pageFault, 0), words := setAt 0 (List.replicate 32 0) 1 f.expect } else f }

/-- The front end may fetch for a queue: released descriptors, and room in the completion ring (R66). -/
def State.mayFetch (s : State) (c q : Nat) : Bool :=
  let r := s.qu c q
  r.st = .running && (s.cx c).st ≠ .free && (s.cx c).st ≠ .zeroing && s.dbOpen && r.head ≠ r.tail &&
    sub32 r.head r.cqHead < r.size

/-- One fetch. -/
def State.fetch (s : State) (c q : Nat) : State :=
  if !s.mayFetch c q then s
  else
    let (w, bad) := s.fetchWords c q
    if bad.any (fun e => e.1 = St.notYet) then s else
    (s.modQu c q fun r =>
      let rl := releaseOf r.rel r.head
      { r with
        fetched := r.fetched ++ [⟨r.head, w, bad, rl.bind (·.stream), rl.bind (·.deadline), (rl.map (·.bell)).getD s.now, s.now, false, false, r.expect⟩]
        head := r.head + 1
        expect := r.expect + 1 }).noteWaits

/-! ### The commands -/

/-- DOORBELL. While SERVICE is 0 it is discarded with DOORBELL_DROP, also where the doorbell pages do not answer yet (R384). -/
def execDoorbell (fn : Fin 256) (page : Fin 4096) (q : Fin 4) (value : W64) (s : State) : Host.Outcome State Fault Refusal :=
  .next (match s.dbCtx fn.val page.val with | some c => s.bell c q.val value | none => s)
/-- DOORBELL_PAGE_BAD_ACCESS. -/
def execDoorbellPageBadAccess (fn : Fin 256) (page : Fin 4096) (off : BitVec 12) (size : Nat) (write : Bool) (s : State) :
    Host.Outcome State Fault Refusal := .next (s.dbAccess fn.val page.val off.toNat size write)
/-- EVT_VALUE_WRITE. -/
def execEvtValueWrite (fn : Fin 256) (page : Fin 4096) (value : W32) (s : State) : Host.Outcome State Fault Refusal :=
  .next (s.onDb fn.val page.val fun c s => s.evtValue c value)
/-- EVT_ADD_WRITE. -/
def execEvtAddWrite (fn : Fin 256) (page : Fin 4096) (value : W32) (s : State) : Host.Outcome State Fault Refusal :=
  .next (s.onDb fn.val page.val fun c s => s.evtAdd c value)
/-- QUEUE_ENABLE: a write of `Qq_CFG` with EN = 1. -/
def execQueueEnable (fn : Fin 256) (page : Fin 4096) (q : Fin 4) (value : W32) (s : State) : Host.Outcome State Fault Refusal :=
  .next (s.onDb fn.val page.val fun c s => s.writeCfg c q.val value)
/-- QUEUE_DISABLE: a write of `Qq_CFG` with EN = 0. -/
def execQueueDisable (fn : Fin 256) (page : Fin 4096) (q : Fin 4) (value : W32) (s : State) : Host.Outcome State Fault Refusal :=
  .next (s.onDb fn.val page.val fun c s => s.writeCfg c q.val value)
/-- QUEUE_DRAINED. -/
def execQueueDrained (ctx : Fin 4096) (q : Fin 4) (s : State) : Host.Outcome State Fault Refusal := .next (s.queueDrained ctx.val q.val)
/-- RESTART. -/
def execRestart (fn : Fin 256) (page : Fin 4096) (q : Fin 4) (s : State) : Host.Outcome State Fault Refusal :=
  .next (s.onDb fn.val page.val fun c s => s.restart c q.val)
/-- DESCRIPTOR_FETCH. -/
def execDescriptorFetch (ctx : Fin 4096) (q : Fin 4) (s : State) : Host.Outcome State Fault Refusal := .next (s.fetch ctx.val q.val)

end Sys2Proof.Machine
end

