-- ==== Sys2Proof/Machine/Sched.lean ====
section
/-! DEFINITION. The scheduler: residency of scratchpad banks (R35, R175, R461), spill and refill (R35 to R37), reserve
pairs (R27, R28, R341), the pick at a command boundary (R31, R32) and the context switch (R33). -/

namespace Sys2Proof.Machine
open Host

/-! ### Residency -/

/-- The banks of a context are resident on a cell (R35): its whole quota is mapped. -/
def State.resident (s : State) (c cell : Nat) : Bool :=
  match s.bankMap c cell with
  | some m => m.length ≥ (s.cxAt c cell).banks
  | none => false

/-- The physical banks of a cell that no context holds: those that are not `DEGRADED` first (R175). -/
def State.freeBanks (s : State) (cell : Nat) : List Nat :=
  let used := ((s.cell cell).res.map (·.map)).flatten
  let deg := match s.physOf cell with | some p => (s.physCell p).degraded | none => 0
  let free := (List.range 64).filter fun b => !used.contains b
  (free.filter fun b => !deg.getLsbD b) ++ free.filter fun b => deg.getLsbD b

/-- The banks that a context still needs on a cell. -/
def State.needBanks (s : State) (c cell : Nat) : Nat :=
  (s.cxAt c cell).banks - ((s.bankMap c cell).getD []).length

/-- A running hub or store-die command of the context needs its banks on the cell, or an access to a scratchpad window does
(R294, R461). -/
def State.hubWants (s : State) (c cell : Nat) : Bool :=
  s.fab.wants.contains (c, cell) || s.runs.any fun r => r.id.ctx.val = c && r.res.isNone && r.wants.contains cell

/-- The context does not take the cell: its banks are wanted there by a hub or store-die command only (R461). -/
def State.staysAway (s : State) (c cell : Nat) : Bool :=
  s.hubWants c cell && !(match (s.cell cell).picked with | some id => id.ctx.val = c | none => false) && !s.pairCells.contains cell

/-- When a context left a cell: the one whose state is in the cell leaves it with the switch to the next (R33, R35). -/
def State.leftAt (s : State) (cell : Nat) (r : Resident) : Nat := if (s.cell cell).cur = some r.ctx then s.now else r.away

/-- The contexts whose banks may be spilled from a cell to make room for `c`: unpinned, away from the cell, and not
refused since their last RESUME (R35, R37); the longest away first. The context whose state is in the cell is away only once
another takes the cell: with `take`, `c` is to take it. -/
def State.victims (s : State) (c cell : Nat) (take : Bool) : List Resident :=
  sortBy ((s.cell cell).res.filter fun r => r.ctx ≠ c && !(s.cx r.ctx).pin && !(s.cx r.ctx).noSpill.contains cell &&
    !(!take && s.staysAway c cell && (s.cell cell).cur = some r.ctx) &&
    !(s.runs.any fun x => x.id.ctx.val = r.ctx && (x.cell = some cell || x.partner = some cell)))
    fun a b => s.leftAt cell a < s.leftAt cell b || (s.leftAt cell a = s.leftAt cell b && a.ctx ≤ b.ctx)

/-- The banks that the pinned quotas of other contexts keep on a cell beyond those that are resident (R35, R36). -/
def State.pinnedDue (s : State) (c cell : Nat) : Nat :=
  s.pinnedOn c cell - (((s.cell cell).res.filter fun r => r.ctx ≠ c && (s.cx r.ctx).pin).map fun r => r.map.length).sum

/-- A context's quota fits on a cell: free banks, and those of unpinned contexts that are away, less what pinned quotas
keep (R35). With `take`, the context is to take the cell; without, its banks only come there (R461). -/
def State.fits (s : State) (c cell : Nat) (take : Bool) : Bool :=
  s.needBanks c cell + s.pinnedDue c cell ≤ (s.freeBanks cell).length + ((s.victims c cell take).map fun r => r.map.length).sum

/-- The virtual address of a logical bank's place in the spill area (R37; its arrangement is the F48's: log entry 14). -/
def CtxRec.spillVa (r : CtxRec) (cell b : Nat) : Nat :=
  r.spillRoot * 65536 + (b * r.mask.length + r.mask.idxOf cell) * 0x40000

/-- The HBM pages of a bank's place in the spill area, for a read or a write. -/
def State.spillPages (s : State) (c cell b : Nat) (write : Bool) : Except Err (List Nat) :=
  (List.range 4).mapM fun i => do
    if s.starved ownPart (2 ^ 32 + b * 4 + i) then throw (St.notYet, 0)
    let p ← s.walk c ((s.cx c).spillVa cell b / 65536 + i) write
    if s.stackUp (stackOf p) then return p else throw (s.stackErr (stackOf p))

/-- 64 KiB from the scratchpad to an HBM page under a key; poison goes with it (R37). -/
def MemRec.spillPage (m : MemRec) (k : KeyTag) (idx ppn : Nat) : MemRec :=
  let m := m.zeroPage k ppn
  { m with
    hbm := Tab.copy m.spad idx (idx + 65536) m.hbm (ppn * 65536)
    hbmPoison := Tab.copy m.spadPoison (idx / 4) (idx / 4 + 16384) m.hbmPoison (ppn * 16384) }

/-- 64 KiB from an HBM page as it reads through a key to the scratchpad; poison goes with it (R37). -/
def MemRec.fillPage (m : MemRec) (k : KeyTag) (idx ppn : Nat) : MemRec :=
  let plain := Tab.get none m.pageKey ppn = k && (m.secKey.range (ppn * 1024) (ppn * 1024 + 1024)).isEmpty
  let spad := if plain then Tab.copy m.hbm (ppn * 65536) (ppn * 65536 + 65536) m.spad idx
    else m.spad.write idx (m.hbmBytes k (ppn * 65536) 65536)
  { m with spad := spad, spadPoison := Tab.copy m.hbmPoison (ppn * 16384) (ppn * 16384 + 16384) m.spadPoison (idx / 4) }

/-- A physical bank zeroed. -/
def MemRec.zeroBank (m : MemRec) (cell b : Nat) : MemRec :=
  { m with
    spad := Tab.clear m.spad (spadIdx cell b 0) (spadIdx cell b 0 + 2 ^ 18)
    spadPoison := m.spadPoison.clear (spadIdx cell b 0 / 4) (spadIdx cell b 0 / 4 + 2 ^ 16) }

/-- A faulting spill or refill: its context enters `QUIESCING` and SPILL_FAULT is set (R37). -/
def State.spillFault (s : State) (c : Nat) : State :=
  let s := if (s.cx c).st = .opened then s.quiesceCtx c else s
  s.ctxErr c 2

/-- The banks that a spill writes: those mapped, up to the quota in force. On a reserve cell outside the context's CELL_MASK none of
them can hold data (R44), and the spill area has no place for them (R37): they are freed unwritten (log entry 22). -/
def State.spillCount (s : State) (cell : Nat) (v : Resident) : Nat :=
  if (s.cx v.ctx).inMask cell then min (s.cxAt v.ctx cell).banks v.map.length else 0

/-- The banks of a victim go to its spill area, or stay where they are when a translation fails (R35, R37). A page of the area whose
stack is absent, or a table walk that meets an uncorrectable word, counts as such a fault, here and in a refill, the model's choice
(log entry 95). -/
def State.spillOut (s : State) (cell : Nat) (v : Resident) : State :=
  let n := s.spillCount cell v
  match (List.range n).mapM fun b => s.spillPages v.ctx cell b true with
  | .error e => if e.1 = St.notYet then s else (s.modCx v.ctx fun r => { r with noSpill := r.noSpill ++ [cell] }).spillFault v.ctx
  | .ok pages =>
    let s := s.modMem fun m => pages.zipIdx.foldl (fun m p =>
      p.1.zipIdx.foldl (fun m q => m.spillPage (s.ctxKey v.ctx) (spadIdx cell (v.map.getD p.2 0) (q.2 * 65536)) q.1) m) m
    s.modCell cell fun r => { r with res := r.res.filter fun x => x.ctx ≠ v.ctx, spilled := r.spilled ++ [(v.ctx, n)] }

/-- A running hub or store-die command waits for the banks of its context on some cell that it may use (R461). -/
def State.bankWait (s : State) (r : Run) : Bool :=
  let c := r.id.ctx.val
  r.wants.any fun i => (s.cell i).phys.isSome && (s.cxAt c i).inMask i && !s.resident c i

/-- The context needs its banks on the cell: a picked command (R35), a hub command (R461), or an S-class context on a
reserve cell (R341). -/
def State.wantsBanks (s : State) (c cell : Nat) : Bool :=
  (match (s.cell cell).picked with | some id => id.ctx.val = c | none => false) || s.hubWants c cell ||
  ((s.cx c).isS && (s.cx c).st ≠ .free && (s.cx c).st ≠ .zeroing && s.pairCells.contains cell)

/-- A cell at a command boundary: ready, its clock locked, not under BIST, no command running, the hive not fenced (R30, R323, R382). -/
def State.atBoundary (s : State) (cell : Nat) : Bool :=
  s.cellReady cell && !(s.cell cell).held && !(s.cell cell).bist && (s.cell cell).run.isNone && !s.fenced

/-- SPILL (R35): the unpinned context longest away leaves the cell, where the banks that `c` needs are not free. -/
def State.spillFor (s : State) (cell c : Nat) : State :=
  if !s.atBoundary cell || !s.wantsBanks c cell || s.resident c cell then s
  else if s.needBanks c cell ≤ (s.freeBanks cell).length || !s.fits c cell false then s
  else match s.victims c cell false with
  | v :: _ => s.spillOut cell v
  | [] => s

/-- Physical banks are mapped to a context on a cell; banks that were never filled start zeroed (R175; log entry 10). -/
def State.mapBanks (s : State) (c cell : Nat) : State :=
  let old := (s.bankMap c cell).getD []
  let add := (s.freeBanks cell).take (s.needBanks c cell)
  let s := s.modMem fun m => add.foldl (fun m b => m.zeroBank cell b) m
  let s := s.modFab fun f => { f with wants := f.wants.filter fun p => p ≠ (c, cell) }
  s.modCell cell fun r => { r with res := r.res.filter (fun x => x.ctx ≠ c) ++ [⟨c, old ++ add, s.now⟩] }

/-- The banks of a context that a cell's last spill of it wrote, if it is spilled (R37). -/
def CellRec.spillOf (r : CellRec) (c : Nat) : Option Nat := (r.spilled.find? fun p => p.1 = c).map (·.2)

/-- REFILL (R35, R37, R461): the banks of `c` become resident on the cell; those that a spill wrote are read back. -/
def State.refillFor (s : State) (cell c : Nat) : State :=
  if !s.atBoundary cell || !s.wantsBanks c cell || s.resident c cell || s.needBanks c cell > (s.freeBanks cell).length then s
  else match (s.cell cell).spillOf c with
  | none => s.mapBanks c cell
  | some n => match (List.range n).mapM fun b => s.spillPages c cell b false with
  | .error e => if e.1 = St.notYet then s else s.spillFault c
  | .ok pages =>
    let s := s.mapBanks c cell
    let map := (s.bankMap c cell).getD []
    let s := s.modMem fun m => pages.zipIdx.foldl (fun m p =>
      p.1.zipIdx.foldl (fun m q => m.fillPage (s.ctxKey c) (spadIdx cell (map.getD p.2 0) (q.2 * 65536)) q.1) m) m
    s.modCell cell fun r => { r with spilled := r.spilled.filter fun p => p.1 ≠ c }

/-- Since when the access of a running hub or store-die command of a queue has waited for banks (R461). -/
def State.waitsSince (s : State) (c q : Nat) : Option Nat :=
  (s.runs.find? fun r => r.id.ctx.val = c && r.id.q.val = q && r.res.isNone && r.wantAt.isSome && s.bankWait r).bind (·.wantAt)

/-- The command that has waited 10 ms for room: the ready one at the head of a queue (R35), or a running hub or store-die
command of the queue (R461). The time is brought to the end of the 10 ms. -/
def State.noFit (s : State) (c q : Nat) : State :=
  match (s.qu c q).noRoom.or (s.waitsSince c q) with
  | some t => (s.passTo (t + 10000)).ctxErr c 11
  | none => s

/-! ### The pick (R31, R32) -/

/-- A ready cell command: its context, queue and descriptor. -/
structure Ready where
  c : Nat
  q : Nat
  f : Fetched
deriving DecidableEq, Repr

/-- A COLLECTIVE of the context runs, or waits only for R313: no cell command of the context starts. -/
def State.collHolds (s : State) (c : Nat) : Bool :=
  (s.runs.any fun r => r.id.ctx.val = c && opcodeOf r.words = 0x40 && !r.refused) ||
  (List.range 4).any fun q => match s.readyHead c q with | some f => f.bad.isNone && opcodeOf f.words = 0x40 | none => false

/-- The ready cell commands of every queue (R31, R56, R313). -/
def State.readyCmds (s : State) : List Ready :=
  s.queue.filterMap fun p => (s.readyHead (p.1 / 4) (p.1 % 4)).bind fun f =>
    if f.bad.isNone && isCellOp (opcodeOf f.words) && !s.collHolds (p.1 / 4) then some ⟨p.1 / 4, p.1 % 4, f⟩ else none

/-- The first of a list under an order. -/
def bestOf {α : Type} (lt : α → α → Bool) : List α → Option α
  | [] => none
  | x :: t => match bestOf lt t with | none => some x | some y => some (if lt y x then y else x)

/-- The order of S-class commands: the oldest ready, ties to the earlier doorbell. -/
def Ready.older (a b : Ready) : Bool := a.f.ready < b.f.ready || (a.f.ready = b.f.ready && a.f.bell < b.f.bell)

/-- A deadline relative to now, in modular time (R21). -/
def State.dueIn (s : State) (d : Option W32) : Int := match d with | some d => sext 32 (d - s.hubTime).toNat | none => 20000
/-- The order of T-class commands: the earliest deadline, ties to the lower context, then to the earlier doorbell. -/
def State.sooner (s : State) (a b : Ready) : Bool :=
  let x := s.dueIn a.f.deadline
  let y := s.dueIn b.f.deadline
  x < y || (x = y && (a.c < b.c || (a.c = b.c && a.f.bell < b.f.bell)))

/-- A command that needs the cell that CELL names: a SPACE 2 operand lies in the banks there (R44), and the extension block of a
VSTREAM may name one (R157). -/
def fixedCell (w : List W32) : Bool := ((List.range 3).any fun n => (slot w n).space = 2) || (opcodeOf w = 0x10 && wd w 31 ≠ 0)

/-- The cells that a T- or B-class command may take (R24, R31): those of CELL_MASK, and for T class the reserve cells too; only the
one that CELL names where an operand lies there (log entry 22). -/
def State.takes (s : State) (x : Ready) (cell : Nat) : Bool :=
  if fixedCell x.f.words then cellOf x.f.words = cell
  else (s.cxAt x.c cell).inMask cell || (!(s.cx x.c).isB && s.pairCells.contains cell)

/-- A pair counts as formed: both cells are its own and hold the banks of every S-class context (R341). -/
def State.pairFormed (s : State) (p : Pair) : Bool :=
  !p.lostA && !p.lostB && s.ctx.all fun x => !(x.2.isS && x.2.st ≠ .free && x.2.st ≠ .zeroing) ||
    (s.resident x.1 p.a && s.resident x.1 p.b)

/-- A cell is taken by an S-class command, picked or running. -/
def State.sTaken (s : State) (cell : Nat) : Bool :=
  let r := s.cell cell
  (match r.picked with | some id => (s.cx id.ctx.val).isS | none => false) ||
  (match r.run with | some id => (s.cx id.ctx.val).isS | none => false)

/-- A pair is busy: not formed, a cell not ready (R339), or taken by an S-class command. -/
def State.pairBusy (s : State) (p : Pair) : Bool :=
  !s.pairFormed p || !s.cellReady p.a || !s.cellReady p.b || s.sTaken p.a || s.sTaken p.b

/-- The oldest ready S-class command that cell `cell` may take, with the cells to claim (R28, R31). One that has claimed a single mask cell
so far is still ready: it takes a second one, or a pair that becomes free in the meantime. -/
def State.pickS (s : State) (cell : Nat) (rs : List Ready) : Option (Ready × List Nat) :=
  let ss := rs.filter fun x => (s.cx x.c).isS
  match s.pairs.find? fun p => (p.a = cell || p.b = cell) && !s.pairBusy p with
  | some p => (bestOf Ready.older (ss.filter fun x => (s.pickedOn (cmdId x.c x.q x.f)).length < 2)).map fun x => (x, [p.a, p.b])
  | none =>
    if s.pairCells.contains cell || !s.pairs.all s.pairBusy then none
    else (bestOf Ready.older (ss.filter fun x =>
      (s.cxAt x.c cell).inMask cell && s.fits x.c cell true && (s.pickedOn (cmdId x.c x.q x.f)).length < 2)).map fun x => (x, [cell])

/-- The B-class contexts with a ready command for the cell, in ascending number. -/
def bReady (rs : List Ready) : List Nat := sortBy (rs.map (·.c)).eraseDups (· ≤ ·)

/-- The B-class context that takes the cell, and whether a new slice begins: the holder while its slice runs; else the
holder again while it has used fewer slices in a row than its WEIGHT; else the next context (R31; log entry 23). -/
def State.pickB (s : State) (cell : Nat) (cs : List Nat) : Option (Nat × Bool) :=
  let r := s.cell cell
  let next (h : Nat) : Option (Nat × Bool) := ((cs.find? fun c => c > h).or cs.head?).map fun c => (c, true)
  match r.holder with
  | none => cs.head?.map fun c => (c, true)
  | some h =>
    if cs.contains h && s.now < r.slice + (s.cxAt h cell).slice * 50 then some (h, false)
    else if cs.contains h && r.rr < (s.cxAt h cell).weight then some (h, true)
    else next h

/-- The choice of R31 for a cell: the command and the cells to claim, and for B class whether a slice begins. -/
def State.choose (s : State) (cell : Nat) : Option (Ready × List Nat × Bool) :=
  let rs := s.readyCmds
  match s.pickS cell rs with
  | some (x, cs) => some (x, cs, false)
  | none =>
    let mine := rs.filter fun x => !(s.cx x.c).isS && s.takes x cell && (s.pickedOn (cmdId x.c x.q x.f)).isEmpty &&
      s.fits x.c cell true
    match bestOf s.sooner (mine.filter fun x => !(s.cx x.c).isB) with
    | some x => some (x, [cell], false)
    | none =>
      if s.pairCells.contains cell then none
      else
        let bs := mine.filter fun x => (s.cx x.c).isB
        match s.pickB cell (bReady bs) with
        | none => none
        | some (c, new) =>
          (bestOf (fun a b => a.f.bell < b.f.bell || (a.f.bell = b.f.bell && a.q < b.q)) (bs.filter fun x => x.c = c)).map
            fun x => (x, [cell], new)

/-- The pick is recorded on the claimed cells, and a mask cell that the command of a pair held before is free again; a B-class pick sets the holder and its slice (R31, R32). -/
def State.notePick (s : State) (cell : Nat) (p : Ready × List Nat × Bool) : State :=
  let id := cmdId p.1.c p.1.q p.1.f
  let s := if p.2.1.length > 1 then s.unpick fun x => x = id else s
  let s := p.2.1.foldl (fun s i => s.modCell i fun r => { r with picked := some id, gated := false }) s
  if !(s.cx p.1.c).isB then s
  else s.modCell cell fun r =>
    if p.2.2 then { r with holder := some p.1.c, slice := s.now, rr := if r.holder = some p.1.c then r.rr + 1 else 1 } else r

/-- The cells on which a ready command may find room: for S class beyond the pairs those of CELL_MASK (R28). -/
def State.mayTake (s : State) (x : Ready) (cell : Nat) : Bool :=
  if (s.cx x.c).isS then (s.cxAt x.c cell).inMask cell else s.takes x cell

/-- The heads of queues whose command waits because no cell that it may take fits: since when (R35). An S-class command does not
wait in this way while a pair is formed. -/
def State.noteRoom (s : State) (cell : Nat) : State :=
  s.readyCmds.foldl (fun s x =>
    if !s.mayTake x cell || ((s.cx x.c).isS && s.pairs.any s.pairFormed) then s
    else s.modQu x.c x.q fun r =>
      if s.fits x.c cell true || (List.range 128).any fun i => s.mayTake x i && (s.cell i).phys.isSome && s.fits x.c i true then { r with noRoom := none }
      else { r with noRoom := some (r.noRoom.getD s.now) }) s

/-- The poison that the cell state of a context overwrites as the cell saves it: that of the first 1,124 KiB of its save slot, which it
writes whole (R33, R177). -/
def State.slotWritten (s : State) (cell : Nat) : State :=
  match (s.cell cell).cur with
  | none => s
  | some o => match s.bankMap o cell with
    | none => s
    | some map =>
      let at_ (b : Nat) : Nat := spadIdx cell (map.getD ((s.cxAt o cell).banks - 5 + b) 0) 0
      s.modMem fun m => { m with spadPoison := (List.range 5).foldl (fun t b =>
        unpoison t (at_ b) (if b < 4 then 2 ^ 18 else 100 * 1024)) m.spadPoison }

/-- The cell saves the state of the context that leaves it and restores that of `c` (R33). -/
def State.switchTo (s : State) (cell c : Nat) : State :=
  if (s.cell cell).cur = some c then s
  else (s.slotWritten cell).modCell cell fun r =>
    let saved := match r.cur with | some o => Tab.set {} r.saved o r.acc | none => r.saved
    { r with
      cur := some c
      acc := Tab.get {} saved c
      saved := Tab.set {} saved c {}
      res := r.res.map fun x => if some x.ctx = r.cur then { x with away := s.now } else x }

/-- A larger quota takes effect on a cell: what the save slot under the old one held of cell state and staged data (R33, R74) is
unspecified to the commands that may address these banks now (log entry 77). -/
def State.slotOpened (s : State) (cell c old : Nat) : State :=
  let map := (s.bankMap c cell).getD []
  let t := s.modMem fun m => ((map.drop (old - 5)).take 5).foldl (fun m b =>
    { m with spad := m.spad.write (spadIdx cell b 0) (s.freeBytes (b * 2 ^ 18) (2 ^ 18)) }) m
  t.draw

/-- What takes effect at a cell's boundary: updated entries (R18) and CELL_CLK (R372). -/
def State.boundary (s : State) (cell : Nat) : State :=
  let raised := s.ctx.filterMap fun p => (p.2.stale.find? fun x => x.1 = cell).bind fun x =>
    let old := ({ p.2 with ent := x.2 } : CtxRec).banks
    if old < p.2.banks then some (p.1, old) else none
  let s := raised.foldl (fun (s : State) x => s.slotOpened cell x.1 x.2) s
  ({ s with ctx := s.ctx.map fun p => (p.1, { p.2 with stale := p.2.stale.filter fun x => x.1 ≠ cell }) } : State).takeClock cell

/-- A command that was picked before a COLLECTIVE of its context became ready goes back to the ready commands (R313). -/
def State.dropHeld (s : State) (cell : Nat) : State :=
  match (s.cell cell).picked with
  | some id => if s.collHolds id.ctx.val then s.unpick fun x => x = id else s
  | none => s

/-- The pick recorded, where R31 chooses a command. -/
def State.pickNew (s : State) (cell : Nat) : State :=
  let s := s.dropHeld cell
  if (s.cell cell).picked.isSome then s
  else
    let s := s.noteRoom cell
    match s.choose cell with
    | some p => s.notePick cell p
    | none => s

/-- SCHEDULER_PICK (R31, R33): the choice at a boundary, and the switch to the chosen command's context. -/
def State.schedule (s : State) (cell : Nat) : State :=
  if !s.atBoundary cell then s
  else
    let s := (s.boundary cell).pickNew cell
    match (s.cell cell).picked with
    | some id => s.switchTo cell id.ctx.val
    | none => s

/-! ### The commands -/

/-- SCHEDULER_PICK. -/
def execSchedulerPick (cell : Fin 128) (s : State) : Host.Outcome State Fault Refusal := .next (s.schedule cell.val)
/-- SPILL. -/
def execSpill (cell : Fin 128) (ctx : Fin 4096) (s : State) : Host.Outcome State Fault Refusal := .next (s.spillFor cell.val ctx.val)
/-- SPAD_NO_FIT_TIMEOUT. -/
def execSpadNoFitTimeout (ctx : Fin 4096) (q : Fin 4) (s : State) : Host.Outcome State Fault Refusal := .next (s.noFit ctx.val q.val)

end Sys2Proof.Machine
end

