-- ==== Sys2Proof/Machine/Units.lean ====
section
/-! DEFINITION. The units of the health score and their codes (R342), the states of units and of the hive (R346, R348), and
the events that the management endpoint reports when a state changes (R344, R444). -/

namespace Sys2Proof.Machine

/-! ### Units (R342) -/

/-- Unit codes of a physical cell, a comb, a store die, a stack, a die port, a laser group, a Chaver port, a scout, the
hub. -/
def unitPhys (p : Nat) : Nat := p
def unitComb (c : Nat) : Nat := 0x90 + c
def unitSd (n : Nat) : Nat := 0x98 + n
def unitStack (n : Nat) : Nat := 0xA0 + n
def unitDp (n : Nat) : Nat := 0xB0 + n
def unitLaser (n : Nat) : Nat := 0xC8 + n
def unitPort (n : Nat) : Nat := 0xE0 + n
def unitScout (n : Nat) : Nat := 0x100 + n
def unitHub : Nat := 0x110

/-! ### Unit states and what the endpoint reports (R344, R348, R444) -/

/-- A unit of R342 that a hard fault of R346 has removed: 3 retired, 2 fenced, 0 otherwise. -/
def State.removed (s : State) (u : Nat) : Nat :=
  if u < 0x88 then (if (s.physCell u).retired then 3 else 0)
  else if 0x90 ≤ u && u < 0x98 then
    (if (s.diePort (u - 0x90)).ended && (s.diePort (u - 0x90)).st = .down then 2 else 0)
  else if 0x98 ≤ u && u < 0xA0 then
    (if (s.diePort (8 + (u - 0x98))).ended && (s.diePort (8 + (u - 0x98))).st = .down then 2 else 0)
  else if 0xA0 ≤ u && u < 0xB0 then
    (if s.boot.sdEnded.getLsbD ((u - 0xA0) / 2) && !s.boot.hbmUp.getLsbD (u - 0xA0) then 3 else 0)
  else if 0xB0 ≤ u && u < 0xC1 then
    (if (s.diePort (u - 0xB0)).ended && (s.diePort (u - 0xB0)).st = .down then 2 else 0)
  else if 0xC8 ≤ u && u < 0xD4 then
    (if (List.range 9).any fun m => (s.source ((u - 0xC8) * 9 + m)).st = .retired then 3 else 0)
  else if 0xE0 ≤ u && u < 0x100 then (if (s.port (u - 0xE0)).st = .down then 2 else 0)
  else if 0x100 ≤ u && u < 0x10C then
    (if (s.scoutRec (u - 0x100)).st = .fenced && (s.scoutRec (u - 0x100)).fails ≥ 3 then 2 else 0)
  else if u = 0x110 then (if s.fenced then 2 else 0)
  else 0

/-- The unit codes of R342. -/
def unitCodes : List Nat :=
  (List.range 0x88) ++ (List.range 0x31).map (0x90 + ·) ++ (List.range 12).map (0xC8 + ·) ++ (List.range 32).map (0xE0 + ·) ++
    (List.range 12).map (0x100 + ·) ++ [0x110]

/-- `HEALTH_DATA.STATE` of a unit: 0 `UNIT_OK`, 1 `PROBATION`, 2 `UNIT_FENCED`, 3 `UNIT_RETIRED` (R348). -/
def State.unitState (s : State) (u : Nat) : Nat :=
  if s.removed u ≠ 0 then s.removed u else if (s.unit u).st = .probation then 1 else 0

/-- Reserve pairs formed (R341, R348). -/
def State.pairsFormed (s : State) : Nat := (s.pairs.filter s.pairFormed).length

/-- `SAFE_STATE.STATE`: 2 fenced; 1 degraded, when a unit is removed or a reserve pair was dropped; 0 otherwise. -/
def State.safeState (s : State) : Nat :=
  if s.fenced then 2
  else if unitCodes.any (fun u => s.removed u ≠ 0) || (s.boot.locked && s.pairs.length < fld (s.rd pgCtx 0x200) 4 0) then 1
  else 0

/-- The code of a supply state (R374). -/
def Supply.code : Supply → Nat | .ok => 0 | .warn => 1 | .resume => 2

/-- The state sensors of the management endpoint that differ from what they were in `old` send their events: 0 the hive
(SAFE_STATE), 1 the supply, 0x100 + unit a unit (R444; log entry 28). A PROBATION entry
follows R344 instead. -/
def State.notify (s old : State) : State :=
  let send (t : State) (sensor a b : Nat) : State := if a = b then t else t.pldm sensor b
  let s1 := send s 0 old.safeState s.safeState
  let s2 := send s1 1 old.power.supply.code s.power.supply.code
  unitCodes.foldl (fun (t : State) u => if s.unitState u = 1 then t else send t (0x100 + u) (old.unitState u) (s.unitState u)) s2

end Sys2Proof.Machine
end

