-- ==== Sys2Proof/Machine/Remote.lean ====
section
/-! DEFINITION. Global addresses (R288, R289), the guard that serves a request (R294, R295), the atomic operations (R196),
and the requests that a command issues to other hives (R290, R291, R296). -/

namespace Sys2Proof.Machine
open Host

/-! ### Global addresses -/

/-- The requests that a run of bytes splits into: it is cut at 256-byte boundaries (R290). -/
def mfmCuts (addr n : Nat) : List (Nat × Nat) := cutAt 256 addr n

/-- A load is widened to whole aligned words (R290). -/
def mfmLoads (addr n : Nat) : List (Nat × Nat) := mfmCuts (addr / 4 * 4) (cdiv (addr + n) 4 * 4 - addr / 4 * 4)

/-! ### Atomic operations (R196) -/

/-- A signed or unsigned number of `n` bytes. -/
def numOf (sgn : Bool) (n v : Nat) : Int := if sgn then sext (8 * n) v else (v % 2 ^ (8 * n) : Nat)

/-- The new value of an element of `n` bytes: AOP, whether comparisons are signed, old value, operands *a* (or *e*, *n*). -/
def atomNew (aop n : Nat) (sgn : Bool) (t a b : Nat) : Nat :=
  match aop with
  | 1 => (t + a) % 2 ^ (8 * n)
  | 2 => if numOf sgn n a < numOf sgn n t then a else t
  | 3 => if numOf sgn n t < numOf sgn n a then a else t
  | 4 => a
  | 5 => if t = a then b else t
  | 6 =>
    let f := if n = 2 then 2 else 1
    let v := addV (elemVal f t 127) (elemVal f a 127)
    encElem f none (if v.isNaN then .nan qNaN else v)
  | _ => t

/-- One element changed in SPACE 1 or 3 as one operation (R197): its old value and the state after. -/
def State.atomAt (s : State) (w : Who) (space addr aop n : Nat) (sgn : Bool) (a b : Nat) : Except Err (Nat × State) := do
  let bs ← s.readBytes w space addr n
  let t := ofBytes bs
  let s ← s.writeBytes w space addr (toBytes n (atomNew aop n sgn t a b))
  return (t, s)

/-! ### Shadow banks and requests in flight -/

/-- Parts that share a byte with banks [b, b + n). -/
def inBanks (ps : List Part) (b n : Nat) : Bool := n ≠ 0 && partsMeet ps [⟨(b * 0x40000 : Nat), ((b + n) * 0x40000 : Nat)⟩]
/-- An operand in SPACE 2 that touches the shadow range of an open epoch of the context (R118). -/
def State.hitsShadow (s : State) (c space : Nat) (ps : List Part) : Bool :=
  space = 2 && (s.cx c).epochs.any fun e => inBanks ps e.shadow e.nbanks

/-- The requests of a command that keep it from completing: loads and atomics without a response, stores not yet sent
(R296, R297). -/
def State.awaits (s : State) (id : CmdId) : Bool := s.fab.reqs.any fun m => m.owner = some id && (m.op ≠ 2 || !m.sent)

/-! ### The guard (R294) -/

/-- What the guard answers: data, a refusal, poison with the error met, or nothing yet: the access waits for a unit that has not
ended its step (R382) or for the banks of a window (R461). -/
inductive Served where
  | ok (data : List Byte)
  | refused
  | poison (e : Err)
  | wait (e : Err)
deriving DecidableEq, Repr

/-- The valid entry of the fabric domain table that holds a DOMAIN: its context and its word 1 (R295). -/
def State.domEntry (s : State) (dom : Nat) : Option (Nat × W32) :=
  (s.fab.dom.find? fun p => bit p.2.1 31 && fld p.2.1 15 0 = dom).map fun p => (fld p.2.1 27 16, p.2.2)

/-- A request as the guard sees it. -/
structure Req where
  addr : Nat
  op   : Nat
  aop  : Nat
  aw   : Bool
  size : Nat
  data : List Byte
deriving DecidableEq, Repr

/-- The size and alignment rules of R290. The OFFSET of region 3 is a counter's number and no byte address (R289): every counter is
aligned (log entry 53). -/
def Req.shape (q : Req) : Bool :=
  let ctr := gRegion q.addr = 3
  if q.op = 3 then
    1 ≤ q.aop && q.aop ≤ 6 && (ctr || q.addr % q.size = 0) &&
      (if q.aop = 6 then !q.aw && (q.size = 2 || q.size = 4) else if q.aw then q.size = 8 else q.size = 4)
  else (q.op = 1 || q.op = 2) && 4 ≤ q.size && q.size ≤ 256 && q.size % 4 = 0 && (ctr || (q.addr % 4 = 0 && q.addr % 256 + q.size ≤ 256))

/-- An access's outcome as the guard reports it: translation and guard failures are refused (R294), memory errors are
`POISON` (R202, R292). -/
def servedOf (s : State) (x : Except Err (List Byte × State)) : Served × State :=
  match x with
  | .ok (d, t) => (.ok d, t)
  | .error e => (if e.1 = St.ecc then .poison e else if e.1 = St.notYet then .wait e else .refused, s)

/-- A load, store or atomic of one region of SPACE `space` at `addr`. -/
def State.serveAt (s : State) (w : Who) (space addr : Nat) (q : Req) (sgn : Bool) : Served × State :=
  servedOf s (match q.op with
    | 1 => do let bs ← s.readBytes w space addr q.size; return (bs, s)
    | 2 => do let t ← s.writeBytes w space addr q.data; return ([], t)
    | _ => do
      let a := ofBytes (q.data.take q.size)
      let b := ofBytes ((q.data.drop q.size).take q.size)
      let (old, t) ← s.atomAt w space addr q.aop q.size sgn a b
      return (toBytes q.size old, t))

/-- Region 1 (R191, R289): the page's owner has the DOMAIN of the request. -/
def State.directWindow (s : State) (dom off : Nat) (q : Req) (sgn : Bool) : Served × State :=
  match Tab.get none s.mem.directOwner (off / 2 ^ 26 * 384 + off % 2 ^ 26 / 65536) with
  | none => (.refused, s)
  | some o => if (s.cx o).domain = dom then s.serveAt ⟨o, 0, none, none⟩ 3 off q sgn else (.refused, s)

/-- Region 2: the cell scratchpad windows (R289, R294). Banks of the context that were never filled are awaited (R461). -/
def State.spadWindow (s : State) (c off : Nat) (q : Req) : Served × State :=
  let r := s.cx c
  let cell := off / 2 ^ 24 % 128
  let o := off % 2 ^ 24
  if off / 2 ^ 31 ≠ 0 || !r.pin || r.isS || !r.inMask cell || q.op = 3 ||
      s.hitsShadow c 2 [⟨(o : Nat), (o + q.size : Nat)⟩] || (s.cell cell).phys.isNone || o + q.size > (r.banks - 5) * 0x40000 then (.refused, s)
  else if !s.resident c cell then (.wait (windowWait c cell), s)
  else s.serveAt ⟨c, cell, none, none⟩ 2 o q false

/-- Region 3: the event counters (R289, R294). -/
def State.ctrWindow (s : State) (c off : Nat) (q : Req) : Served × State :=
  let k := off % 2 ^ 16
  if off / 2 ^ 16 ≠ 0 || !(s.cx c).owns k || q.size ≠ 4 then (.refused, s)
  else if q.op = 1 then (.ok (toBytes 4 (s.ctr k).toNat), s)
  else if q.op = 3 && q.aop = 1 then (.ok (toBytes 4 (s.ctr k).toNat), s.addCtr k (BitVec.ofNat 32 (ofBytes (q.data.take 4))))
  else (.refused, s)

/-- A request of a DOMAIN from a colony, served by this hive's guard under an entry of its domain table (R289, R290, R294). `sgn` says
whether MIN and MAX compare signed numbers. -/
def State.guard (s : State) (colony dom : Nat) (ent : Option (Nat × W32)) (q : Req) (sgn : Bool) : Served × State :=
  match ent with
  | none => (.refused, s)
  | some (c, p) =>
    let off := gOff q.addr
    if !bit p (16 + colony) || (s.cx c).st ≠ .opened || !q.shape then (.refused, s)
    else match gRegion q.addr with
    | 0 => if bit p (q.op - 1) then s.serveAt ⟨c, 0, none, none⟩ 1 off q sgn else (.refused, s)
    | 1 => if bit p 3 then s.directWindow dom off q sgn else (.refused, s)
    | 2 => if bit p 4 then s.spadWindow c off q else (.refused, s)
    | 3 => if bit p 5 then s.ctrWindow c off q else (.refused, s)
    | _ => (.refused, s)

/-- A request to the local hive: it never leaves it (R289). A refusal and poison end the command as at a requester (R292). -/
def State.serveLocal (s : State) (c : Nat) (q : Req) (sgn : Bool) : Except Err (List Byte × State) :=
  match s.guard (colonyOf s.hive) (s.cx c).domain (s.domEntry (s.cx c).domain) q sgn with
  | (.ok d, t) => .ok (d, t)
  | (.refused, _) => .error s.guardErr
  | (.poison e, _) => .error e
  | (.wait e, _) => .error e

/-! ### Requests to other hives -/

/-- A request joins the hive's requests, not yet sent (R293); `key` says where its result belongs. The inbox writes of a ROUTE
travel in TC 3 (R268; log entry 72). -/
def State.issue (s : State) (r : Run) (q : Req) (key : Nat) : State :=
  s.modFab fun f => { f with
    nextTag := f.nextTag + 1
    reqs := f.reqs ++ [{ tag := f.nextTag, id := some r.id, ctx := r.id.ctx.val, inStep := r.inStep,
                         domain := BitVec.ofNat 16 (s.cx r.id.ctx.val).domain, dst := BitVec.ofNat 16 (gHive q.addr),
                         addr := BitVec.ofNat 64 q.addr, opid := 0, op := BitVec.ofNat 4 q.op, aop := BitVec.ofNat 4 q.aop, aw := q.aw,
                         size := q.size, data := q.data, bulk := opcodeOf r.words = 0x30, sent := false, first := 0, last := 0,
                         copies := 0, lost := 0, key := key, prior := false }] }

/-- An address of this hive. -/
def State.isLocal (s : State) (a : Nat) : Bool := gHive a = s.hive

/-- A request that a command makes: served here, or issued. The result is the data of one served here. -/
def State.request (s : State) (r : Run) (q : Req) (key : Nat) (sgn : Bool) : Except Err (Option (List Byte) × State) :=
  if s.isLocal q.addr then do
    let (d, t) ← s.serveLocal r.id.ctx.val q sgn
    return (some d, t)
  else .ok (none, s.issue r q key)

/-- The remote loads that reading [addr, addr + n) needs and that have not been made. -/
def State.loadsFor (s : State) (addr n : Nat) : List (Nat × Nat) := (mfmLoads addr n).filter fun p => !s.isLocal p.1

/-- The key of what a load returned: its row, address and size. -/
def loadKey (row : Nat) (p : Nat × Nat) : Nat := row * 2 ^ 80 + p.1 * 2 ^ 9 + p.2

/-- The loads of a list of rows, given as (row, address, bytes), issued in order (R290). -/
def State.issueLoads (s : State) (r : Run) (rows : List (Nat × Nat × Nat)) : State :=
  (rows.flatMap fun x => (s.loadsFor x.2.1 x.2.2).map fun p => (x.1, p)).foldl
    (fun s p => s.issue r ⟨p.2.1, 1, 0, false, p.2.2, []⟩ (loadKey p.1 p.2)) s

/-- Bytes of a row at a global address, once every remote load has answered. -/
def State.globalBytes (s : State) (r : Run) (row addr n : Nat) : Except Err (List Byte) := do
  let ps ← (mfmLoads addr n).mapM fun p =>
    if s.isLocal p.1 then do
      let (d, _) ← s.serveLocal r.id.ctx.val ⟨p.1, 1, 0, false, p.2, []⟩ false
      return d
    else return ((r.remote.find? fun x => x.1 = loadKey row p).map (·.2)).getD (List.replicate p.2 0xFF)
  return (ps.flatten.drop (addr % 4)).take n

/-- Bytes of a row in any SPACE. -/
def State.anyBytes (s : State) (r : Run) (row space addr n : Nat) : Except Err (List Byte) :=
  if space = 5 then s.globalBytes r row addr n else s.readBytes r.who space addr n

/-- Bytes written in any SPACE: elsewhere, stores are issued in order (R290, R296). -/
def State.anyWrite (s : State) (r : Run) (space addr : Nat) (bs : List Byte) : Except Err State :=
  if space = 5 then
    (mfmCuts addr bs.length).foldlM (fun s p => do
      let (_, s) ← s.request r ⟨p.1, 2, 0, false, p.2, (bs.drop (p.1 - addr)).take p.2⟩ 0 false
      return s) s
  else s.writeBytes r.who space addr bs

/-- The end of a command whose work is done but for its requests: it waits for them (R296). -/
def State.settle (s : State) (id : CmdId) : State :=
  match s.run? id with
  | none => s
  | some r => if s.awaits id then s else s.endRun id (r.err.getD (St.ok, 0)).1 (r.err.getD (St.ok, 0)).2

/-! ### The elements of an ATOMIC (R196, R197) -/

/-- Bytes of an ATOMIC's element, elements per row, and operands per element. -/
def atomSize (w : List W32) : Nat := if copyAw w then 8 else fmtBits (slot w 0).fmt / 8
def atomCount (w : List W32) : Nat := if copyAw w then (slot w 0).d0 / 2 else (slot w 0).d0
def atomArgs (w : List W32) : Nat := if copyAop w = 5 then 2 else 1

/-- The elements of row (r1, r2): index in stream order, target address, operands *a* and *n*. -/
def State.atomRow (s : State) (r : Run) (p : Nat × Nat) : Except Err (List (Nat × Nat × List Byte)) := do
  let w := r.words
  let d := slot w 0
  let a := slot w 1
  let nb := atomSize w
  let cnt := atomCount w
  let bs ← s.anyBytes r (p.2 * a.d1 + p.1) a.space (addr64 (a.row p.1 p.2)) (cnt * atomArgs w * nb)
  return (List.range cnt).map fun (i : Nat) =>
    ((p.2 * d.d1 + p.1) * cnt + i, addr64 (d.row p.1 p.2 + ((i * nb : Nat) : Int)), (bs.drop (i * atomArgs w * nb)).take (atomArgs w * nb))

/-- The elements in stream order. -/
def State.atomElems (s : State) (r : Run) : Except Err (List (Nat × Nat × List Byte)) := do
  let rows ← (rowsOf (slot r.words 0).d1 (slot r.words 0).d2).mapM (s.atomRow r)
  return rows.flatten

/-- One element: changed here, or a request (R197, R290). An element changed here leaves its old value under its index. -/
def State.atomOne (s : State) (r : Run) (e : Nat × Nat × List Byte) : Except Err State := do
  let w := r.words
  let d := slot w 0
  let nb := atomSize w
  let sgn := d.fmt = 9
  let keep (s : State) (bs : List Byte) : State := s.modRun r.id fun t => { t with remote := t.remote ++ [(e.1, bs)] }
  if d.space = 5 then
    let (x, s) ← s.request r ⟨e.2.1, 3, copyAop w, copyAw w, nb, e.2.2⟩ e.1 sgn
    return match x with | some bs => keep s bs | none => s
  else
    let (old, s) ← s.atomAt r.who d.space e.2.1 (copyAop w) nb sgn (ofBytes (e.2.2.take nb)) (ofBytes (e.2.2.drop nb))
    return keep s (toBytes nb old)

/-- Any subset of the elements of an ATOMIC that fails before they were issued (R199): a free choice for each that lies in this hive and
whose operands can be read. Elements of another hive are requests (R296). -/
def State.atomSome (s : State) (r : Run) : State :=
  let d := slot r.words 0
  if r.phase ≥ 2 || ((slot r.words 1).space = 5 && s.awaits r.id) then s
  else (rowsOf d.d1 d.d2).foldl (fun s p => match s.atomRow r p with
    | .error _ => s
    | .ok es => es.foldl (fun s e =>
      if Config.freeBool s.free e.1 && (d.space ≠ 5 || s.isLocal e.2.1) then match s.atomOne r e with | .ok t => t | .error _ => s else s) s) s.draw

end Sys2Proof.Machine
end

