-- ==== Sys2Proof/Machine/Start.lean ====
section
/-! DEFINITION. The start of a command (R56, R31, R411, R417) with the checks made then (R118, R120, R122, R125, R215,
R329, R140, R311), and its completion (R61, R66 to R69, R327, R333). -/

namespace Sys2Proof.Machine
open Host

/-! ### Checks at the start -/

/-- The slots that a command writes through. -/
def writeSlots (w : List W32) : List Nat :=
  match opcodeOf w with
  | 0x01 => [2]
  | 0x10 | 0x11 => [0]
  | 0x20 => if copyMode w = 0 then [0] else if copyMode w = 1 then [0, 2] else []
  | 0x30 | 0x31 => [2]
  | 0x32 | 0x40 => [1]
  | 0x33 => [1, 2]
  | 0x50 | 0x80 => [0]
  | _ => []

/-- Parts that lie in banks [b, b + n). -/
def withinBanks (ps : List Part) (b n : Nat) : Bool := ps.all fun p => ((b * 0x40000 : Nat) : Int) ≤ p.lo && p.hi ≤ (((b + n) * 0x40000 : Nat) : Int)

/-- A tagged write target outside the home range (R120). -/
def badTarget (e : Epoch) (space : Nat) (ps : List Part) : Bool := space ≠ 2 || !withinBanks ps e.home e.nbanks

/-- A slot of the extension block that R43 to R45, R155, R46 or R118 refuses. -/
def State.extSlotBad (s : State) (c : Nat) (w x : List W32) (n : Nat) : Bool :=
  let z := extSlot x n
  (z.bad x (extParts w x n) false false).isSome || z.space > 3 || ((s.cx c).isS && z.space = 2) ||
    (z.used && s.hitsShadow c z.space (extParts w x n))

/-- The shape and formats of slot 5 (R168). -/
def vsResultBad (w : List W32) (a z : Slot) : Bool :=
  let want := if vsAx w = 0 then (a.d1, a.d2, 1) else if vsAx w = 1 then (a.d2, 1, 1) else (1, 1, 1)
  (z.d0, z.d1, z.d2) ≠ want || !(if vsRed w = 3 then z.fmt = 10 else 1 ≤ z.fmt && z.fmt ≤ 3)

/-- The first failing check of the extension block and of what depends on it (R156 to R159, R168, R169, R120). -/
def State.extBad (s : State) (c : Nat) (w x : List W32) (ep : Option Epoch) : Option Nat :=
  let d := slot w 0
  let a := slot w 1
  let b := slot w 2
  let y := extSlot x 3
  let k := extSlot x 4
  let z := extSlot x 5
  let args := (funcArgs (vsFunc w)).getD (1, 1)
  let dp := if d.used then d.bytes 1 else []
  let sp (n : Nat) : Bool := s.extSlotBad c w x n
  let blk : Part := ⟨(vsExtVa w : Nat), (vsExtVa w + 128 : Nat)⟩
  let zp := extParts w x 5
  firstOf [[((x.drop 21).any (· ≠ 0), 31), (x ≠ [] && !y.used && !k.used && !z.used, 31),
    (x ≠ [] && s.hitsShadow c a.space [blk], 31),
    (sp 3 || sp 4 || sp 5, 31), (!y.used && vsStride w 2 ≠ 0, 30), (!k.used && vsStride w 3 ≠ 0, 30),
    ((args.2 = 2 && !y.used) || (args.2 = 0 && y.used), 31), ((vsRed w ≠ 0) ≠ z.used, 31),
    (y.used && (dimWord y a).isSome, 31), (k.used && (dimWord k a).isSome, 31), (k.used && k.fmt ≠ 12, 31),
    (y.used && isMx y.fmt && (vsStride w 2 ≠ 1 || a.d0 % 32 ≠ 0 || partsMeet (y.exact 1) y.scalesC), 31),
    (d.used && isMx d.fmt && k.used && !bit (wd w 29) 25, 10), (z.used && vsResultBad w a z, 31),
    (match ep with | some e => z.used && badTarget e z.space zp | none => false, 31),
    (y.used && overlap d y dp (extParts w x 3) && !coincide d y (vsStride w 2), 8),
    (k.used && overlap d k dp (extParts w x 4) && !coincide d k (vsStride w 3), 8)],
    (if !z.used then [] else
      [(overlap d z dp zp || overlap a z (a.bytes (vsStride w 0)) zp || overlap b z (b.bytes (vsStride w 1)) zp ||
        overlap y z (extParts w x 3) zp || overlap k z (extParts w x 4) zp || (z.space = a.space && partsMeet zp [blk]), 31)])]

/-- The counters that a command would signal. -/
def signalled (w : List W32) : List Nat :=
  (if sig0En w then [sig0Ctr w] else []) ++ (if sig1En w then [sig1Ctr w] else []) ++
  (if opcodeOf w = 0x51 && !bit (wd w 31) 0 then [fld (wd w 29) 15 0] else [])
/-- The counter with which an epoch would pass 1,024 distinct ones (R122). -/
def tooMany (known : List Nat) : List Nat → Option Nat
  | [] => none
  | k :: ks => if known.contains k then tooMany known ks else if known.length ≥ 1024 then some k else tooMany (k :: known) ks

/-- The counters that running tagged commands of the epoch will signal, with those signalled. -/
def State.epochCtrs (s : State) (c : Nat) (e : Epoch) : List Nat :=
  (e.adds.map (·.1) ++ ((s.runsOf c).filter fun r => r.slot = some e.slot).flatMap fun r => signalled r.words).eraseDups

/-- R118, R120, R122 and R125 for a descriptor of context `c`. -/
def State.specBad (s : State) (c : Nat) (w : List W32) : Option Err :=
  let shadow := (List.range 3).find? fun n => s.hitsShadow c (slot w n).space (slotTouch w n)
  let sh : Option Err := shadow.map fun n => badDesc ((slot w n).first + 2)
  if !specV w then sh
  else match s.epoch c (tagOf w) with
  | none =>
    if ((s.cx c).fates.find? fun f => f.1 = specTag w).any (·.2) then some (St.specDiscarded, (specTag w).setWidth 32)
    else some (badDesc 3)
  | some e =>
    if e.aborting then some (St.specDiscarded, (specTag w).setWidth 32) else
    let target := (writeSlots w).find? fun n => (slot w n).used && badTarget e (slot w n).space (slotTouch w n)
    if sh.isSome then sh
    else if opcodeOf w = 0x40 then some (badDesc 17)
    else if opcodeOf w = 0x51 && bit (wd w 31) 0 then some (badDesc 31)
    else match target with
    | some n => some (badDesc ((slot w n).first + 2))
    | none => (tooMany (s.epochCtrs c e) (signalled w)).map fun k => (St.badEvent, BitVec.ofNat 32 k)

/-- The stream that a KV_WRITE, SCOUT or GATHER_KV names is not `LIVE` or not the context's (R140, R215). -/
def State.badStream (s : State) (c : Nat) (w : List W32) : Bool :=
  !((s.stm (streamOf w)).live && (s.stm (streamOf w)).ctx = c)

/-- R215: KV_WRITE. Whether an open epoch of the context names the stream, and whether it is the command's. -/
def State.kvBad (s : State) (c : Nat) (w : List W32) : Option Err :=
  let naming := (s.cx c).epochs.filter fun e => e.streams.any fun x => x.stream = streamOf w
  if s.badStream c w then some (badDesc 29)
  else if kvOff w + kvLen w > (s.cx c).rslab * 64 then some (badDesc 30)
  else if specV w then (if naming.any fun e => e.tag = specTag w then none else some (badDesc 29))
  else if naming.isEmpty then none else some (badDesc 29)

/-- The mode of the current step, also where it has failed and is not closed (R127); 0 without a step (R330). -/
def CtxRec.stepMode (r : CtxRec) : Nat := if r.step.st = .none then 0 else r.step.mode.toNat
/-- A step is open in RECORD, REPLAY or RESUME mode (R329). -/
def CtxRec.journaling (r : CtxRec) : Bool := r.step.st = .opened && r.step.mode ≠ 0
/-- DIGITAL of a SCOUT: 1 in an S-class context whatever its value (R139). -/
def CtxRec.digital (r : CtxRec) (w : List W32) : Bool := r.isS || bit (wd w 29) 30

/-- R140, R329: SCOUT, as far as no memory is read. -/
def State.scoutBad (s : State) (c : Nat) (w : List W32) : Option Err :=
  if s.badStream c w || (s.cx c).recipe.isNone then some (badDesc 29)
  else if (s.cx c).det && !(s.cx c).digital w && !(s.cx c).journaling then some (badDesc 29)
  else none

/-- GATHER_KV: the stream (R152). -/
def State.gatherBad (s : State) (c : Nat) (w : List W32) : Option Err := if s.badStream c w then some (badDesc 29) else none

/-- The checks made when a command starts. -/
def State.startBad (s : State) (c : Nat) (w : List W32) : Option Err :=
  match s.specBad c w with
  | some e => some e
  | none =>
    match opcodeOf w with
    | 0x20 => if copyMode w = 2 then s.kvBad c w else none
    | 0x32 => s.scoutBad c w
    | 0x33 => s.gatherBad c w
    | _ => none

/-! ### Unspecified outputs -/

/-- The positions that a KV_WRITE was to write are unspecified, as far as the chain has links for them (R199). -/
def State.kvSpoil (s : State) (r : Run) : State :=
  let v := s.viewOf r (streamOf r.words)
  let n := kvLen r.words * 64
  (List.range (slot r.words 1).d1).foldl (fun s k =>
    let pos := s.kvSeq v + k
    match s.kvLink v (pos / 16) 0 with
    | .ok (some _) => match s.kvSetRecord v pos (kvOff r.words * 64) (s.freeBytes (k * n) n) with | .ok t => t | .error _ => s
    | _ => s) s.draw

/-- A region of an operand left unspecified in any SPACE: at global addresses what lies in this hive; what another hive holds of it is that
hive's (R199). -/
def State.spoilAny (s : State) (r : Run) (x : Slot) (ps : List Part) : State :=
  if x.space ≠ 5 then s.spoilParts r.who x ps
  else ps.foldl (fun (s : State) (p : Part) =>
    (if p.lo < p.hi ∧ 0 ≤ p.lo then mfmCuts p.lo.toNat (p.hi - p.lo).toNat else []).foldl (fun s q =>
      if !s.isLocal q.1 then s
      else match s.anyWrite r 5 q.1 (s.freeBytes q.1 q.2) with | .ok t => t | .error _ => s) s) s.draw

/-- The outputs that a running command leaves unspecified when it ends early (R98, R170, R199, R318). -/
def State.spoilOut (s : State) (r : Run) : State :=
  let w := r.words
  let sp (n : Nat) (s : State) := s.spoilAny r (slot w n) (if opcodeOf w = 0x01 then slotParts w n else slotTouch w n)
  match opcodeOf w with
  | 0x01 => sp 2 s
  | 0x10 => match r.vsResult with | some z => (sp 0 s).spoilParts r.who z (z.exact 1) | none => sp 0 s
  | 0x11 => sp 0 s
  | 0x20 => if copyMode w = 2 then s.kvSpoil r else if copyMode w = 1 then sp 2 (s.atomSome r) else sp 0 s
  | 0x31 => sp 2 s
  | 0x30 => sp 2 s
  | 0x32 | 0x33 | 0x40 => sp 1 s
  | _ => s

/-- A running command ends early with a status (R18, R29, R30): what it may have written is unspecified. -/
def State.cutRun (s : State) (id : CmdId) (st : Byte) (detail : W32) : State :=
  match s.run? id with
  | some r => if r.res.isSome then s else if st = St.notYet then s.noteWindow detail else (s.spoilOut r).endRun id st detail
  | none => s

/-! ### The start -/

/-- A running command as it begins. -/
def State.newRun (s : State) (c q : Nat) (f : Fetched) (res : Option Err) : Run :=
  { id := cmdId c q f, words := f.words, stream := f.stream, deadline := f.deadline, cell := none, partner := none, start := s.now,
    suspended := 0, suspEnded := false, begun := false, res := res,
    slot := if res.isSome then none else (s.epoch c (tagOf f.words)).map (·.slot),
    inStep := (s.cx c).step.st = .opened, mm := none, scout := none, coll := none, phase := 0, remote := [], err := none, fabSince := none, dig := none,
    wants := if !isCellOp (opcodeOf f.words) && ((List.range 3).any fun n => (slot f.words n).space = 2) then [cellOf f.words] else [],
    wantAt := none, met := false, ext := none, list := none, logged := false, seqPos := 0 }

/-- The head of the queue's fetched descriptors has started. -/
def State.popHead (s : State) (c q : Nat) (f : Fetched) : State :=
  s.modQu c q fun r => { r with fetched := r.fetched.drop 1, noRoom := none,
                                rel := r.rel.filter fun x => reached x.upTo (f.count + 2) }

/-- The cells of a picked command, the primary first (R326). -/
def State.claimed (s : State) (id : CmdId) : List Nat :=
  let cs := s.pickedOn id
  match s.pairs.find? fun p => cs.contains p.a && cs.contains p.b with
  | some p => [p.a, p.b]
  | none => cs

/-- The claimed cells are at their boundary, hold the context's state, and its banks are resident (R31). -/
def State.cellsReady (s : State) (c : Nat) (cs : List Nat) : Bool :=
  cs.length = (if (s.cx c).isS then 2 else 1) &&
    cs.all fun i => s.atBoundary i && (s.cell i).cur = some c && s.resident c i

/-- Shared banks that a command uses, as far as its descriptor names them (R412): the slices of the dies that hold its operands and its
chain, router agents for ROUTE and COMBINE, collective engines for COLLECTIVE, ports for operands and counters of other hives. What
the memory names besides, as the hives of an expert map, its row swaps. -/
def State.sharedBanks (s : State) (r : Run) : List Nat :=
  let w := r.words
  let op := opcodeOf w
  let sd (e : Nat) (l : List Nat) := l.map fun n => bankKey (pgSd n) e
  sd 0 (s.operandDies r ++ s.chainDies r).eraseDups ++ (if op = 0x30 || op = 0x31 then sd 1 (s.agentDies r) else []) ++
    (if op = 0x40 then sd 2 (s.agentDies r) else []) ++
    (s.operandPorts r ++ if op = 0x51 && bit (wd w 31) 0 then s.portsTo [0] (fld (wd w 29) 31 16) else []).eraseDups.map fun p => bankKey (pgPort p) 0

/-- Shared engines' banks swap for a command with CNT_EN that uses them; one that has swapped for it already does not (R412). -/
def State.swapShared (s : State) (r : Run) (keys : List Nat) : State :=
  if !cntEn r.words then s
  else keys.foldl (fun s k =>
    let b := (Tab.get {} s.cntBanks k).cur
    if b.counting && b.ctx = r.id.ctx.val && b.q = r.id.q.val && b.seq = seqOf r.words then s
    else s.swapBank k r.id.ctx.val r.id.q.val r.words) s
/-- The ports toward hives that a command turns out to use swap (R412). -/
def State.swapPorts (s : State) (r : Run) (keys hives : List Nat) : State :=
  s.swapShared r (((hives.filter fun h => h ≠ s.hive).flatMap (s.portsTo keys)).eraseDups.map fun p => bankKey (pgPort p) 0)

/-- The counter banks swap at the start of a command (R411, R412). -/
def State.swapAll (s : State) (r : Run) (cs : List Nat) : State :=
  let s := cs.foldl (fun s i => s.swapCell i r.id.ctx.val r.id.q.val r.words) s
  s.swapShared r (s.sharedBanks r)

/-- A SCOUT as it starts: whether the margin-miss check takes it (R154); the count tested is the one before this SCOUT is counted, the
model's choice (log entry 95). -/
def State.newScout (s : State) (r : Run) : ScoutRun :=
  let n := fld (wd r.words 31) 31 28
  let c := s.cx r.id.ctx.val
  { checked := n ≠ 0 && c.stepMode ≠ 2 && c.scouts % 2 ^ (n - 1) = 0,
    unit := none, die := none, restarted := false, paused := false, since := s.now }

/-- A command starts: it joins the running commands; a cell command takes its cells, with their first step of power (R244); one whose data
needs DP16 while that is down has ended with `CMD_ECC` (R238); a SCOUT or GATHER_KV sees SEQ_POS in its
view as it stands now (R141, R153); a COLLECTIVE takes its group entry and operation number (R312); a VSTREAM with the extension block that was read (R157). -/
def State.launch (s : State) (c q : Nat) (f : Fetched) (cs : List Nat) (ext : Option (List W32)) : State :=
  let r := { s.newRun c q f none with ext := ext }
  let r := if s.hubCut && needsHub f.words then { r with res := some (St.ecc, 0x410) } else r
  let r := { r with cell := cs.head?, partner := cs[1]?, begun := !cs.isEmpty }
  let r := if opcodeOf f.words = 0x32 then { r with scout := some (s.newScout r) } else r
  let r := if opcodeOf f.words = 0x32 || opcodeOf f.words = 0x33 then { r with seqPos := s.kvSeq (s.viewOf r (streamOf r.words)) } else r
  let r := if opcodeOf f.words = 0x40 then { r with coll := some (s.newColl f.words) } else r
  let s := s.popHead c q f
  let s := if opcodeOf f.words = 0x40 then s.takeOpseq f.words else s
  let s := if opcodeOf f.words = 0x32 then s.modCx c fun x => { x with scouts := x.scouts + 1 } else s
  let s := cs.foldl (fun s i => (s.letOn i (opcodeOf f.words) 1).modCell i fun x => { x with run := some r.id, picked := none }) s
  let s := { s with runs := s.runs ++ [r] }
  (s.swapAll r cs).noteWaits.traceRec 1 c q f.words 0 r.cellNo

/-- A refused descriptor joins the running commands with its status, and leaves any cell that was picked (R41). -/
def State.refuse (s : State) (c q : Nat) (f : Fetched) (e : Err) : State :=
  let s := (s.unpick fun id => id = cmdId c q f).popHead c q f
  { s with runs := s.runs ++ [s.newRun c q f (some e)] }

/-- R313: a COLLECTIVE starts only when no cell command of its context runs, and at most 8 run in the hive. -/
def State.collMayStart (s : State) (c : Nat) : Bool :=
  !((s.runsOf c).any fun r => isCellOp (opcodeOf r.words) && !r.refused) && (s.runs.filter fun r => opcodeOf r.words = 0x40 && !r.refused).length < 8

/-- The slew governor holds back a command for some of its cells, admitted in order (R244). -/
def State.slewWaits (s : State) (op : Nat) : List Nat → Bool
  | [] => false
  | i :: rest => s.slewHolds i op || (s.letOn i op 1).slewWaits op rest

/-- Cells whose picked command waits for the slew governor (R244). -/
def State.gate (s : State) (cs : List Nat) : State := cs.foldl (fun s i => s.modCell i fun r => { r with gated := true }) s

/-- A cell command whose checks have passed starts. The extension block of a VSTREAM is read now, once, and checked (R157): one whose
memory is not served yet delays the start; any other failed access ends the command as it starts. -/
def State.startCell (s : State) (c q : Nat) (f : Fetched) (cs : List Nat) : State :=
  if opcodeOf f.words ≠ 0x10 then s.launch c q f cs none
  else match s.vsExt ⟨c, cs.headD 0, tagOf f.words, cs.head?⟩ f.words with
  | .error e => if e.1 = St.notYet then s.noteWindow e.2 else (s.launch c q f cs none).cutRun (cmdId c q f) e.1 e.2
  | .ok x => match s.extBad c f.words x (s.epoch c (tagOf f.words)) with
    | some i => s.refuse c q f (badDesc i)
    | none => s.launch c q f cs (some x)

/-- COMMAND_START (R56); a cell command also waits for the slew governor (R244). -/
def State.startHead (s : State) (c q : Nat) : State :=
  match s.readyHead c q with
  | none => s
  | some f =>
    match f.bad with
    | some e => s.refuse c q f e
    | none =>
      if isCellOp (opcodeOf f.words) then
        let cs := s.claimed (cmdId c q f)
        if s.collHolds c || !s.cellsReady c cs then s
        else match s.startBad c f.words with
        | some e => s.refuse c q f e
        | none =>
          if s.slewWaits (opcodeOf f.words) cs then s.gate cs else s.startCell c q f cs
      else if opcodeOf f.words = 0x40 && !s.collMayStart c then s
      else match (s.startBad c f.words).or (if opcodeOf f.words = 0x40 then (s.collBad c f.words).map badDesc else none) with
      | some e => s.refuse c q f e
      | none => s.launch c q f [] none

/-! ### FFAB waits (R57, R301) -/

/-- A command that ends early: its requests not yet sent are dropped. Those sent stay, for the FFAB waits that cover them (R57);
what they answer finds no command any more (R297). -/
def State.forget (s : State) (id : CmdId) : State :=
  s.modFab fun b =>
    { b with reqs := b.reqs.filter fun m => m.sent || m.owner ≠ some id }

/-- The stores and atomics that the FFAB wait of a command covers: its own, with FPRE those of every earlier command of
its queue, and for a STEP_COMMIT those of the step (R334). -/
def State.covered (s : State) (r : Run) : List MfmReq :=
  s.fab.reqs.filter fun m => m.op ≠ 1 && match m.id with
    | none => false
    | some i => m.owner = some r.id || (i.ctx = r.id.ctx && ((actsPre r.words && i.q = r.id.q && (m.prior || sub32 r.id.seq i.seq < 2 ^ 31)) ||
        (opcodeOf r.words = 0x71 && m.inStep)))
/-- The destinations that still lack an acknowledgement, ascending. -/
def State.missing (s : State) (r : Run) : List Nat := sortBy ((s.covered r).map fun m => m.dst.toNat).eraseDups (· ≤ ·)

/-- A command's completion waits for acknowledgements: with FFAB (R57), or where a wait of its own runs (R332). A command that never
ran has nothing to wait for, and TEARDOWN ends the wait (R18). -/
def State.fabHeld (s : State) (r : Run) : Bool :=
  (ffab r.words || r.fabSince.isSome) && r.begun && (match r.res with | some (st, _) => st ≠ St.tornDown | none => false) && !(s.covered r).isEmpty

/-- The drain timer of a wait runs from now, unless it runs already. -/
def State.armFab (s : State) (id : CmdId) : State := s.modRun id fun r => { r with fabSince := some (r.fabSince.getD s.now) }

/-- What the engines of a command on some store dies do; nothing while they cannot run, and the end of an S-class command whose second die
is out of service (R238, R323, R328). -/
def State.onAgents (s : State) (r : Run) (dies : List Nat) (f : State → State) : State :=
  match s.agentStop r dies with
  | some e => s.cutRun r.id e.1 e.2
  | none => f s

/-! ### Completion -/

/-- A command that runs in twin mode in an S-class context (R326, R328). -/
def twinned (op : Nat) : Bool := isCellOp op || op = 0x30 || op = 0x31 || op = 0x32 || op = 0x33

/-- The bytes of a written operand, elements first, then its MX scales, for a MOVE in their direction (R193, R327). -/
def State.slotBytes (s : State) (w : Who) (x : Slot) (sd : Bool) : List Byte :=
  let n := fmtBytes x.fmt x.d0
  let rows := (rowsOf x.d1 x.d2).flatMap fun p => match s.readBytes w x.space (addr64 (x.row p.1 p.2)) n with | .ok b => b | .error _ => []
  let (per, n) := moveScaleDim x sd
  let sc := if isMx x.fmt then (List.range n).flatMap fun r =>
      match s.readScales w x per r 0 per with | .ok b => b.map fun v => BitVec.ofNat 8 v | .error _ => [] else []
  rows ++ sc

def isMoveOp (w : List W32) : Bool := opcodeOf w = 0x20 && copyMode w = 0
/-- The digest of what a command wrote, in ascending slot order, with reduction results last (R327): the one its engine
kept where it wrote only part of its operands, else that of their bytes. -/
def State.digest (s : State) (r : Run) : W64 :=
  r.dig.getD (crc64 0 (((writeSlots r.words).flatMap fun n => if (slot r.words n).used then s.slotBytes r.who (slot r.words n) (isMoveOp r.words && copySd r.words n) else []) ++
    match r.vsResult with | some z => s.slotBytes r.who z false | none => []))

/-- The digests of a twinned command differ (R327). -/
def State.twinDiffers (s : State) (r : Run) (secondary : Option W64) : Bool :=
  (s.cx r.id.ctx.val).isS && twinned (opcodeOf r.words) && r.begun &&
    match secondary with | some d => d ≠ s.digest r | none => false

/-- A cell leaves its reserve pair (R328, R341). -/
def State.leavePair (s : State) (cell : Nat) : State :=
  { s with pairs := s.pairs.map fun p => { p with lostA := p.lostA || p.a = cell, lostB := p.lostB || p.b = cell } }

/-- A twin mismatch: the output is unspecified, it is counted, and the cells leave the reserve and go under BIST (R327, R328, R347). -/
def State.twinMiss (s : State) (r : Run) : State :=
  let s := (s.spoilOut r).bump pgSafe 0x130 1
  match r.cell, r.partner with
  | some a, some b => (((s.leavePair a).leavePair b).modCell a fun r => { r with bist := true }).modCell b fun r => { r with bist := true }
  | _, _ => s

/-- KV_WRITE with ADVANCE at its completion: SEQ_POS advances and the sketches of the blocks completed are computed
(R214, R135); a failure is the command's status. -/
def State.kvFinish (s : State) (r : Run) : State × Option Err :=
  let w := r.words
  if opcodeOf w = 0x20 && copyMode w = 2 && bit (wd w 29) 24 && (s.stm (streamOf w)).live then
    let v := s.viewOf r (streamOf w)
    let n := (slot w 1).d1
    match s.kvSketches v (s.kvSeq v) n with
    | .ok t => (t.kvAdvance v n, none)
    | .error (e, b) => (if e.1 = St.notYet then s else (match b with | some k => s.ctxErr r.id.ctx.val k | none => s).kvSpoil r, some e)
  else (s, none)

/-- The completion of a command whose work has ended (R61, R66 to R69, R327). -/
def State.finish (s : State) (r : Run) (st : Byte) (detail : W32) (secondary : Option W64) (hostOk : Bool) : State :=
  let c := r.id.ctx.val
  let q := r.id.q.val
  let twin := st = St.ok && s.twinDiffers r secondary
  let s := if twin then s.twinMiss r else s
  let (st, detail) := if twin then (St.twin, 0) else (st, detail)
  let (s, e) := if st = St.ok then s.kvFinish r else (s, none)
  let (st, detail) := e.getD (st, detail)
  if st = St.notYet || s.recordWaits c q then s else
  let s := (if st = St.ok then s else s.forget r.id).removeRun r
  (s.report c q r.words (seqOf r.words) st detail r.cellNo hostOk fun s => s.headerSignals r).streamDone r

/-! ### Command limits (R29, R356, R362) -/

/-- The command limit of a running cell command, in µs (R29), under the entry in force on its cell (R18), lengthened by the more throttled of
its cells' combs (R362). -/
def State.limitOf (s : State) (r : Run) : Nat :=
  let c := s.cxAt r.id.ctx.val r.cellNo
  let us := if !c.isB then 250 else 100 * (if c.bLimit = 0 then fld (s.rd pgCtx 0x200) 23 8 else c.bLimit)
  (r.cell.toList ++ r.partner.toList).foldl (fun m i => max m (s.stretch i us)) us + r.suspended

/-- The watchdog ends a running cell command that passes its limit (R29): the time is brought to the limit. While SUPPLY
is not `PWR_OK`, the limit does not advance (R356). -/
def State.watchdog (s : State) (id : CmdId) : State :=
  match s.run? id with
  | none => s
  | some r =>
    if r.res.isSome || !isCellOp (opcodeOf r.words) || (s.power.supply ≠ .ok && !r.suspEnded) then s
    else
      let s := s.passTo (r.start + s.limitOf r)
      s.cutRun id St.timeout (BitVec.ofNat 32 (s.now - r.start))

/-! ### The commands -/

/-- COMMAND_START. -/
def execCommandStart (ctx : Fin 4096) (q : Fin 4) (s : State) : Host.Outcome State Fault Refusal := .next (s.startHead ctx.val q.val)
/-- WATCHDOG_TIMEOUT. -/
def execWatchdogTimeout (id : CmdId) (s : State) : Host.Outcome State Fault Refusal := .next (s.watchdog id)

end Sys2Proof.Machine
end

