-- ==== Sys2Proof/Machine/Matrix.lean ====
section
/-! DEFINITION. MATMUL (R70 to R95, R98): panels, the exact panel sum and its one rounding, structured sparsity,
zero-panel skipping, output conversion, and the order of tiles, banks and drains. -/

namespace Sys2Proof.Machine
open Host

/-! ### What an engine row acts on -/

/-- A row of an engine acts on a running command of the opcode whose work has not ended; else nothing happens (log entry 3). -/
def State.onRun (s : State) (id : CmdId) (p : List W32 → Bool) (f : Run → State) : State :=
  match s.run? id with
  | some r => if r.res.isNone && p r.words then f r else s
  | none => s

/-- The access of a hub or store-die command waits for banks: since when (R461). -/
def State.noteBanks (s : State) (id : CmdId) : State := s.modRun id fun r => { r with wantAt := some (r.wantAt.getD s.now) }

/-- A row of a hub or store-die command, which first waits for the banks that its SPACE 2 accesses need (R461). -/
def State.onHub (s : State) (id : CmdId) (p : List W32 → Bool) (f : Run → State) : State :=
  s.onRun id p fun r => if s.bankWait r then s.noteBanks id else f r

/-- A step of an engine, or the error that ends its command, with its outputs unspecified (R98). -/
def State.orFail (s : State) (r : Run) (x : Except Err State) : State :=
  match x with
  | .ok t => t
  | .error e => s.cutRun r.id e.1 e.2

/-! ### Shape -/

/-- The shape of a MATMUL: M, N, panels, and tiles along M and N. -/
structure MmShape where
  M  : Nat
  N  : Nat
  P  : Nat
  TM : Nat
  TN : Nat
deriving DecidableEq, Repr

/-- The shape that a descriptor gives (R71, R94). -/
def mmShape (w : List W32) : MmShape :=
  let a := slot w 0
  let b := slot w 1
  ⟨a.d0, b.d0, b.d1 / 32, cdiv a.d0 256, cdiv b.d0 256⟩

/-- Rows of tile row `t`, or columns of tile column `t`, of an extent of `n`. -/
def tileLen (n t : Nat) : Nat := min 256 (n - 256 * t)

/-! ### Operands of one panel -/

/-- `n` elements of row `r` from element `i` on (`i` a multiple of 256). -/
def State.readSpan (s : State) (w : Who) (x : Slot) (r i n : Nat) : Except Err (List Nat) := do
  let bs ← s.readBytes w x.space (addr64 (x.row r 0 + (fmtBytes x.fmt i : Nat))) (fmtBytes x.fmt n)
  return unpack x.fmt n bs

/-- The scales of `n` elements of D0 from `i` on for panel `p` of A or B (R78). -/
def State.panelScales (s : State) (w : Who) (x : Slot) (p i n : Nat) : Except Err (List Nat) :=
  if isMx x.fmt then s.readScales w x x.d0 p i n else .ok (List.replicate n 127)

/-- The positions in its group of 4 that row `g` of the index array gives for `n` columns from `i` on (R84). -/
def State.readIdx (s : State) (w : Who) (x : Slot) (g i n : Nat) : Except Err (List Nat) := do
  let b := idxBits x
  let bs ← s.readBytes w x.space (addr64 (metaBase x + ((g * idxRow x + i * b / 8 : Nat) : Int))) (cdiv (n * b) 8)
  return (List.range n).map fun j => (bs.getD (j * b / 8) 0).toNat / 2 ^ (j * b % 8) % 2 ^ b

/-- The stored values of A in a panel: for each stored row, its (position in the panel, value) at `n` columns from `i` on
(R71, R83 to R85). -/
def State.panelA (s : State) (w : Who) (x : Slot) (p i n : Nat) : Except Err (List (List (Nat × Val))) := do
  let sc ← s.panelScales w x p i n
  let val (es : List Nat) : List Val := es.zipIdx.map fun e => elemVal x.fmt e.1 (sc.getD e.2 127)
  if x.sparse = 0 then
    (List.range 32).mapM fun k => do
      let es ← s.readSpan w x (32 * p + k) i n
      return (val es).map fun v => (k, v)
  else
    let per := if x.sparse = 1 then 2 else 1
    let rows ← (List.range 8).mapM fun g => do
      let ix ← s.readIdx w x (8 * p + g) i n
      (List.range per).mapM fun h => do
        let es ← s.readSpan w x ((8 * p + g) * per + h) i n
        return (ix.zip (val es)).map fun q => (4 * g + q.1 / 4 ^ h % 4, q.2)
    return rows.flatten

/-- The 32 rows of B in a panel, at `n` columns from `i` on. -/
def State.panelB (s : State) (w : Who) (x : Slot) (p i n : Nat) : Except Err (List (List Val)) := do
  let sc ← s.panelScales w x p i n
  (List.range 32).mapM fun k => do
    let es ← s.readSpan w x (32 * p + k) i n
    return es.zipIdx.map fun e => elemVal x.fmt e.1 (sc.getD e.2 127)

/-! ### Arithmetic (R79 to R81) -/

/-- The zero-factor rule (R80). -/
def prodV (a b : Val) : Val := if a.isZero || b.isZero then vZero else mulV a b

/-- The exact sum of products, which is NaN by R81 only through a NaN product or infinities of both signs. -/
def panelSum (as : List (Nat × Val)) (b : Nat → Val) : Val := as.foldl (fun t q => addV t (prodV q.2 (b q.1))) vZero

/-- A NaN made canonical (R81). -/
def canonF (w : W32) : W32 := if isNaNF w then qNaN else w

/-- A panel sum added to an accumulator: the one rounding of the panel. -/
def accAdd (acc : W32) (t : Val) : W32 := if t.isZero then acc else canonF (toF32 (addV (f32v acc) t))

/-- The accumulators of a tile of `n` columns, in row order, after one panel. -/
def panelAcc (acc : List W32) (n : Nat) (a : List (List (Nat × Val))) (b : List (List Val)) : List W32 :=
  acc.zipIdx.map fun x => accAdd x.1 (panelSum (a.map fun row => row.getD (x.2 / n) (0, vZero))
    fun k => (b.getD k []).getD (x.2 % n) vZero)

/-! ### Skipping (R86, R87) -/

/-- Panel `p` of tile `t` of an operand's D0 is flagged. -/
def State.flagged (s : State) (w : Who) (x : Slot) (P p t : Nat) : Except Err Bool := do
  if !x.panel then return false
  let bs ← s.readBytes w x.space (addr64 (bitmapBase x + ((t * bitmapRow P + p / 8 : Nat) : Int))) 1
  return (bs.getD 0 0).getLsbD (p % 8)

/-- The first panel from `p` on that tile (tm, tn) does not skip; P where none is left. -/
def State.nextPanel (s : State) (w : Who) (a b : Slot) (P tm tn : Nat) : Nat → Nat → Except Err Nat
  | 0, _ => .ok P
  | f + 1, p => do
    if p ≥ P then return P
    let x ← s.flagged w a P p tm
    let y ← s.flagged w b P p tn
    if x || y then s.nextPanel w a b P tm tn f (p + 1) else return p

/-! ### Tiles -/

/-- The first value of a tile's accumulators: zero, or the contents of C (R79, R92). -/
def State.tileInit (s : State) (r : Run) (tm tn : Nat) : Except Err (List W32) := do
  let c := slot r.words 2
  let m := tileLen c.d1 tm
  let n := tileLen c.d0 tn
  if !bit (wd r.words 29) 29 then return List.replicate (m * n) 0
  let rows ← (List.range m).mapM fun i => do
    let es ← s.readSpan r.who c (256 * tm + i) (256 * tn) n
    let sc ← if isMx c.fmt then s.readScales r.who c (c.d0 / 32) (256 * tm + i) (8 * tn) (n / 32) else .ok []
    return es.zipIdx.map fun e => canonF (elemF32 c.fmt e.1 (sc.getD (e.2 / 32) 127))
  return rows.flatten

/-- The bank that holds or awaits tile `i` (R94). -/
def MmProg.bank (g : MmProg) (i : Nat) : Option (Nat × List W32) := if i % 2 = 0 then g.bank0 else g.bank1
/-- The bank of tile `i` replaced. -/
def MmProg.setBank (g : MmProg) (i : Nat) (b : Option (Nat × List W32)) : MmProg :=
  if i % 2 = 0 then { g with bank0 := b } else { g with bank1 := b }

/-- Tiles are opened and closed as far as they go without a micro-operation: a tile opens where its bank is empty, flagged
panels are passed, and a tile without panels left is finished (R87, R94). -/
def State.mmSettle (s : State) (r : Run) : Nat → MmProg → Except Err MmProg
  | 0, g => .ok g
  | f + 1, g => do
    let h := mmShape r.words
    if g.tile ≥ h.TM * h.TN then return g
    let tm := g.tile / h.TN
    let tn := g.tile % h.TN
    let g ← match g.bank g.tile with
      | none => do
        let acc ← s.tileInit r tm tn
        pure (g.setBank g.tile (some (g.tile, acc)))
      | some _ => pure g
    if !((g.bank g.tile).any fun b => b.1 = g.tile) then return g
    let p ← s.nextPanel r.who (slot r.words 0) (slot r.words 1) h.P tm tn (h.P + 1) g.panel
    if p < h.P then return { g with panel := p }
    s.mmSettle r f { g with tile := g.tile + 1, panel := 0 }

/-- The tile being filled has a panel to issue. -/
def MmProg.canIssue (g : MmProg) (h : MmShape) : Bool := g.tile < h.TM * h.TN && (g.bank g.tile).any fun b => b.1 = g.tile

/-- One micro-operation: the next panel of the tile being filled (R93). -/
def State.mmPanel (s : State) (r : Run) (g : MmProg) : Except Err MmProg := do
  let h := mmShape r.words
  let tm := g.tile / h.TN
  let tn := g.tile % h.TN
  match g.bank g.tile with
  | none => return g
  | some (t, acc) =>
    let a ← s.panelA r.who (slot r.words 0) g.panel (256 * tm) (tileLen h.M tm)
    let b ← s.panelB r.who (slot r.words 1) g.panel (256 * tn) (tileLen h.N tn)
    s.mmSettle r 3 { g.setBank g.tile (some (t, panelAcc acc (tileLen h.N tn) a b)) with panel := g.panel + 1 }

/-- The random bits of element (m, n) of a command's output under RND = stochastic (R90, R91). -/
def State.mmBits (s : State) (r : Run) (m n : Nat) : Option W32 :=
  if fld (wd r.words 29) 31 30 = 1 then some (srBits (s.cx r.id.ctx.val).seed (vsSalt r.words) m n) else none

/-- One row of a tile converted to the format of C and written (R88, R89). -/
def State.tileRow (s : State) (r : Run) (m n0 : Nat) (vs : List W32) : Except Err State := do
  let c := slot r.words 2
  let at_ := addr64 (c.row m 0 + (fmtBytes c.fmt n0 : Nat))
  let es := vs.zipIdx.map fun v => (v.1, s.mmBits r m (n0 + v.2))
  if isMx c.fmt then
    let bl := (blocks 32 (es.length + 1) es).map (mxBlock c.fmt)
    let s ← s.writeBytes r.who c.space at_ (pack c.fmt (bl.map (·.2)).flatten)
    s.writeBytes r.who c.space (addr64 (c.scaleBase + ((m * pad64 (c.d0 / 32) + n0 / 32 : Nat) : Int)))
      (bl.map fun b => BitVec.ofNat 8 b.1)
  else s.writeBytes r.who c.space at_ (pack c.fmt (es.map fun e => encElem c.fmt e.2 (f32v e.1)))

/-- The rows of a tile written one after another. -/
def State.tileRows (s : State) (r : Run) (n0 n : Nat) : Nat → List W32 → Nat → Except Err State
  | 0, _, _ => .ok s
  | k + 1, acc, m => do
    let s ← s.tileRow r m n0 (acc.take n)
    s.tileRows r n0 n k (acc.drop n) (m + 1)

/-- The drain of the oldest finished tile (R95). -/
def State.mmDrain (s : State) (r : Run) (g : MmProg) : Except Err (State × MmProg) := do
  let h := mmShape r.words
  match g.bank g.drained with
  | none => return (s, g)
  | some (i, acc) =>
    let tm := i / h.TN
    let tn := i % h.TN
    let s ← s.tileRows r (256 * tn) (tileLen h.N tn) (tileLen h.M tm) acc (256 * tm)
    let g ← s.mmSettle r 3 { g.setBank g.drained none with drained := g.drained + 1 }
    return (s, g)

/-- Where the array of a running MATMUL stands; a command that has issued nothing stands at its first panel. -/
def State.mmProg (s : State) (r : Run) : Except Err MmProg :=
  match r.mm with
  | some g => .ok g
  | none => s.mmSettle r 3 {}

/-- The accumulators of the cell that runs the command (R33, R70). -/
def State.setAcc (s : State) (r : Run) (g : MmProg) : State :=
  let put (s : State) (c : Option Nat) : State := match c with
    | some c => s.modCell c fun x => { x with acc :=
        ⟨(g.bank0.map (·.2)).getD x.acc.acc0, (g.bank1.map (·.2)).getD x.acc.acc1⟩ }
    | none => s
  put (put s r.cell) r.partner

/-- The progress of a MATMUL recorded; with its last tile drained its work has ended. -/
def State.mmPut (s : State) (r : Run) (g : MmProg) : State :=
  let h := mmShape r.words
  let s := (s.setAcc r g).modRun r.id fun x => { x with mm := some g }
  if g.drained ≥ h.TM * h.TN then s.endRun r.id St.ok 0 else s

/-- MATMUL_MICRO_OP. -/
def State.microOp (s : State) (r : Run) : Except Err State := do
  let g ← s.mmProg r
  if !g.canIssue (mmShape r.words) then return s.mmPut r g
  let g ← s.mmPanel r g
  return s.mmPut r g

/-- TILE_DRAIN. -/
def State.tileDrain (s : State) (r : Run) : Except Err State := do
  let g ← s.mmProg r
  if g.drained ≥ g.tile then return s.mmPut r g
  let (s, g) ← s.mmDrain r g
  return s.mmPut r g

/-- What is left of a MATMUL: a finished tile drains before the next micro-operation issues. -/
def State.mmAll (s : State) (r : Run) : Nat → MmProg → Except Err (State × MmProg)
  | 0, g => .ok (s, g)
  | f + 1, g => do
    let h := mmShape r.words
    if g.drained ≥ h.TM * h.TN then return (s, g)
    else if g.drained < g.tile then
      let (s, g) ← s.mmDrain r g
      s.mmAll r f g
    else if g.canIssue h then
      let g ← s.mmPanel r g
      s.mmAll r f g
    else return (s, g)

/-- MATMUL. -/
def State.matmul (s : State) (r : Run) : Except Err State := do
  let h := mmShape r.words
  let g ← s.mmProg r
  let (s, g) ← s.mmAll r (h.TM * h.TN * (h.P + 2) + 1) g
  return s.mmPut r g

def isMatmul (w : List W32) : Bool := opcodeOf w = 0x01

/-- MATMUL. -/
def execMatmul (id : CmdId) (s : State) : Host.Outcome State Fault Refusal :=
  .next (s.onRun id isMatmul fun r => s.orFail r (s.matmul r))
/-- MATMUL_MICRO_OP. -/
def execMatmulMicroOp (id : CmdId) (s : State) : Host.Outcome State Fault Refusal :=
  .next (s.onRun id isMatmul fun r => s.orFail r (s.microOp r))
/-- TILE_DRAIN. -/
def execTileDrain (id : CmdId) (s : State) : Host.Outcome State Fault Refusal :=
  .next (s.onRun id isMatmul fun r => s.orFail r (s.tileDrain r))

end Sys2Proof.Machine
end

