-- ==== Sys2Proof/Machine/Vector.lean ====
section
/-! DEFINITION. VSTREAM and VCHAIN (R155 to R174): the extension block and its checks, the element functions, masks, the
reduction unit, conversion to dst, and stage chains. -/

namespace Sys2Proof.Machine
open Host

/-! ### Functions of elements (R161 to R165) -/

/-- 1.0 and −0, the values of an unused B and C. -/
def vOne : Val := .fin false 1 0
def vNegZero : Val := .fin true 0 0

/-- The result of a function with the first NaN among the operands that it takes, if it is a NaN (R163). -/
def nanRule (ops : List Val) (v : Val) : Val := if v.isNaN then .nan ((firstNaN ops).getD qNaN) else v

/-- A comparison's outcome: below, equal, above, or none where unordered. -/
def cmpV (a b : Val) : Option Ordering :=
  if a.isNaN || b.isNaN then none else if ltV a b then some .lt else if ltV b a then some .gt else some .eq

/-- ABS and NEG on the sign bit. -/
def Val.withSign (s : Bool) : Val → Val
  | .nan b => .nan ((b &&& 0x7FFFFFFF) ||| BitVec.ofNat 32 (b2n s * 2 ^ 31))
  | .inf _ => .inf s
  | .fin _ m e => .fin s m e

/-- The exact result of a basic function of FP32 values (R161 to R163). -/
def basicV (f : Nat) (a b c : Val) : Val :=
  let one (x : Bool) : Val := if x then vOne else vZero
  let ab := [a, b]
  match f with
  | 0x00 => a
  | 0x01 => nanRule ab (addV a b)
  | 0x02 => nanRule ab (addV a b.neg)
  | 0x03 => nanRule ab (mulV a b)
  | 0x04 => nanRule [a, b, c] (fmaV a b c)
  | 0x05 => if a.isNaN || b.isNaN then nanRule ab (.nan 0) else minV a b
  | 0x06 => if a.isNaN || b.isNaN then nanRule ab (.nan 0) else maxV a b
  | 0x07 => if a.isNaN && b.isNaN then nanRule ab a else if a.isNaN then b else if b.isNaN then a else minV a b
  | 0x08 => if a.isNaN && b.isNaN then nanRule ab a else if a.isNaN then b else if b.isNaN then a else maxV a b
  | 0x09 => one (cmpV a b = some .eq)
  | 0x0A => one (cmpV a b = some .lt)
  | 0x0B => one (cmpV a b = some .lt || cmpV a b = some .eq)
  | 0x0C => one (cmpV a b ≠ some .eq)
  | 0x0D => nanRule [a, b, c] (if c.isZero then b else a)
  | 0x0E => a.withSign false
  | 0x0F => a.withSign (!a.sign)
  | _ => a

/-- A transcendental function of FP32 bits. -/
def transF (f : Nat) (a : W32) : W32 :=
  match f with
  | 0x10 => exp2F a | 0x11 => log2F a | 0x12 => rcpF a | 0x13 => rsqrtF a
  | 0x14 => tanhF a | 0x15 => geluF a | _ => siluF a

/-- The result of FUNC before conversion: exact for the basic class, FP32 for the transcendental one. -/
def funcV (f : Nat) (a b c : Val) : Val :=
  if f ≥ 0x10 then f32v (transF f (toF32 (fmaV a b c))) else basicV f a b c

/-! ### Reading a stream -/

/-- One element as it enters: its raw bits and scale, and its value, an FP32 (R162). -/
structure Elem where
  raw   : Nat
  scale : Nat
  val   : Val
deriving DecidableEq, Repr

/-- Every element of an operand over the stream of `n` (R158, R160); `exact` leaves integers unrounded. -/
def State.readStream (s : State) (w : Who) (x : Slot) (e : Int) (exact : Bool) : Except Err (List Elem) := do
  let rs ← (rowsOf x.d1 x.d2).mapM fun p => s.readMxRow w x e x.d0 x.d1 p.1 p.2
  return rs.flatten.map fun v => ⟨v.1, v.2, if exact then elemVal x.fmt v.1 v.2 else f32v (elemF32 x.fmt v.1 v.2)⟩

/-! ### dst (R162, R166) -/

/-- The random bits of the elements of stream row `m` (R162). -/
def vsBits (rnd : Bool) (seed : W64) (salt m n : Nat) : Option W32 := if rnd then some (srBits seed salt m n) else none

/-- COPY, ABS and NEG between operands of one float format change no bits but the sign (R162). -/
def sameBits (f : Nat) (d a : Slot) : Bool := (f = 0 || f = 0x0E || f = 0x0F) && d.fmt = a.fmt && !isInt d.fmt
/-- Integers that keep every bit of their magnitude (R162): COPY between integer formats, and ABS and NEG within one, where the
sign is the number's (log entry 80). -/
def sameInt (f : Nat) (d a : Slot) : Bool :=
  isInt a.fmt && d.used && ((f = 0 && isInt d.fmt) || ((f = 0x0E || f = 0x0F) && d.fmt = a.fmt))
/-- The bits of an element of `fmt` after COPY, ABS or NEG within the format. -/
def signBits (f fmt raw : Nat) : Nat :=
  let top := 2 ^ (fmtBits fmt - 1)
  if f = 0x0E then raw % top else if f = 0x0F then (if raw ≥ top then raw - top else raw + top) else raw

/-- One row of dst: for each element its result, the source element, and whether it is active; `none` among the bits is
an element left unwritten. The scales follow for an MX dst. -/
def dstRow (f : Nat) (same zero : Bool) (fmt : Nat) (row : List (Val × Elem × Bool × Option W32)) : List (Option Nat) × List Nat :=
  if same then
    (row.map fun x => if x.2.2.1 then some (signBits f fmt x.2.1.raw) else if zero then some 0 else none,
     (blocks 32 (row.length + 1) row).map fun b => (b.head?.map fun x => x.2.1.scale).getD 127)
  else if isMx fmt then
    let bl := (blocks 32 (row.length + 1) row).map fun b => mxBlock fmt (b.map fun x => (if x.2.2.1 then toF32 x.1 else 0, x.2.2.2))
    ((bl.map (·.2)).flatten.map some, bl.map (·.1))
  else (row.map fun x => if x.2.2.1 then some (encElem fmt x.2.2.2 x.1) else if zero then some 0 else none, [])

/-! ### The reduction unit (R167, R168) -/

/-- A node of the reduction tree: an FP32, an indexed value or none, or an LSE pair. -/
inductive Node where
  | f (v : W32)
  | arg (x : Option (W32 × Nat))
  | lse (m s : W32)
deriving DecidableEq, Repr

/-- The identity of an operator. -/
def redId (red : Nat) : Node := match red with | 1 => .f 0x80000000 | 2 => .f 0xFF800000 | 3 => .arg none | _ => .lse 0xFF800000 0

/-- A leaf. -/
def redLeaf (red : Nat) (v : W32) (i : Nat) : Node := match red with | 3 => .arg (some (v, i)) | 4 => .lse v 0x3F800000 | _ => .f v

/-- IEEE maximum of FP32 bits: a NaN propagates, made quiet, the left one first. -/
def maxF (a b : W32) : W32 := if isNaNF a then quiet a else if isNaNF b then quiet b else toF32 (maxV (f32v a) (f32v b))

/-- R168's comb. -/
def comb (red : Nat) : Node → Node → Node
  | .f a, .f b => .f (if red = 1 then addF a b else maxF a b)
  | .arg none, y => y
  | x, .arg none => x
  | .arg (some a), .arg (some b) =>
    if isNaNF a.1 then .arg (some a) else if isNaNF b.1 then .arg (some b)
    else if ltV (f32v a.1) (f32v b.1) || (eqV (f32v a.1) (f32v b.1) && bit a.1 31 && !bit b.1 31) then .arg (some b) else .arg (some a)
  | .lse m1 s1, .lse m2 s2 =>
    let m := maxF m1 m2
    if isNaNF m || m = 0x7F800000 then .lse m 0x3F800000
    else if m = 0xFF800000 then .lse m 0
    else
      let t (mi si : W32) : W32 := mulF si (exp2F (mulF (subF mi m) 0x3FB8AA3B))
      .lse m (addF (t m1 s1) (t m2 s2))
  | x, _ => x

/-- One level of the pairwise tree. -/
def pairUp (red : Nat) : List Node → List Node
  | a :: b :: t => comb red a b :: pairUp red t
  | [a] => [comb red a (redId red)]
  | [] => []

/-- The pairwise tree; identities pad a group to a power of two (R167). -/
def treeOf (red : Nat) : Nat → List Node → Node
  | 0, l => l.headD (redId red)
  | f + 1, l => if l.length ≤ 1 then l.headD (redId red) else treeOf red f (pairUp red l)

/-- The group padded to the smallest power of two that holds it. -/
def padGroup (red : Nat) (l : List Node) : List Node :=
  let lp := if l.length ≤ 1 then l.length else 2 ^ (lg (l.length - 1) + 1)
  l ++ List.replicate (lp - l.length) (redId red)

/-- R168's fin, as bits of slot 5's format. -/
def finNode (fmt : Nat) : Node → Nat
  | .f v => encElem fmt none (f32v v)
  | .arg none => 0xFFFFFFFF
  | .arg (some a) => a.2
  | .lse m s => encElem fmt none (f32v (if (absF m).toNat ≥ 0x7F800000 then m else addF m (mulF (log2F s) 0x3F317218)))

/-- The results of the groups of a stream: an FP32 for each active element, none for a masked one. -/
def reduceAll (red fmt g : Nat) (vs : List (Option W32)) : List Nat :=
  (blocks g (vs.length + 1) vs).map fun grp =>
    let leaves := grp.zipIdx.map fun x => match x.1 with | some v => redLeaf red v x.2 | none => redId red
    finNode fmt (treeOf red 64 (padGroup red leaves))

/-! ### VSTREAM -/

/-- The numbers of the bytes of a row of 4-bit elements that hold a written one. -/
def nibbleBytes : List (Option Nat) → Nat → List Nat
  | a :: b :: t, i => (if a.isSome || b.isSome then [i] else []) ++ nibbleBytes t (i + 1)
  | _, _ => []

/-- The bytes that row (r1, r2) of dst had written, for the digest (R327). -/
def State.wroteRow (s : State) (w : Who) (d : Slot) (p : Nat × Nat) (bits : List (Option Nat)) : List Byte :=
  if bits.all Option.isSome then pack d.fmt (bits.map (·.getD 0))
  else if fmtBits d.fmt = 4 then (nibbleBytes bits 0).flatMap fun (i : Nat) =>
    match s.readBytes w d.space (addr64 (d.row p.1 p.2 + (i : Nat))) 1 with | .ok b => b | .error _ => []
  else pack d.fmt (bits.filterMap id)

/-- Rows of dst written, the elements of every row and then the scales. -/
def State.writeDst (s : State) (w : Who) (d : Slot) (rows : List ((Nat × Nat) × List (Option Nat) × List Nat)) : Except Err State := do
  let s ← rows.foldlM (fun s x => s.writeRow w d x.1.1 x.1.2 x.2.1) s
  if isMx d.fmt then rows.foldlM (fun s x => s.writeScales w d (d.d0 / 32) (x.1.2 * d.d1 + x.1.1) x.2.2) s else return s

/-- VSTREAM after its checks (R158 to R170). -/
def State.vstreamRun (s : State) (r : Run) (x : List W32) : Except Err State := do
  let w := r.words
  let d := slot w 0
  let a := slot w 1
  let b := slot w 2
  let y := extSlot x 3
  let k := extSlot x 4
  let z := extSlot x 5
  let f := vsFunc w
  let av ← s.readStream r.who a (vsStride w 0) (sameInt f d a)
  let bv ← if b.used then s.readStream r.who b (vsStride w 1) false else .ok []
  let yv ← if y.used then s.readStream r.who y (vsStride w 2) false else .ok []
  let kv ← if k.used then s.readStream r.who k (vsStride w 3) false else .ok []
  let bA := bv.toArray
  let yA := yv.toArray
  let kA := kv.toArray
  let seed := (s.cx r.id.ctx.val).seed
  let res := av.zipIdx.map fun e =>
    let v := funcV f e.1.val ((bA[e.2]?.map (·.val)).getD vOne) ((yA[e.2]?.map (·.val)).getD vNegZero)
    (v, e.1, (kA[e.2]?.map fun (m : Elem) => decide (m.raw ≠ 0)).getD true,
      vsBits (rndBit w) seed (vsSalt w) (e.2 / a.d0 % 2 ^ 16) (e.2 % a.d0))
  let zero := bit (wd w 29) 25
  let rows := ((rowsOf a.d1 a.d2).zip (blocks a.d0 (res.length + 1) res)).map fun p => (p.1, dstRow f (sameBits f d a) zero d.fmt p.2)
  let s ← if d.used then s.writeDst r.who d rows else .ok s
  let red := reduceAll (vsRed w) z.fmt (redGroup w a) (res.map fun e => if e.2.2.1 then some (toF32 e.1) else none)
  let out := if z.used then (rowsOf z.d1 z.d2).zip (blocks z.d0 (red.length + 1) red) else []
  let s ← out.foldlM (fun (s : State) p => s.writeRow r.who z p.1.1 p.1.2 (p.2.map some)) s
  let part := d.used && rows.any fun p => !p.2.1.all Option.isSome
  let bytes := (rows.flatMap fun p => s.wroteRow r.who d p.1 p.2.1) ++ (if z.used then s.slotBytes r.who z false else [])
  return (s.modRun r.id fun t => { t with dig := if part then some (crc64 0 bytes) else none }).endRun r.id St.ok 0

/-- VSTREAM: the stream runs with the extension block that its start read and checked (R157). -/
def State.vstream (s : State) (r : Run) : State := s.orFail r (s.vstreamRun r (r.ext.getD []))

/-! ### VCHAIN (R172 to R174) -/

/-- A stage: function, B and C selections, constant. -/
structure Stage where
  f : Nat
  b : Nat
  c : Nat
  k : W32
deriving DecidableEq, Repr

/-- Stage `i` of a chain program. -/
def stageOf (p : List W32) (i : Nat) : Stage :=
  ⟨fld (wd p (1 + i)) 31 26, fld (wd p (1 + i)) 25 24, fld (wd p (1 + i)) 23 22, wd p (7 + i)⟩

/-- A stage selects exactly the operands that its function takes. -/
def stageGood (t : Stage) : Bool :=
  match funcArgs t.f with
  | none => false
  | some (nb, nc) => t.b ≠ 3 && t.c ≠ 3 && !(nb = 2 && t.b = 0) && !(nb = 0 && t.b ≠ 0) && !(nc = 2 && t.c = 0) && !(nc = 0 && t.c ≠ 0)

/-- The stages of a chain program, or the word that DETAIL names (R172, R173). -/
def chainOf (p : List W32) (hasB : Bool) : Except Nat (List Stage) :=
  let n := fld (wd p 0) 2 0
  let ts := (List.range n).map (stageOf p)
  let selB := ts.any fun t => t.b = 1 || t.c = 1
  if (wd p 0).toNat / 8 ≠ 0 || n = 0 || n > 6 || ((List.range 3).any fun i => wd p (13 + i) ≠ 0) ||
      ((List.range 6).any fun i => if i < n then fld (wd p (1 + i)) 21 0 ≠ 0 else wd p (1 + i) ≠ 0) ||
      !ts.all stageGood || (selB && !hasB) then .error 30
  else if hasB && !selB then .error 24
  else .ok ts

/-- The FP32 bits of an element's value, a NaN's as they are. -/
def Val.bits : Val → W32
  | .nan b => b
  | v => toF32 v

/-- The data through the stages once. Each result is formed as for an FP32 dst (R162): the basic class rounds by RND with the
element's random bits `sr`, and COPY, ABS and NEG change no bits but the sign (log entry 79). -/
def chainF (ts : List Stage) (sr : Option W32) (a b : W32) : W32 :=
  ts.foldl (fun v t =>
    let pick (sel : Nat) (d : Val) : Val := if sel = 1 then f32v b else if sel = 2 then f32v t.k else d
    if t.f = 0 then v else if t.f = 0x0E then absF v else if t.f = 0x0F then negF v
    else
      let x := funcV t.f (f32v v) (pick t.b vOne) (pick t.c vNegZero)
      if sr.isSome then BitVec.ofNat 32 (encElem 1 sr x) else toF32 x) a

/-- VCHAIN after its program is checked (R174). -/
def State.vchainRun (s : State) (r : Run) (ts : List Stage) : Except Err State := do
  let w := r.words
  let d := slot w 0
  let a := slot w 1
  let b := slot w 2
  let av ← s.readStream r.who a 1 false
  let bv ← if b.used then s.readStream r.who b 1 false else .ok []
  let bA := bv.toArray
  let seed := (s.cx r.id.ctx.val).seed
  let res := av.zipIdx.map fun e =>
    let sr := vsBits (rndBit w) seed (vsSalt w) (e.2 / a.d0 % 2 ^ 16) (e.2 % a.d0)
    let v := chainF ts sr e.1.val.bits ((bA[e.2]?.map fun (x : Elem) => x.val.bits).getD 0)
    (some (if d.fmt = 1 then v.toNat else encElem d.fmt sr (f32v v)) : Option Nat)
  let s ← ((rowsOf a.d1 a.d2).zip (blocks a.d0 (res.length + 1) res)).foldlM
    (fun s p => s.writeRow r.who d p.1.1 p.1.2 p.2) s
  return s.endRun r.id St.ok 0

/-- VCHAIN: the program is read and checked, then the chain runs. -/
def State.vchain (s : State) (r : Run) : State :=
  match s.readBytes r.who 1 (chainVa r.words) 64 with
  | .error e => s.cutRun r.id e.1 e.2
  | .ok bs =>
    match chainOf (bytesToWords 16 bs) (slot r.words 2).used with
    | .error i => s.refuseRun r.id St.badDesc (BitVec.ofNat 32 i)
    | .ok ts => s.orFail r (s.vchainRun r ts)

def isVstream (w : List W32) : Bool := opcodeOf w = 0x10
def isVchain (w : List W32) : Bool := opcodeOf w = 0x11

/-- VSTREAM. -/
def execVstream (id : CmdId) (s : State) : Host.Outcome State Fault Refusal := .next (s.onRun id isVstream s.vstream)
/-- VCHAIN. -/
def execVchain (id : CmdId) (s : State) : Host.Outcome State Fault Refusal := .next (s.onRun id isVchain s.vchain)

end Sys2Proof.Machine
end

