-- ==== Sys2Proof/Machine/Copy.lean ====
section
/-! DEFINITION. COPY (R192 to R200): MOVE with its conversions, ATOMIC, and KV_WRITE (R214 to R217). A command with
operands in SPACE 5 goes through phases: its loads first, then its stores or atomics (R290, R296). -/

namespace Sys2Proof.Machine
open Host

/-! ### Rows in any SPACE -/

/-- The raw elements of a contiguous row of `n`. -/
def State.anyRow (s : State) (r : Run) (x : Slot) (n r1 r2 : Nat) : Except Err (List Nat) := do
  let bs ← s.anyBytes r (r2 * x.d1 + r1) x.space (addr64 (x.row r1 r2)) (fmtBytes x.fmt n)
  return unpack x.fmt n bs

/-- The address of row `k` of a scale array with rows of `per` scales (R78). -/
def Slot.scaleRow (x : Slot) (per k : Nat) : Nat := addr64 (x.scaleBase + ((k * pad64 per : Nat) : Int))

/-- The rows of a MOVE operand's scale array: none without MX (R193). -/
def scaleRows (x : Slot) (sd : Bool) : Nat := if isMx x.fmt then (moveScaleDim x sd).2 else 0

/-- The number under which row `k` of an operand's scale array is loaded: after the rows of its elements. -/
def Slot.scaleNo (x : Slot) (k : Nat) : Nat := x.d1 * x.d2 + k

/-- The rows that a contiguous operand reads, with those of its scales: number, address, bytes. -/
def readRuns (x : Slot) (sd : Bool) (n : Nat) : List (Nat × Nat × Nat) :=
  (rowsOf x.d1 x.d2).map (fun p => (p.2 * x.d1 + p.1, addr64 (x.row p.1 p.2), n)) ++
  (List.range (scaleRows x sd)).map fun k => (x.scaleNo k, x.scaleRow (moveScaleDim x sd).1 k, (moveScaleDim x sd).1)

/-- The state once the remote loads of the source have been issued; `none` while they are awaited. -/
def State.withLoads (s : State) (r : Run) (x : Slot) (sd : Bool) (go : State → Run → State) : State :=
  if r.phase ≥ 2 then s.settle r.id
  else if r.phase = 1 then (if s.awaits r.id then s else go s r)
  else
    let s := if x.space = 5 then s.issueLoads r (readRuns x sd (fmtBytes x.fmt x.d0)) else s
    if s.awaits r.id then s.modRun r.id fun t => { t with phase := 1 } else go s r

/-! ### MOVE (R194) -/

/-- The index of the scale of element (i, r1, r2): its row and its place in the row (R193). -/
def scaleAt (x : Slot) (sd : Bool) (i r1 r2 : Nat) : Nat × Nat :=
  if sd then (r2 * (x.d1 / 32) + r1 / 32, i) else (r2 * x.d1 + r1, i / 32)

/-- Equal formats and directions without TRANS copy bits (R194). -/
def moveBits (w : List W32) : Bool :=
  (slot w 0).fmt = (slot w 1).fmt && (!isMx (slot w 0).fmt || copySd w 0 = copySd w 1) && !copyTrans w

/-- Bits copied: rows, then scale rows. -/
def State.moveCopy (s : State) (r : Run) (d a : Slot) (sd : Bool) : Except Err State := do
  let s ← (rowsOf d.d1 d.d2).foldlM (fun (s : State) p => do
    let bs ← s.anyBytes r (p.2 * a.d1 + p.1) a.space (addr64 (a.row p.1 p.2)) (fmtBytes d.fmt d.d0)
    s.anyWrite r d.space (addr64 (d.row p.1 p.2)) bs) s
  (List.range (scaleRows d sd)).foldlM (fun (s : State) k => do
    let per := (moveScaleDim d sd).1
    let bs ← s.anyBytes r (a.scaleNo k) a.space (a.scaleRow per k) per
    s.anyWrite r d.space (d.scaleRow per k) bs) s

/-- One converted plane written: `v i r1` is the value of dst element (i, r1) of plane r2; blocks lie along D0 or along
D1 (R89, R194). The scales of the plane are answered, by (row, place). -/
def movePlane (d : Slot) (sd : Bool) (raw : Nat → Nat → Nat) (v : Nat → Nat → Val) (r2 : Nat) :
    List (List Nat) × List ((Nat × Nat) × Nat) :=
  if !isMx d.fmt then ((List.range d.d1).map fun r1 => (List.range d.d0).map fun i => raw i r1, [])
  else if !sd then
    let rows := (List.range d.d1).map fun r1 => (List.range (d.d0 / 32)).map fun b =>
      mxBlock d.fmt ((List.range 32).map fun j => (toF32 (v (32 * b + j) r1), none))
    (rows.map fun bl => (bl.map (·.2)).flatten,
     (rows.zipIdx.map fun q => q.1.zipIdx.map fun b => ((r2 * d.d1 + q.2, b.2), b.1.1)).flatten)
  else
    let cols := (List.range (d.d1 / 32)).map fun g => (List.range d.d0).map fun i =>
      mxBlock d.fmt ((List.range 32).map fun j => (toF32 (v i (32 * g + j)), none))
    ((List.range d.d1).map fun r1 => (List.range d.d0).map fun i => (((cols.getD (r1 / 32) []).getD i (0, [])).2).getD (r1 % 32) 0,
     (cols.zipIdx.map fun q => q.1.zipIdx.map fun b => ((r2 * (d.d1 / 32) + q.2, b.2), b.1.1)).flatten)

/-- Every element converted as VSTREAM COPY converts it (R162, R194). -/
def State.moveConvert (s : State) (r : Run) (w : List W32) (d a : Slot) : Except Err State := do
  let sdA := copySd w 1
  let sdD := copySd w 0
  let scs ← (List.range (scaleRows a sdA)).mapM fun k => do
    let bs ← s.anyBytes r (a.scaleNo k) a.space (a.scaleRow (moveScaleDim a sdA).1 k) (moveScaleDim a sdA).1
    return (bs.map (·.toNat)).toArray
  let scA := scs.toArray
  let exact := isInt a.fmt && isInt d.fmt
  let same := a.fmt = d.fmt && !isMx d.fmt
  (List.range d.d2).foldlM (fun (s : State) r2 => do
    let rows ← (List.range a.d1).mapM fun r1 => do
      let es ← s.anyRow r a a.d0 r1 r2
      return es.toArray
    let m := rows.toArray
    let at_ (i r1 : Nat) : Nat × Nat := if copyTrans w then (r1, i) else (i, r1)
    let bits (i r1 : Nat) : Nat := let p := at_ i r1; (m.getD p.2 #[]).getD p.1 0
    let val (i r1 : Nat) : Val :=
      let p := at_ i r1
      let k := scaleAt a sdA p.1 p.2 r2
      let sc := if isMx a.fmt then (scA.getD k.1 #[]).getD k.2 0 else 127
      if exact then elemVal a.fmt (bits i r1) sc else f32v (elemF32 a.fmt (bits i r1) sc)
    let raw (i r1 : Nat) : Nat := if same then bits i r1 else encElem d.fmt none (val i r1)
    let (out, sc) := movePlane d sdD raw val r2
    let s ← out.zipIdx.foldlM (fun (s : State) q => s.anyWrite r d.space (addr64 (d.row q.2 r2)) (pack d.fmt q.1)) s
    let per := (moveScaleDim d sdD).1
    (blocks per (sc.length + 1) sc).foldlM (fun (s : State) b =>
      match b with
      | [] => Except.ok s
      | x :: _ => s.anyWrite r d.space (d.scaleRow per x.1.1) (b.map fun y => BitVec.ofNat 8 y.2)) s) s

/-- The writes of a MOVE, once its source can be read. -/
def State.moveGo (s : State) (r : Run) : State :=
  let w := r.words
  let d := slot w 0
  let a := slot w 1
  s.orFail r do
    let s ← if moveBits w then s.moveCopy r d a (copySd w 0) else s.moveConvert r w d a
    return (s.modRun r.id fun t => { t with phase := 2 }).settle r.id

/-- MOVE. -/
def State.move (s : State) (r : Run) : State := s.withLoads r (slot r.words 1) (copySd r.words 1) State.moveGo

/-! ### ATOMIC (R196, R197) -/

/-- The old values written to slot 2, once every element has answered. -/
def State.atomOld (s : State) (r : Run) : Except Err State := do
  let w := r.words
  let o := slot w 2
  let cnt := atomCount w
  if !o.used then return s
  (rowsOf o.d1 o.d2).zipIdx.foldlM (fun (s : State) p =>
    s.writeBytes r.who o.space (addr64 (o.row p.1.1 p.1.2)) ((List.range cnt).flatMap fun i =>
      ((r.remote.find? fun x => x.1 = p.2 * cnt + i).map (·.2)).getD [])) s

/-- Slot 2 of an ATOMIC can be written. -/
def State.atomRoom (s : State) (r : Run) : Except Err Unit := do
  let o := slot r.words 2
  if o.used then (rowsOf o.d1 o.d2).forM fun p => do
    let _ ← s.segs r.who o.space (addr64 (o.row p.1 p.2)) (atomCount r.words * atomSize r.words) true

/-- The elements of an ATOMIC issued in stream order. Where slot 2 cannot be written the command fails before, so that any subset of
them may have been applied (R199). -/
def State.atomGo (s : State) (r : Run) : State :=
  s.orFail r do
    s.atomRoom r
    let es ← s.atomElems r
    let s := s.modRun r.id fun t => { t with phase := 2, remote := [] }
    es.foldlM (fun s e => s.atomOne r e) s

/-- An ATOMIC whose elements have all answered ends. -/
def State.atomEnd (s : State) (id : CmdId) : State :=
  match s.run? id with
  | none => s
  | some r => if r.res.isSome || r.phase < 2 || s.awaits id then s else s.orFail r ((s.atomOld r).map fun s => s.settle id)

/-- ATOMIC. -/
def State.atomic (s : State) (r : Run) : State :=
  if r.phase ≥ 2 then s.atomEnd r.id else (s.withLoads r (slot r.words 1) false State.atomGo).atomEnd r.id

/-! ### KV_WRITE (R214 to R216) -/

/-- The rows of a KV_WRITE written to the records, with their digest (R327); SEQ_POS and the sketches follow at completion (R214). Where an
allocation fails, the pages that the command has taken before go back, the model's choice (R216; log entry 95). -/
def State.kvGo (s : State) (r : Run) : State :=
  let w := r.words
  let a := slot w 1
  let v := s.viewOf r (streamOf w)
  let pos := s.kvSeq v
  let put : Except KvErr (State × W64) := do
    (List.range a.d1).foldlM (fun (x : State × W64) k => do
      let bs ← kvLift (x.1.anyBytes r k a.space (addr64 (a.row k 0)) a.d0)
      let t ← x.1.kvSetRecord v (pos + k) (kvOff w * 64) bs
      return (t, crc64 x.2 bs)) (s, 0)
  match put with
  | .ok (s, dig) => (s.modRun r.id fun t => { t with phase := 2, dig := some dig }).settle r.id
  | .error (e, b) => if e.1 = St.notYet then s.noteWindow e.2 else ((match b with | some k => s.ctxErr r.id.ctx.val k | none => s).kvSpoil r).endRun r.id e.1 e.2

/-- KV_WRITE. -/
def State.kvWrite (s : State) (r : Run) : State := s.withLoads r (slot r.words 1) false State.kvGo

/-! ### The commands -/

def isMove (w : List W32) : Bool := isMoveOp w
def isAtomic (w : List W32) : Bool := opcodeOf w = 0x20 && copyMode w = 1
def isKvWrite (w : List W32) : Bool := opcodeOf w = 0x20 && copyMode w = 2

/-- A COPY goes on after a response or a sending. -/
def State.copyOn (s : State) (r : Run) : State :=
  if isMove r.words then s.move r else if isAtomic r.words then s.atomic r else if isKvWrite r.words then s.kvWrite r else s

/-- MOVE. -/
def execMove (id : CmdId) (s : State) : Host.Outcome State Fault Refusal := .next (s.onRun id isMove s.move)
/-- ATOMIC. -/
def execAtomic (id : CmdId) (s : State) : Host.Outcome State Fault Refusal := .next (s.onRun id isAtomic s.atomic)
/-- KV_WRITE. -/
def execKvWrite (id : CmdId) (s : State) : Host.Outcome State Fault Refusal := .next (s.onRun id isKvWrite s.kvWrite)

end Sys2Proof.Machine
end

