-- ==== Sys2Proof/Machine/Waggle.lean ====
section
/-! DEFINITION. The waggle router: ROUTE and COMBINE (R99 to R113). A prefetch has no architectural effect (R113), so none
is modelled. -/

namespace Sys2Proof.Machine
open Host

/-! ### The expert map (R101) -/

/-- An entry of the expert map. -/
structure Expert where
  valid  : Bool
  remote : Bool
  outFmt : Nat
  cell   : Nat
  hive   : Nat
  inS1   : Nat
  outS1  : Nat
  inbox  : Nat
  outbox : Nat
  weightVpn : W32
  pf     : Nat
  weightPages : Nat
deriving DecidableEq, Repr

/-- The entry whose eight words are given. -/
def expertOf (w : List W32) : Expert :=
  ⟨bit (wd w 0) 31, bit (wd w 0) 30, fld (wd w 0) 29 24, fld (wd w 0) 22 16, fld (wd w 0) 15 0, fld (wd w 1) 31 16 * 64,
    fld (wd w 1) 15 0 * 64, (wd w 2).toNat + (wd w 3).toNat * 2 ^ 32, (wd w 4).toNat + (wd w 5).toNat * 2 ^ 32, wd w 6, fld (wd w 7) 31 30,
    fld (wd w 7) 15 0⟩

/-- The first `n` entries of the map at a virtual page number. -/
def State.expertMap (s : State) (w : Who) (vpn n : Nat) : Except Err (List Expert) := do
  let bs ← s.readBytes w 1 (vpn * 65536) (n * 32)
  return (List.range n).map fun e => expertOf (bytesToWords 8 ((bs.drop (32 * e)).take 32))

/-- A valid entry with a field outside the range of R101. -/
def State.expertBad (s : State) (x : Expert) : Bool :=
  !rowFloat x.outFmt || x.pf = 3 || (!x.remote && x.hive ≠ s.hive) ||
    (x.remote && (gRegion x.inbox ≠ 2 || gRegion x.outbox ≠ 2))

/-- The bytes of an inbox of `cap` columns and `h` rows in format `f`: its rows and its scales (R102). -/
def Expert.inboxParts (x : Expert) (f cap h : Nat) : List Part :=
  rowsAt (x.inbox : Nat) h x.inS1 (fmtBytes f cap) ++ if isMx f then rowsAt (x.inbox + h * x.inS1 : Nat) (h / 32) (pad64 cap) cap else []

/-- The cells of this hive that a map names and on which the context's banks are not yet resident (R461). -/
def State.mapWait (s : State) (c : Nat) (m : List Expert) : List Nat :=
  ((m.filter fun x => x.valid && !x.remote).map (·.cell)).eraseDups.filter fun i =>
    (s.cell i).phys.isSome && (s.cxAt c i).inMask i && !s.resident c i

/-! ### Ranking and assignment (R103, R104) -/

/-- The order of R103 between (expert, logit) pairs. -/
def rankLe (a b : Nat × W32) : Bool :=
  if isNaNF a.2 then isNaNF b.2 && a.1 ≤ b.1
  else if isNaNF b.2 then true
  else if ltV (f32v b.2) (f32v a.2) then true
  else if ltV (f32v a.2) (f32v b.2) then false else a.1 ≤ b.1

/-- A token's valid experts with their logits, ranked. -/
def rankOf (m : List Expert) (logits : List W32) : List (Nat × W32) :=
  sortBy ((logits.zipIdx.map fun p => (p.2, p.1)).filter fun p => (m[p.1]?.map (·.valid)).getD false) rankLe

/-- A choice: expert, its logit, status (R107), and column or row. -/
structure Choice where
  expert : Nat
  logit  : W32
  status : Nat
  row    : Nat
deriving DecidableEq, Repr

/-- Where the assignment stands: tokens accepted by expert, spill rows used, choices dropped, choices by token. -/
structure RouteAcc where
  cnt   : Array Nat
  spill : Nat
  drop  : Nat
  ch    : Array (List Choice)

/-- The assignment of choice `j` of token `t` (R104). -/
def assignOne (k policy cap spillCap : Nat) (ranks : Array (List (Nat × W32))) (a : RouteAcc) (j t : Nat) : RouteAcc :=
  let rank := ranks.getD t []
  let e := rank.getD j (0, 0)
  let mine := a.ch.getD t []
  let put (a : RouteAcc) (c : Choice) : RouteAcc := { a with ch := a.ch.setIfInBounds t (mine ++ [c]) }
  let take (x : Nat × W32) : RouteAcc :=
    let n := a.cnt.getD x.1 0
    put { a with cnt := a.cnt.setIfInBounds x.1 (n + 1) } ⟨x.1, x.2, 1, n⟩
  if a.cnt.getD e.1 0 < cap then take e
  else
    let next := if policy = 1 then (rank.drop k).find? fun x => a.cnt.getD x.1 0 < cap && !(mine.any fun c => c.expert = x.1) else none
    match next with
    | some x => take x
    | none =>
      if policy = 2 && a.spill < spillCap then put { a with spill := a.spill + 1 } ⟨e.1, e.2, 3, a.spill⟩
      else put { a with drop := a.drop + 1 } ⟨e.1, e.2, 2, 0xFFFF⟩

/-- The assignment of every choice, rank by rank, in token order within a rank. -/
def assignAll (k policy cap spillCap : Nat) (ranks : List (List (Nat × W32))) : RouteAcc :=
  let rs := ranks.toArray
  (List.range k).foldl (fun a j => (List.range ranks.length).foldl (fun a t => assignOne k policy cap spillCap rs a j t) a)
    ⟨Array.mk (List.replicate 256 0), 0, 0, Array.mk (List.replicate ranks.length [])⟩

/-! ### Gates (R105) -/

/-- FP32 division with one rounding. -/
def divF (a b : W32) : W32 :=
  match f32v a, f32v b with
  | .nan _, _ => qNaN
  | _, .nan _ => qNaN
  | .inf _, .inf _ => qNaN
  | .inf s, .fin t _ _ => toF32 (.inf (s != t))
  | .fin s _ _, .inf t => toF32 (.fin (s != t) 0 0)
  | .fin s m e, .fin t n f =>
    if n = 0 then (if m = 0 then qNaN else toF32 (.inf (s != t)))
    else toF32 (.fin (s != t) (2 * (m * 2 ^ 64 / n) + b2n (m * 2 ^ 64 % n ≠ 0)) (e - f - 65))

/-- exp2((l − mx) × log2 e). -/
def gateExp (mx l : W32) : W32 := exp2F (mulF (subF l mx) 0x3FB8AA3B)
/-- The largest of a list of logits. -/
def gateMax (l : List W32) : W32 := l.foldl maxF 0xFF800000
/-- The sum of exponentials in ascending expert index. -/
def gateSum (mx : W32) (l : List (Nat × W32)) : W32 :=
  (sortBy l fun a b => a.1 ≤ b.1).foldl (fun t p => addF t (gateExp mx p.2)) 0

/-- The gates of a token's choices. -/
def gatesOf (gate : Nat) (rank : List (Nat × W32)) (cs : List Choice) : List W32 :=
  let pool := if gate = 1 then rank else cs.map fun c => (c.expert, c.logit)
  let mx := gateMax (pool.map (·.2))
  let sum := gateSum mx pool
  cs.map fun c => canonF (if gate = 2 then c.logit else divF (gateExp mx c.logit) sum)

/-! ### ROUTE -/

def routeK (w : List W32) : Nat := fld (wd w 29) 3 0
def routePolicy (w : List W32) : Nat := fld (wd w 29) 5 4
def routeGate (w : List W32) : Nat := fld (wd w 29) 7 6
def routeCap (w : List W32) : Nat := fld (wd w 30) 15 0
def routeSpillCap (w : List W32) : Nat := fld (wd w 30) 31 16
/-- RB: the bytes of a spill row (R106). -/
def routeRb (w : List W32) : Nat :=
  let x := slot w 1
  pad64 (fmtBytes x.fmt x.d0 + if isMx x.fmt then x.d0 / 32 else 0)

/-- The first failing check of a ROUTE against its map (R46, R109, R118, R120). -/
def State.routeBad (s : State) (r : Run) (m : List Expert) : Option Nat :=
  let w := r.words
  let c := s.cx r.id.ctx.val
  let x := slot w 1
  let v := m.filter (·.valid)
  let loc := v.filter fun e => !e.remote
  let inbox (y : Expert) := y.inboxParts x.fmt (routeCap w) x.d0
  firstOf [[(c.isS && v.any (·.remote), 31), (routeK w > v.length, 29),
    ((slot w 2).d1 < 17 + (slot w 0).d1 + routeSpillCap w * routeRb w / 64, 25), (loc.any fun e => !c.inMask e.cell, 31),
    (v.any fun e => fmtBytes x.fmt (routeCap w) > e.inS1, 30), (v.any s.expertBad, 31),
    (loc.any fun y => s.hitsShadow r.id.ctx.val 2 (inbox y), 31)],
    (match s.epoch r.id.ctx.val r.who.tag with
     | some e => [(v.any (·.remote) || loc.any fun y => badTarget e 2 (inbox y), 31)]
     | none => [])]

/-- A token vector: its elements and its scales. -/
def State.tokenRow (s : State) (w : Who) (x : Slot) (t : Nat) : Except Err (List Nat × List Nat) := do
  let es ← s.readRow w x 1 x.d0 t 0
  let sc ← if isMx x.fmt then s.readScales w x (x.d0 / 32) t 0 (x.d0 / 32) else .ok []
  return (es, sc)

/-- An entry of the token table (R107). -/
def choiceBytes (c : Choice) (g : W32) : List Byte :=
  [BitVec.ofNat 8 c.expert, BitVec.ofNat 8 c.status] ++ toBytes 2 c.row ++ toBytes 4 g.toNat

/-- The dispatch area but for its spill rows (R106). -/
def dispatchBytes (w : List W32) (a : RouteAcc) (ranks : List (List (Nat × W32))) : List Byte :=
  let T := (slot w 0).d1
  let head : List W32 := [BitVec.ofNat 32 T,
    BitVec.ofNat 32 (routeK w + routePolicy w * 16 + routeGate w * 64 + ((slot w 0).d0 - 1) * 256), BitVec.ofNat 32 (routeCap w),
    BitVec.ofNat 32 (routeSpillCap w), BitVec.ofNat 32 a.spill, BitVec.ofNat 32 a.drop, BitVec.ofNat 32 (routeRb w),
    BitVec.ofNat 32 (slot w 1).fmt] ++ List.replicate 8 0
  wordsToBytes head ++ (a.cnt.toList.flatMap fun n => toBytes 4 n) ++
    ((a.ch.toList.zip ranks).flatMap fun p =>
      let g := gatesOf (routeGate w) p.2 p.1
      let es := (p.1.zip g).flatMap fun q => choiceBytes q.1 q.2
      es ++ List.replicate (64 - es.length) 0)

/-- The (token, column) pairs that an expert accepted, in column order. -/
def accepted (a : RouteAcc) (e : Nat) : List Nat :=
  (sortBy (a.ch.toList.zipIdx.flatMap fun p => (p.1.filter fun c => c.expert = e && c.status = 1).map fun c => (c.row, p.2))
    fun x y => x.1 ≤ y.1).map (·.2)

/-- `n` low nibbles or bytes of a row of elements laid at the start of a place: an odd last nibble keeps its neighbour. -/
def State.putRow (s : State) (w : Who) (f addr : Nat) (es : List Nat) : Except Err State := do
  if fmtBits f = 4 && es.length % 2 = 1 then
    let last ← s.readBytes w 2 (addr + es.length / 2) 1
    s.writeBytes w 2 addr (pack f (es ++ [ofBytes last / 16]))
  else s.writeBytes w 2 addr (pack f es)

/-- The rows of an expert's inbox as the vectors that it accepted fill them (R102, R108): address, format, elements. Row `h` holds feature
`h` of each vector; the rows of scales follow. -/
def inboxRows (x : Slot) (cap : Nat) (e : Expert) (vs : List (List Nat × List Nat)) : List (Nat × Nat × List Nat) :=
  if vs.isEmpty then []
  else
    let cols := vs.map fun v => (v.1.toArray, v.2.toArray)
    (List.range x.d0).map (fun h => (e.inbox + h * e.inS1, x.fmt, cols.map fun v => v.1.getD h 0)) ++
      if isMx x.fmt then (List.range (x.d0 / 32)).map fun p =>
        (e.inbox + x.d0 * e.inS1 + p * pad64 cap, 12, cols.map fun v => v.2.getD p 0) else []

/-- Rows written to the inbox of one expert. Stores to another hive cover whole words; bytes beyond the accepted columns are stale in
any case (R108). -/
def State.fillInbox (s : State) (r : Run) (e : Expert) (rows : List (Nat × Nat × List Nat)) : Except Err State :=
  rows.foldlM (fun (s : State) p =>
    if e.remote then
      let bs := pack p.2.1 p.2.2
      s.anyWrite r 5 p.1 (bs ++ s.freeBytes p.1 (cdiv bs.length 4 * 4 - bs.length))
    else s.putRow { r.who with cell := e.cell } p.2.1 p.1 p.2.2) s.draw

/-- ROUTE after its checks. Its digest covers the dispatch area, then the inboxes, which no slot names (R327). -/
def State.routeRun (s : State) (r : Run) (m : List Expert) : Except Err State := do
  let w := r.words
  let l := slot w 0
  let x := slot w 1
  let d := slot w 2
  let logits ← (List.range l.d1).mapM fun t => do
    let es ← s.readRow r.who l 1 l.d0 t 0
    return es.map fun v => elemF32 l.fmt v 127
  let rows ← (List.range x.d1).mapM fun t => s.tokenRow r.who x t
  let ranks := logits.map (rankOf m)
  let a := assignAll (routeK w) (routePolicy w) (routeCap w) (routeSpillCap w) ranks
  let area := dispatchBytes w a ranks
  let s ← s.writeBytes r.who d.space (addr64 (d.row 0 0)) area
  let spilled := a.ch.toList.zipIdx.flatMap fun p => (p.1.filter fun c => c.status = 3).map fun c => (c.row, p.2)
  let rowBytes (t : Nat) : List Byte :=
    let v := rows.getD t ([], [])
    pack x.fmt v.1 ++ v.2.map fun b => BitVec.ofNat 8 b
  let s ← spilled.foldlM (fun (s : State) p =>
    s.writeBytes r.who d.space (addr64 (d.row 0 0 + ((0x440 + 64 * l.d1 + p.1 * routeRb w : Nat) : Int))) (rowBytes p.2)) s
  let inboxes := m.zipIdx.map fun e => (e.1, inboxRows x (routeCap w) e.1 ((accepted a e.2).map fun t => rows.getD t ([], [])))
  let s ← inboxes.foldlM (fun (s : State) e => s.fillInbox r e.1 e.2) s
  let dig := crc64 0 (area ++ ((sortBy spilled fun p q => p.1 ≤ q.1).flatMap fun p => rowBytes p.2) ++
    inboxes.flatMap fun e => e.2.flatMap fun p => pack p.2.1 p.2.2)
  return (s.modRun r.id fun t => { t with phase := 2, dig := some dig }).settle r.id

/-- The hives of an expert map. -/
def remoteHives (m : List Expert) (at_ : Expert → Nat) : List Nat := ((m.filter fun e => e.valid && e.remote).map fun e => gHive (at_ e)).eraseDups

/-- ROUTE: the map is read and checked; the inboxes' banks are awaited (R461); then the router runs, where its dies can (R323, R328). -/
def State.route (s : State) (r : Run) : State :=
  if r.phase ≥ 2 then s.settle r.id
  else s.onAgents r (s.agentDies r) fun s => match s.expertMap r.who (wd r.words 31).toNat (slot r.words 0).d0 with
  | .error e => s.endRun r.id e.1 e.2
  | .ok m =>
    match s.routeBad r m with
    | some i => s.refuseRun r.id St.badDesc (BitVec.ofNat 32 i)
    | none =>
      match s.mapWait r.id.ctx.val m with
      | [] => let s := s.swapPorts r [0] (remoteHives m (·.inbox))
        s.orFail r (s.routeRun r m)
      | cs => s.modRun r.id fun t => { t with wants := (t.wants ++ cs).eraseDups }

/-! ### COMBINE (R110, R111) -/

/-- The map's and the token table's bytes that a COMBINE works from: tokens, experts, entries by token. -/
structure Dispatch where
  E  : Nat
  ch : List (List (Nat × Nat × Nat × W32))
deriving DecidableEq, Repr

/-- The dispatch area read: header and token table; each entry is expert, status, column or row, gate. -/
def State.readDispatch (s : State) (r : Run) : Except Err (Nat × Dispatch) := do
  let x := slot r.words 0
  let d := slot r.words 2
  let base := addr64 (x.row 0 0)
  let hd ← s.readBytes r.who x.space base 8
  let tb ← s.readBytes r.who x.space (base + 0x440) (64 * d.d1)
  let entry (t j : Nat) : Nat × Nat × Nat × W32 :=
    let b := (tb.drop (64 * t + 8 * j)).take 8
    ((b.getD 0 0).toNat, (b.getD 1 0).toNat, ofBytes ((b.drop 2).take 2), BitVec.ofNat 32 (ofBytes ((b.drop 4).take 4)))
  let e := (hd.getD 5 0).toNat + 1
  return (ofBytes (hd.take 4), ⟨e, (List.range d.d1).map fun t => sortBy ((List.range 8).map (entry t)) fun a b => a.1 ≤ b.1⟩)

def spillRes (w : List W32) : Nat := (wd w 30).toNat + fld (wd w 31) 15 0 * 2 ^ 32

/-- The address of element (f, column) of an outbox. -/
def Expert.outAt (e : Expert) (f col : Nat) : Nat := e.outbox + f * e.outS1 + col * (fmtBits e.outFmt / 8)

/-- One contribution to a row: its gate and its F values. -/
def State.contribution (s : State) (r : Run) (m : List Expert) (F : Nat) (c : Nat × Nat × Nat × W32) : Except Err (Option (W32 × List W32)) := do
  let e := m[c.1]?.getD (expertOf [])
  if c.2.1 = 1 then
    let nb := fmtBits e.outFmt / 8
    let vs ← (List.range F).mapM fun f => do
      let bs ← if e.remote then s.anyBytes r 0 5 (e.outAt f c.2.2.1) nb else s.readBytes { r.who with cell := e.cell } 2 (e.outAt f c.2.2.1) nb
      return elemF32 e.outFmt (ofBytes bs) 127
    return some (c.2.2.2, vs)
  else if c.2.1 = 3 && spillRes r.words ≠ 0 then
    let bs ← s.readBytes r.who 1 (spillRes r.words + c.2.2.1 * pad64 (4 * F)) (4 * F)
    return some (c.2.2.2, bytesToWords F bs)
  else return none

/-- One destination row (R111). -/
def State.combineRow (s : State) (r : Run) (m : List Expert) (t : Nat) (cs : List (Nat × Nat × Nat × W32)) : Except Err State := do
  let b := slot r.words 1
  let d := slot r.words 2
  let base ← if b.used then do
      let es ← s.readRow r.who b 1 d.d0 t 0
      pure (es.map fun v => elemF32 b.fmt v 127)
    else pure (List.replicate d.d0 0)
  let xs ← cs.mapM fun c => s.contribution r m d.d0 c
  let acc := xs.foldl (fun acc x => match x with
    | some (g, vs) => (acc.zip vs).map fun p => fmaF g p.2 p.1
    | none => acc) base
  s.writeRow r.who d t 0 (acc.map fun v => some (encElem d.fmt none (f32v (canonF v))))

/-- The remote loads that a COMBINE makes. -/
def combineRuns (m : List Expert) (F : Nat) (x : Dispatch) : List (Nat × Nat × Nat) :=
  (x.ch.flatten.flatMap fun c => match m[c.1]? with
    | some e => if c.2.1 = 1 && e.remote then (List.range F).map fun f => (0, e.outAt f c.2.2.1, fmtBits e.outFmt / 8) else []
    | none => []).eraseDups

/-- COMBINE once everything remote has answered. -/
def State.combineRun (s : State) (r : Run) (m : List Expert) (x : Dispatch) : State :=
  s.orFail r do
    let s ← x.ch.zipIdx.foldlM (fun (s : State) p => s.combineRow r m p.2 p.1) s
    return (s.modRun r.id fun t => { t with phase := 2 }).settle r.id

/-- The cells of this hive whose outboxes a COMBINE reads. -/
def combineCells (m : List Expert) (x : Dispatch) : List Expert :=
  x.ch.flatten.filterMap fun c => if c.2.1 = 1 then m[c.1]? else none

/-- A local outbox column that a COMBINE is to read lies in an open epoch's shadow range (R118, R121). -/
def State.outboxHit (s : State) (r : Run) (m : List Expert) (F : Nat) (x : Dispatch) : Bool :=
  x.ch.flatten.any fun c => c.2.1 = 1 && match m[c.1]? with
    | some e => !e.remote && s.hitsShadow r.id.ctx.val 2 (rowsAt (e.outAt 0 c.2.2.1 : Nat) F e.outS1 (fmtBits e.outFmt / 8))
    | none => false

/-- COMBINE, where its dies can run it (R323, R328): the dispatch area and the map are read; then the loads of remote outboxes are made; then the rows. -/
def State.combine (s : State) (r : Run) : State :=
  let get : Except Err (Nat × Dispatch × List Expert) := do
    let (T, x) ← s.readDispatch r
    let m ← s.expertMap r.who (wd r.words 29).toNat x.E
    return (T, x, m)
  if r.phase ≥ 2 then s.settle r.id
  else s.onAgents r (s.agentDies r) fun s => match get with
  | .error e => s.endRun r.id e.1 e.2
  | .ok (T, x, m) =>
    let v := m.filter (·.valid)
    let bad := firstBad [((s.cx r.id.ctx.val).isS && v.any (·.remote), 29), (v.any s.expertBad, 29), (T ≠ (slot r.words 2).d1, 25),
      (s.outboxHit r m (slot r.words 2).d0 x, 29)]
    match bad with
    | some i => s.refuseRun r.id St.badDesc (BitVec.ofNat 32 i)
    | none =>
      match s.mapWait r.id.ctx.val (combineCells m x) with
      | c :: cs => s.modRun r.id fun t => { t with wants := (t.wants ++ c :: cs).eraseDups }
      | [] =>
        if r.phase = 1 then (if s.awaits r.id then s else s.combineRun r m x)
        else
          let s := (s.swapPorts r [0] (remoteHives (combineCells m x) (·.outbox))).issueLoads r (combineRuns m (slot r.words 2).d0 x)
          if s.awaits r.id then s.modRun r.id fun t => { t with phase := 1 } else s.combineRun r m x

def isRoute (w : List W32) : Bool := opcodeOf w = 0x30
def isCombine (w : List W32) : Bool := opcodeOf w = 0x31

/-- ROUTE. -/
def execRoute (id : CmdId) (s : State) : Host.Outcome State Fault Refusal := .next (s.onHub id isRoute s.route)
/-- COMBINE. -/
def execCombine (id : CmdId) (s : State) : Host.Outcome State Fault Refusal := .next (s.onHub id isCombine s.combine)

end Sys2Proof.Machine
end

