-- ==== Sys2Proof/Machine/Scout.lean ====
section
/-! DEFINITION. The scout pool: recipes (R133, R134, R137), SCOUT on a scout and on the digital path (R139 to R151), the
margin-miss check (R154), the decision journal (R127 to R132), GATHER_KV (R152, R153), lock loss and calibration (R145,
R146). A SCOUT that needs a scout takes its row twice: when the pool assigns the scout, and when its scoring ends (log
entry 16). -/

namespace Sys2Proof.Machine
open Host

/-! ### Fields of the descriptor -/

def scTail (w : List W32) : Bool := bit (wd w 29) 31
def scInteg (w : List W32) : Nat := fld (wd w 29) 29 27
def scField (w : List W32) : Nat := fld (wd w 29) 26 20
def scForce (w : List W32) : Nat := fld (wd w 29) 19 16
def scK (w : List W32) : Nat := fld (wd w 30) 31 21
def scM (w : List W32) : Nat := fld (wd w 30) 20 10
def scWindow (w : List W32) : Nat := fld (wd w 31) 25 0
def scQ (w : List W32) : Nat := (slot w 0).d1

/-- What is scored (R141): complete blocks, forced blocks, first scored block, blocks scored, whether the tail is listed. -/
structure ScoutSet where
  C     : Nat
  force : Nat
  first : Nat
  n     : Nat
  tail  : Bool
deriving DecidableEq, Repr

/-- The sets of a SCOUT that saw `seq` positions. -/
def scoutSet (w : List W32) (seq : Nat) : ScoutSet :=
  let C := seq / 64
  let first := if scWindow w = 0 then scForce w else max (scForce w) (C - scWindow w)
  ⟨C, min (scForce w) C, first, C - first, scTail w && seq % 64 ≠ 0⟩

/-- SB: the stride of a slot list (R149). -/
def scoutSb (w : List W32) (x : ScoutSet) : Nat :=
  pad64 (8 + 8 * (x.force + min (scK w + scM w) x.n + b2n (scTail w)))
/-- Bytes of the candidate list. -/
def scoutBytes (w : List W32) (x : ScoutSet) : Nat := 64 + scQ w * scoutSb w x

/-! ### Scores -/

/-- The ideal score (R141): a query element of −128 counts as −127 (R139). -/
def idealScore (q s : List Int) : Int := ((q.zip s).map fun p => (max (-127) p.1) * p.2).sum

/-- The queries: one list of 64 signed elements per slot. -/
def State.queries (s : State) (r : Run) : Except Err (List (List Int)) :=
  let x := slot r.words 0
  (List.range x.d1).mapM fun q => do
    let es ← s.readRow r.who x 1 64 q 0
    return es.map (intElem 7)

/-- The reported scores of one query over the scored blocks, as (block, score): exact, or with the analogue error of this
draw (R141, R143). -/
def reported (free : Option Nat) (q : Nat) (query : List Int) (sk : List (Nat × List Int)) : List (Nat × Int) :=
  sk.map fun b => (b.1, idealScore query b.2 + match free with | some k => Config.analogueError k q b.1 | none => 0)

/-- The `n` best of a list of (block, score): highest scores, equal ones the lower block (R142). -/
def topBlocks (n : Nat) (l : List (Nat × Int)) : List (Nat × Int) :=
  (sortBy l fun a b => a.2 > b.2 || (a.2 = b.2 && a.1 ≤ b.1)).take n

/-- The entries of one slot list, in ascending block number (R150). -/
def listEntries (x : ScoutSet) (all : Bool) (kept : List (Nat × Int)) : List W32 :=
  let forced := (List.range x.force).flatMap fun b => [BitVec.ofNat 32 (2 ^ 31 + b), 0]
  let mid := (sortBy kept fun a b => a.1 ≤ b.1).flatMap fun p => [BitVec.ofNat 32 p.1, if all then 0 else BitVec.ofInt 32 p.2]
  forced ++ mid ++ if x.tail then [BitVec.ofNat 32 (2 ^ 30 + x.C), 0] else []

/-- The candidate list (R149). -/
def listBytes (w : List W32) (x : ScoutSet) (flags unit topk miss : Nat) (all : Bool) (kept : List (List (Nat × Int))) : List Byte :=
  let sb := scoutSb w x
  let head : List W32 := [BitVec.ofNat 32 (scQ w), BitVec.ofNat 32 (scK w), BitVec.ofNat 32 (scM w), BitVec.ofNat 32 flags,
    BitVec.ofNat 32 x.C, BitVec.ofNat 32 x.first, BitVec.ofNat 32 x.n, BitVec.ofNat 32 unit, BitVec.ofNat 32 (scInteg w),
    BitVec.ofNat 32 topk, BitVec.ofNat 32 miss, BitVec.ofNat 32 sb, 0, 0, 0, 0]
  wordsToBytes head ++ kept.flatMap fun k =>
    let es := listEntries x all k
    let bs := wordsToBytes ([BitVec.ofNat 32 (es.length / 2), 0] ++ es)
    bs ++ List.replicate (sb - bs.length) 0

/-! ### The journal (R127 to R132) -/

/-- The current step of the command's context, if it journals (R127). -/
def State.journal (s : State) (r : Run) : Option StepRec :=
  let c := s.cx r.id.ctx.val
  if c.stepMode ≠ 0 then some c.step else none

/-- The journal slot. -/
def StepRec.slot (j : StepRec) : Slot := slotIn j.journal 0 0

/-- The first word of a record's head for a command (R129). -/
def recWord0 (r : Run) : W32 :=
  BitVec.ofNat 32 (0x01 * 2 ^ 24 + r.id.q.val * 2 ^ 16 + b2n (specV r.words) * 2 ^ 15 + (specTag r.words).toNat)

/-- A journal record: head, payload, padding to 64 bytes (R129). -/
def recordOf (r : Run) (payload : List Byte) : List Byte :=
  let bs := wordsToBytes [recWord0 r, seqOf r.words, wd r.words 2, BitVec.ofNat 32 payload.length, crc32 payload, 0, 0, 0] ++ payload
  bs ++ List.replicate (pad64 bs.length - bs.length) 0

/-- The payload of a command's record in a journal's bytes, searched from byte `at_` up: the record of its QUEUE and SEQ that
matches the rest of its head; `some none` where that one's CRC fails (R130, R131). -/
def findRecord (r : Run) (js : List Byte) : Nat → Nat → Option (Option (List Byte))
  | 0, _ => none
  | f + 1, at_ =>
    if js.length < at_ + 32 then none
    else
      let h := bytesToWords 5 (js.drop at_)
      let len := (wd h 3).toNat
      if fld (wd h 0) 31 24 ≠ 1 then none
      else if wd h 0 = recWord0 r && wd h 1 = seqOf r.words && wd h 2 = wd r.words 2 then
        let p := (js.drop (at_ + 32)).take len
        some (if p.length = len && crc32 p = wd h 4 then some p else none)
      else findRecord r js f (at_ + pad64 (32 + len))

/-- The bytes of the journal that are in use. -/
def StepRec.runs (j : StepRec) : List (Nat × Nat × Nat) := [(0, j.slot.base, j.used)]

/-- A record appended to the journal, with COUNT and USED in its header (R128, R130, R332). -/
def State.appendRecord (s : State) (r : Run) (j : StepRec) (payload : List Byte) : Except KvErr State := do
  let bs := recordOf r payload
  if j.used + bs.length > j.slot.d1 * 64 then throw ((St.badDesc, 0), some 6)
  let s ← kvLift (s.anyWrite r j.slot.space (j.slot.base + j.used) bs)
  let s := s.modCx r.id.ctx.val fun c => { c with step := { c.step with count := j.count + 1, used := j.used + bs.length } }
  kvLift (s.anyWrite r j.slot.space (j.slot.base + 20) (wordsToBytes [BitVec.ofNat 32 (j.count + 1), BitVec.ofNat 32 (j.used + bs.length)]))

/-! ### The end of a SCOUT -/

/-- A KV error ends a command, and sets the context error that goes with it. -/
def State.kvFail (s : State) (r : Run) (x : Except KvErr State) : State :=
  match x with
  | .ok t => t
  | .error (e, b) => if e.1 = St.notYet then s else (match b with | some k => s.ctxErr r.id.ctx.val k | none => s).cutRun r.id e.1 e.2

/-- The list of a SCOUT that was not replayed, with its margin-miss check, written (R142, R149, R154); in RECORD and RESUME mode it
is kept for the journal, whose records are written in completion order (R130). -/
def State.scoutList (s : State) (r : Run) (x : ScoutRun) : Except KvErr State := do
  let w := r.words
  let set := scoutSet w r.seqPos
  let keep := scK w + scM w
  let all := set.n ≤ keep
  let v := s.viewOf r (streamOf w)
  let vpn := ((s.cx r.id.ctx.val).recipe).getD 0
  let nf ← kvLift (s.recipeNf r.id.ctx.val vpn)
  let qs ← kvLift (s.queries r)
  let need := !all || x.checked
  let sk ← if need then (List.range set.n).mapM fun i => do
      let k ← s.kvReadSketch v nf (scField w) (set.first + i)
      pure (set.first + i, k)
    else pure []
  let free := if x.die.isSome || all then none else some s.free
  let kept := qs.zipIdx.map fun q =>
    if all then (List.range set.n).map fun i => (set.first + i, (0 : Int)) else topBlocks keep (reported free q.2 q.1 sk)
  let topk := min (scK w) set.n
  let miss := if !x.checked then 0 else
    ((qs.zip kept).map fun q => ((topBlocks topk (reported none 0 q.1 sk)).filter fun b => !(q.2.any fun k => k.1 = b.1)).length).sum
  let flags := b2n (x.die.isSome && !all) + 2 * b2n x.checked + 4 * b2n all + 8 * b2n x.restarted
  let unit := if all then 0xFFFFFFFF else match x.die, x.unit with | some d, _ => 0x100 + d | none, u => u.getD 0
  let tk := if x.checked then scQ w * topk else 0
  let bs := listBytes w set flags unit tk miss all kept
  let d := slot w 1
  let s ← kvLift (s.draw.writeBytes r.who d.space (addr64 (d.row 0 0)) bs)
  let s := if x.checked then (s.bump pgPool 0x130 tk).bump pgPool 0x134 miss else s
  let s := s.modRun r.id fun t => { t with phase := 2, dig := some (crc64 0 bs) }
  let kept := match s.journal r with | some j => decide (j.mode ≠ 2) | none => false
  return (s.modRun r.id fun t => { t with list := if kept then some bs else none }).endRun r.id St.ok 0

/-- The scout that runs a command is set free. -/
def State.freeScout (s : State) (id : CmdId) : State :=
  { s with scouts := s.scouts.map fun p => (p.1, if p.2.run = some id then { p.2 with run := none } else p.2) }

/-- The scoring of a SCOUT ends, and its scout is free once the list is written; where memory is not served yet, nothing has changed. -/
def State.scoutEnd (s : State) (r : Run) (x : ScoutRun) : State := s.kvFail r ((s.scoutList r x).map fun t => t.freeScout r.id)

/-- A SCOUT takes the digital path of a store die (R147), which counts except in REPLAY mode (R151), and stays on it. -/
def State.scoutDigital (s : State) (r : Run) (x : ScoutRun) (die : Nat) : State :=
  let x := { x with die := some die, unit := none, paused := false }
  let r := { r with scout := some x }
  let s := s.freeScout r.id
  let s := (if (s.cx r.id.ctx.val).stepMode = 2 then s else s.bump pgPool 0x13C 1).modRun r.id fun t => { t with scout := some x }
  s.onAgents r (s.agentDies r) fun s => s.scoutEnd r x

/-! ### SCOUT -/

/-- The checks that need memory (R140): FIELD below NF, and slot 1 large enough. -/
def State.scoutFits (s : State) (r : Run) : Except Err (Option Nat) := do
  let nf ← s.recipeNf r.id.ctx.val (((s.cx r.id.ctx.val).recipe).getD 0)
  return firstBad [(scField r.words ≥ nf, 29), ((slot r.words 1).d1 * 64 < scoutBytes r.words (scoutSet r.words r.seqPos), 18)]

/-- Every scored block fits in the list: nothing is compared (R142). -/
def scoutAll (r : Run) : Bool := (scoutSet r.words r.seqPos).n ≤ scK r.words + scM r.words

/-- A SCOUT that is scored: with no scout, on the digital path, or on the scout that the pool assigns, whose counter banks swap (R142, R147,
R411); a store die whose clock island is held starts nothing (R323). -/
def State.scoutScore (s : State) (unit : Nat) (r : Run) (x : ScoutRun) : State :=
  if scoutAll r then s.scoutEnd r x
  else if (s.cx r.id.ctx.val).digital r.words then
    (if s.base.sdHeld.getLsbD (s.scoutDie r) then s else s.scoutDigital r x (s.scoutDie r))
  else if (s.scoutRec unit).st = .ready && (s.scoutRec unit).run.isNone && !s.base.sdHeld.getLsbD (unit / 2) then
    ((s.modScout unit fun u => { u with run := some r.id }).modRun r.id fun t => { t with scout := some { x with unit := some unit } }).swapBank
      (bankKey (pgSd (unit / 2)) (3 + unit % 2)) r.id.ctx.val r.id.q.val r.words
  else s

/-- The recorded list taken from the journal (R151), or what R130 and R131 say without one; `score` runs a SCOUT that is to be scored. -/
def State.scoutReplay (s : State) (r : Run) (x : ScoutRun) (j : StepRec) (score : State → Run → ScoutRun → State) : State :=
  match s.anyBytes r 0 j.slot.space j.slot.base j.used with
  | .error e => s.endRun r.id e.1 e.2
  | .ok js =>
    match findRecord r js (j.used / 64 + 1) 64 with
    | some (some p) =>
      let d := slot r.words 1
      s.orFail r do
        let s ← s.writeBytes r.who d.space (addr64 (d.row 0 0)) (p.take (d.d1 * 64))
        return (s.modRun r.id fun t => { t with dig := some (crc64 0 (p.take (d.d1 * 64))) }).endRun r.id (r.err.getD (St.ok, 0)).1 (r.err.getD (St.ok, 0)).2
    | some none => (s.ctxErr r.id.ctx.val 5).refuseRun r.id St.badDesc 0
    | none =>
      match r.err with
      | some e => s.endRun r.id e.1 e.2
      | none =>
        if j.mode = 3 then score s r x
        else match r.slot with
        | some k => score (s.modEpoch r.id.ctx.val k fun e => { e with marked := true }) r x
        | none => (s.ctxErr r.id.ctx.val 5).refuseRun r.id St.badDesc 0

/-- A SCOUT before a scout is assigned: its checks, the journal of a replay, then the scoring. -/
def State.scoutStart (s : State) (r : Run) (x : ScoutRun) (score : State → Run → ScoutRun → State) : State :=
  match s.scoutFits r with
  | .error e => s.endRun r.id e.1 e.2
  | .ok (some i) => s.refuseRun r.id St.badDesc (BitVec.ofNat 32 i)
  | .ok none =>
    match s.journal r with
    | none => score s r x
    | some j =>
      if j.mode = 1 then score s r x
      else if r.phase = 1 then (if s.awaits r.id then s else s.scoutReplay r x j score)
      else
        let s := if j.slot.space = 5 then s.issueLoads r j.runs else s
        let s := s.modRun r.id fun t => { t with phase := 1 }
        if s.awaits r.id then s else s.scoutReplay r x j score

/-- SCOUT: its start; and the end of its scoring, on the digital path that it has taken, or once a scout is assigned and not paused. -/
def State.scout (s : State) (r : Run) (unit : Nat) : State :=
  match r.scout with
  | none => s
  | some x =>
    if x.die.isSome then s.onAgents r (s.agentDies r) fun s => s.scoutEnd r x
    else if x.unit.isNone then s.scoutStart r x (State.scoutScore · unit)
    else if x.paused then s
    else s.scoutEnd r x

/-- A ring of the scout that runs a SCOUT loses lock (R146). -/
def State.scoutLoss (s : State) (unit : Nat) : State :=
  match (s.scoutRec unit).run with
  | none => s
  | some id =>
    (s.modScout unit fun u => { u with losses := satAdd 8 u.losses 1 }).modRun id fun r =>
      { r with scout := r.scout.map fun x => { x with paused := true, since := s.now } }

/-- The scout has relocked (R146): it scores the affected sketches again. -/
def State.scoutRelock (s : State) (unit : Nat) : State :=
  match (s.scoutRec unit).run with
  | none => s
  | some id => s.modRun id fun r => { r with scout := r.scout.map fun x => { x with paused := false } }

/-- No relock within 200 µs: the SCOUT restarts on the digital path (R146). -/
def State.scoutRestart (s : State) (unit : Nat) : State :=
  match (s.scoutRec unit).run with
  | none => s
  | some id => match s.run? id with
    | none => s
    | some r => match r.scout with
      | some x => if x.paused && r.res.isNone then (s.passTo (x.since + 200)).scoutDigital r { x with restarted := true } (s.scoutDie r) else s
      | none => s

/-- When the wait for a ready scout began: at the SCOUT's start, or when the last scout left `SCOUT_READY` since (R147). -/
def State.readySince (s : State) (x : ScoutRun) : Nat := (List.range 12).foldl (fun t u => max t (s.scoutRec u).left) x.since

/-- No scout has been ready for 20 µs: store die `sd` runs a SCOUT that is to be scored (R147); one whose list the journal holds is
replayed (R127, R131, R151). -/
def State.scoutLate (s : State) (r : Run) (sd : Nat) : State :=
  match r.scout with
  | none => s
  | some x =>
    if x.unit.isSome || x.die.isSome || (List.range 12).any (fun u => (s.scoutRec u).st = .ready) then s
    else s.scoutStart r x fun s r x => if scoutAll r then s else (s.passTo (s.readySince x + 20)).scoutDigital r x sd

/-! ### GATHER_KV (R152, R153) -/

/-- The list header's words fit each other and slot 0 (R149). What R153 calls the checks of R149 covers here Q, K, M, FLAGS, SB and the
reserved words; a slot list is read up to SB, whatever its Lq: the model's choice (log entry 95). -/
def listGood (h : List W32) (rows : Nat) : Bool :=
  1 ≤ (wd h 0).toNat && (wd h 0).toNat ≤ 64 && (wd h 1).toNat ≠ 0 && (wd h 1).toNat + (wd h 2).toNat ≤ 1024 && (wd h 3).toNat < 16 &&
  (wd h 11).toNat % 64 = 0 && 64 ≤ (wd h 11).toNat && 64 + (wd h 0).toNat * (wd h 11).toNat ≤ rows * 64 &&
  ((List.range 4).all fun i => wd h (12 + i) = 0)

/-- The blocks of slot list `q`. -/
def State.listBlocks (s : State) (r : Run) (sb q : Nat) : Except Err (List Nat) := do
  let x := slot r.words 0
  let bs ← s.readBytes r.who x.space (addr64 (x.row 0 0) + 64 + q * sb) sb
  let n := min (ofBytes (bs.take 4)) ((sb - 8) / 8)
  return (List.range n).map fun i => ofBytes ((bs.drop (8 + 8 * i)).take 4) % 2 ^ 26

/-- GATHER_KV. -/
def State.gatherRun (s : State) (r : Run) : Except KvErr State := do
  let w := r.words
  let x := slot w 0
  let d := slot w 1
  let p := slot w 2
  let hb ← kvLift (s.readBytes r.who x.space (addr64 (x.row 0 0)) 64)
  let h := bytesToWords 16 hb
  let sel := fld (wd w 29) 22 16
  if !listGood h x.d1 then throw (badDesc 8, none)
  if sel ≠ 0x7F && sel ≥ (wd h 0).toNat then throw (badDesc 29, none)
  let sb := (wd h 11).toNat
  let ls ← kvLift ((if sel = 0x7F then List.range (wd h 0).toNat else [sel]).mapM fun q => s.listBlocks r sb q)
  let blks := sortBy ls.flatten.eraseDups (· ≤ ·)
  if 64 * blks.length > d.d1 then throw (badDesc 18, none)
  if kvOff w + kvLen w > (s.cx r.id.ctx.val).rslab * 64 then throw (badDesc 30, none)
  let v := s.viewOf r (streamOf w)
  let seq := r.seqPos
  let pos := blks.flatMap fun b => (List.range 64).map fun i => 64 * b + i
  let rows ← pos.mapM fun q => if q < seq then s.kvRecord v q (kvOff w * 64) (kvLen w * 64) else pure (List.replicate (kvLen w * 64) 0)
  let tab := pos.flatMap fun q => toBytes 4 (if q < seq then q else 0xFFFFFFFF)
  let s ← kvLift (rows.zipIdx.foldlM (fun (s : State) q => s.writeBytes r.who d.space (addr64 (d.row q.2 0)) q.1) s)
  let s ← kvLift (if p.used then s.writeBytes r.who p.space (addr64 (p.row 0 0)) tab else .ok s)
  let dig := crc64 0 (rows.flatten ++ if p.used then tab else [])
  return (s.modRun r.id fun t => { t with dig := some dig }).endRun r.id St.ok 0

/-- GATHER_KV, or the failure that ends it; a refused one writes nothing (R41). -/
def State.gather (s : State) (r : Run) : State :=
  s.onAgents r (s.agentDies r) fun s => match s.gatherRun r with
  | .ok t => t
  | .error (e, _) => if e.1 = St.badDesc then s.endRun r.id e.1 e.2 else s.cutRun r.id e.1 e.2

/-! ### Recipes (R137) -/

/-- The context that SKR_INDEX names. -/
def State.skrIndex (s : State) : Nat := fld (s.rd pgPool 0x100) 11 0
/-- An `OPEN` context without a `LIVE` stream. -/
def State.idleOpen (s : State) (c : Nat) : Bool := (s.cx c).st = .opened && (s.streamsOf c).isEmpty

/-- The recipe at a virtual page meets the ranges of R134. One that cannot be translated or read does not, the model's choice (R137; log
entry 95). -/
def State.recipeGood (s : State) (c vpn : Nat) : Bool :=
  match s.recipeWords c vpn 0 16 with
  | .error _ => false
  | .ok h => skHeadGood h && (List.range (fld (wd h 1) 7 0)).all fun f =>
    match s.recipeWords c vpn (0x40 + 16 * f) 4 with | .ok w => skFieldGood (s.cx c).rslab w | .error _ => false

/-- SET. -/
def State.skrSet (s : State) : State :=
  let c := s.skrIndex
  let vpn := (s.rd pgPool 0x10C).toNat
  if !s.idleOpen c then s.result pgPool 0x108 Rs.ctxBusy
  else if !s.recipeGood c vpn then s.result pgPool 0x108 Rs.badConfig
  else (s.modCx c fun r => { r with recipe := some vpn }).result pgPool 0x108 Rs.ok
/-- READ. -/
def State.skrRead (s : State) : State :=
  (s.wr pgPool 0x10C (BitVec.ofNat 32 ((s.cx s.skrIndex).recipe.getD 0))).result pgPool 0x108 Rs.ok
/-- CLEAR. -/
def State.skrClear (s : State) : State :=
  let c := s.skrIndex
  if !s.idleOpen c then s.result pgPool 0x108 Rs.ctxBusy
  else (s.modCx c fun r => { r with recipe := none }).result pgPool 0x108 Rs.ok
/-- POOL_MM_CLEAR (R137). -/
def State.mmClear (s : State) (v : W32) : State :=
  if bit v 0 then ((s.wr pgPool 0x130 0).wr pgPool 0x134 0).wr pgPool 0x13C 0 else s

/-! ### Calibration (R145) -/

/-- A scout in `SCOUT_OFF` may have its first calibration: its three sources and the tap give their light, its store die is ready, and the
base layer is not throttled (R144, R361, R377). -/
def State.scoutMay (s : State) (u : Nat) : Bool :=
  s.boot.sdReady.getLsbD (u / 2) && Tab.get 0 s.power.levels 33 < 2 &&
    [63, 67, 68, 69].all s.roleLit

/-- A scout's calibration falls due: it begins when no SCOUT runs on it and fewer than MAX_CAL scouts calibrate. -/
def State.calibrate (s : State) (u : Nat) : State :=
  let r := s.scoutRec u
  let ctl := s.rd pgPool 0x124
  let busy := (s.scouts.filter fun p => p.2.st = .cal).length
  if !(r.st = .ready || (r.st = .fenced && r.fails < 3) || (r.st = .off && r.fails < 3 && s.scoutMay u)) || r.run.isSome || busy ≥ fld ctl 19 16 then s
  else if r.st = .off then s.modScout u fun x => { x with st := .cal }
  else
    let s := s.passTo (r.last + 1000 * fld ctl 15 0)
    s.modScout u fun x => { x with st := .cal, left := if x.st = .ready then s.now else x.left }

/-- A calibration ends with its residuals (R145). -/
def State.calibrated (s : State) (u gain offset weight : Nat) (tones : Bool) : State :=
  if (s.scoutRec u).st ≠ .cal then s
  else if gain ≤ 20 && offset ≤ 200 && weight ≤ 20 && tones then
    s.modScout u fun x => { x with st := .ready, fails := 0, last := s.now }
  else s.modScout u fun x => { x with st := .fenced, fails := x.fails + 1, last := s.now }

/-! ### Completion (R66) -/

/-- The list of a SCOUT in RECORD or RESUME mode goes to the journal as the command completes (R127, R130, R332): `none` while
an earlier record's SCOUT of the context has not completed. -/
def State.keepList (s : State) (r : Run) : Option (Except KvErr State) :=
  match r.list, s.journal r with
  | some bs, some j =>
    if (s.runsOf r.id.ctx.val).any fun x => x.logged && x.id ≠ r.id then none
    else some do
      let s ← s.appendRecord r j bs
      let s := s.modRun r.id fun t => { t with list := none, logged := true }
      return if j.slot.space = 5 then s.armFab r.id else s
  | _, _ => some (.ok s)

/-- COMMAND_COMPLETION (R66): nothing happens before the command's work has ended; an FFAB wait holds it (R57),
and so do requests not yet sent (R296). -/
def State.complete (s : State) (id : CmdId) (secondary : Option W64) (hostOk : Bool) : State :=
  match s.run? id with
  | none => s
  | some r =>
    match r.res with
    | none => s
    | some (st, detail) =>
      if st ≠ St.ok then
        let s := s.forget id
        if s.fabHeld r then s.armFab id else s.finish r st detail secondary hostOk
      else if s.awaits id then s
      else match s.keepList r with
      | none => s
      | some (.error (e, b)) =>
        if e.1 = St.notYet then s
        else ((match b with | some k => s.ctxErr r.id.ctx.val k | none => s).spoilOut r).finish r e.1 e.2 secondary hostOk
      | some (.ok s) => match s.run? id with
        | none => s
        | some r => if s.fabHeld r then s.armFab id else s.finish r st detail secondary hostOk

/-! ### The commands -/

/-- COMMAND_COMPLETION. -/
def execCommandCompletion (id : CmdId) (secondary : Option W64) (hostOk : Bool) (s : State) : Host.Outcome State Fault Refusal :=
  .next (s.complete id secondary hostOk)

def isScout (w : List W32) : Bool := opcodeOf w = 0x32
def isGather (w : List W32) : Bool := opcodeOf w = 0x33

/-- SCOUT. -/
def execScout (id : CmdId) (unit : Fin 12) (s : State) : Host.Outcome State Fault Refusal :=
  .next (s.onHub id isScout fun r => s.scout r unit.val)
/-- SCOUT_LOCK_LOSS. -/
def execScoutLockLoss (unit : Fin 12) (s : State) : Host.Outcome State Fault Refusal := .next (s.scoutLoss unit.val)
/-- SCOUT_RELOCK_TIMEOUT. -/
def execScoutRelockTimeout (unit : Fin 12) (s : State) : Host.Outcome State Fault Refusal := .next (s.scoutRestart unit.val)
/-- SCOUT_READY_TIMEOUT. -/
def execScoutReadyTimeout (id : CmdId) (sd : Fin 8) (s : State) : Host.Outcome State Fault Refusal :=
  .next (s.onHub id isScout fun r => s.scoutLate r sd.val)
/-- GATHER_KV. -/
def execGatherKv (id : CmdId) (s : State) : Host.Outcome State Fault Refusal := .next (s.onHub id isGather s.gather)
/-- SKR_SET. -/
def execSkrSet (s : State) : Host.Outcome State Fault Refusal := .next (s.onPage pgPool State.skrSet)
/-- SKR_READ. -/
def execSkrRead (s : State) : Host.Outcome State Fault Refusal := .next (s.onPage pgPool State.skrRead)
/-- SKR_CLEAR. -/
def execSkrClear (s : State) : Host.Outcome State Fault Refusal := .next (s.onPage pgPool State.skrClear)
/-- POOL_MM_CLEAR. -/
def execPoolMmClear (value : W32) (s : State) : Host.Outcome State Fault Refusal := .next (s.onPage pgPool fun s => s.mmClear value)
/-- SCOUT_CALIBRATION. -/
def execScoutCalibration (unit : Fin 12) (s : State) : Host.Outcome State Fault Refusal := .next (s.calibrate unit.val)
/-- CALIBRATION_DONE. -/
def execCalibrationDone (unit : Fin 12) (gain offset weight : Nat) (tones : Bool) (s : State) : Host.Outcome State Fault Refusal :=
  .next (let t : State := s.calibrated unit.val gain offset weight tones; t.notify s)

end Sys2Proof.Machine
end

