-- ==== Sys2Proof/Machine/Hub.lean ====
section
/-! DEFINITION. The commands that the hub runs: FENCE and its drain timer (R57, R58, R301), EVENT_SIGNAL, EVENT_WAIT and
TIMESTAMP (R64), speculation epochs (R114 to R126), and steps (R330 to R336). -/

namespace Sys2Proof.Machine
open Host

def isOp (op : Nat) (w : List W32) : Bool := opcodeOf w = op

/-! ### FENCE (R57, R58, R301) -/

/-- A running FENCE ends once no acknowledgement is missing; else its drain timer runs. -/
def State.fence (s : State) (r : Run) : State :=
  if !ffab r.words || (s.covered r).isEmpty then s.endRun r.id St.ok 0 else s.armFab r.id

/-- The list of missing destinations in a FENCE's slot 0, cut at the slot's size (R58), and the status that the FENCE ends with: a
list that cannot be written ends it as any access that fails (R183, R461). -/
def State.missingList (s : State) (r : Run) (ds : List Nat) : State × Err :=
  let x := slot r.words 0
  let e : Err := (St.fenceIncomplete, BitVec.ofNat 32 ds.length)
  if opcodeOf r.words ≠ 0x50 || !x.used then (s, e)
  else match s.writeBytes r.who x.space (addr64 (x.row 0 0)) ((ds.take x.d0).flatMap fun d => toBytes 2 d) with
    | .ok t => (t, e)
    | .error e => (s, e)

/-- The drain timer expires with acknowledgements missing: the time is brought to the timer's end, tracking of the
requests ends, and the command ends `FENCE_INCOMPLETE` (R301), with its outputs unspecified (R170, R199); one whose work failed before
keeps its own status (log entry 71). A list in SPACE 2 first waits for its banks (R461). -/
def State.fabExpire (s : State) (id : CmdId) : State :=
  match s.run? id with
  | none => s
  | some r => match r.fabSince with
    | none => s
    | some t =>
      let ds := s.missing r
      if ds.isEmpty then s
      else
        let cov := (s.covered r).map (·.tag)
        let u := s.passTo (t + 2 * fld (s.rd pgFab 0x104) 8 0)
        if u.bankWait r then u.noteBanks id
        else
          let x := u.missingList r ds
          if x.2.1 = St.notYet then u
          else
            let v := match r.res with | some (st, _) => if st = St.ok then x.1.spoilOut r else x.1 | none => x.1
            (v.modFab fun f => { f with reqs := f.reqs.filter fun m => !cov.contains m.tag }).modRun id fun y => { y with
              res := match r.res with | some (st, d) => if st = St.ok then some x.2 else some (st, d) | none => some x.2
              begun := true
              fabSince := none }

/-! ### Events and time (R64) -/

/-- EVENT_SIGNAL: a local add, tentative for a tagged command (R63), or a remote atomic add to region 3. -/
def State.eventSignal (s : State) (r : Run) : State :=
  let w := r.words
  let ctr := fld (wd w 29) 15 0
  if !bit (wd w 31) 0 then (s.signal r.id.ctx.val r.slot ctr (wd w 30)).endRun r.id St.ok 0
  else if r.phase ≥ 2 then s.settle r.id
  else s.orFail r do
    let (_, s) ← s.request r ⟨fld (wd w 29) 31 16 * 2 ^ 48 + 3 * 2 ^ 44 + ctr, 3, 1, false, 4, toBytes 4 (wd w 30).toNat⟩ 0 false
    return (s.modRun r.id fun t => { t with phase := 2 }).settle r.id

/-- The condition of an EVENT_WAIT holds or has held since its start (R60, R64). -/
def State.eventMet (s : State) (r : Run) : Bool := r.met || s.eventHolds r

/-- EVENT_WAIT. -/
def State.eventWait (s : State) (r : Run) : State := if s.eventMet r then s.endRun r.id St.ok 0 else s

/-- TIMEOUT expires: the condition is tested once more. -/
def State.eventExpire (s : State) (r : Run) : State :=
  if wd r.words 31 = 0 then s
  else
    let s := s.passTo (r.start + (wd r.words 31).toNat)
    if s.eventMet r then s.endRun r.id St.ok 0
    else s.endRun r.id St.evtTimeout (s.ctrView r.id.ctx.val r.who.tag (fld (wd r.words 29) 15 0))

/-- TIMESTAMP: the time is that of the command's start. -/
def State.timestamp (s : State) (r : Run) : State :=
  let x := slot r.words 0
  let us := r.start - s.clock.epoch
  s.orFail r do
    let s ← s.writeBytes r.who x.space (addr64 (x.row 0 0)) (toBytes 8 (us * 1200) ++ toBytes 4 us ++ toBytes 4 (seqOf r.words).toNat)
    return s.endRun r.id St.ok 0

/-! ### Epochs (R114 to R126) -/

/-- The streams that a SPEC_BEGIN names. -/
def specStreams (w : List W32) : List Nat :=
  [fld (wd w 30) 13 0, fld (wd w 30) 29 16].take (fld (wd w 29) 1 0)

/-- Two ranges of banks share one. -/
def banksMeet (a n b m : Nat) : Bool := n ≠ 0 && m ≠ 0 && a < b + m && b < a + n

/-- The first failing check of SPEC_BEGIN (R116). -/
def State.specBeginBad (s : State) (c : Nat) (w : List W32) : Option Nat :=
  let r := s.cx c
  let tag : Byte := BitVec.ofNat 8 (fld (wd w 29) 31 24)
  let k := fld (wd w 29) 17 16
  let ns := specStreams w
  let n := fld (wd w 31) 12 8
  let home := fld (wd w 31) 5 0
  let sh := fld (wd w 31) 21 16
  firstBad [(r.epochs.any fun e => e.slot = k || e.tag = tag, 29),
    (ns.any fun x => !((s.stm x).live && (s.stm x).ctx = c) || r.epochs.any fun e => e.streams.any fun y => y.stream = x, 30),
    (ns.eraseDups.length ≠ ns.length, 30), (n ≠ 0 && (home + n > r.banks - 5 || sh + n > r.banks - 5), 31),
    (banksMeet home n sh n || r.epochs.any fun e =>
      banksMeet home n e.home e.nbanks || banksMeet home n e.shadow e.nbanks || banksMeet sh n e.home e.nbanks || banksMeet sh n e.shadow e.nbanks, 31),
    (n ≠ 0 && r.isS, 31)]

/-- The epoch that a SPEC_BEGIN opens. -/
def State.newEpoch (s : State) (w : List W32) : Epoch :=
  { slot := fld (wd w 29) 17 16, tag := BitVec.ofNat 8 (fld (wd w 29) 31 24),
    streams := (specStreams w).map fun n =>
      { stream := n, base := (s.stm n).seqPos, appended := 0, head := if (s.stm n).kvHas then some (s.stm n).kvHead.toNat else none, map := [], fresh := [] },
    home := fld (wd w 31) 5 0, nbanks := fld (wd w 31) 12 8, shadow := fld (wd w 31) 21 16, written := [], adds := [], marked := false, aborting := false }

/-- A stream's SPEC_OPEN bit of a slot. -/
def State.specBit (s : State) (n k : Nat) (on : Bool) : State :=
  s.modStm n fun m => { m with specOpen := if on then m.specOpen ||| BitVec.ofNat 4 (2 ^ k) else m.specOpen &&& ~~~ BitVec.ofNat 4 (2 ^ k) }

/-- The descriptor word that names the operand of a running command in the shadow range of an epoch (R118): a slot of the descriptor, or
the extension block. -/
def shadowWord (r : Run) (e : Epoch) : Option Nat :=
  let hit (x : Slot) (ps : List Part) : Bool := x.space = 2 && inBanks ps e.shadow e.nbanks
  match (List.range 3).find? fun n => hit (slot r.words n) (slotTouch r.words n) with
  | some n => some ((slot r.words n).first + 2)
  | none => match r.ext with
    | some (x :: xs) => if (List.range 3).any fun i => hit (extSlot (x :: xs) (3 + i)) (extParts r.words (x :: xs) (3 + i)) then some 31 else none
    | _ => none
/-- The commands of the context that are running as an epoch opens and still have accesses in its shadow range to make end with
`CMD_BAD_DESC` (R118); a command that only waits for other hives has none, but for the results of an ATOMIC. -/
def State.cutShadow (s : State) (c : Nat) (e : Epoch) : State :=
  (s.runsOf c).foldl (fun s r =>
    if r.phase ≥ 2 && !(opcodeOf r.words = 0x20 && copyMode r.words = 1) then s
    else match shadowWord r e with
    | some k => s.cutRun r.id St.badDesc (BitVec.ofNat 32 k)
    | none => s) s

/-- SPEC_BEGIN. -/
def State.specBegin (s : State) (r : Run) : State :=
  let c := r.id.ctx.val
  match s.specBeginBad c r.words with
  | some i => s.refuseRun r.id St.badDesc (BitVec.ofNat 32 i)
  | none =>
    let e := s.newEpoch r.words
    let s := e.streams.foldl (fun s x => s.specBit x.stream e.slot true) (s.cutShadow c e)
    (s.modCx c fun x => { x with epochs := x.epochs ++ [e] }).endRun r.id St.ok 0

/-- The tag that SPEC_COMMIT or SPEC_ABORT names. -/
def specNamed (w : List W32) : Byte := BitVec.ofNat 8 (fld (wd w 29) 31 24)

/-- A tagged command of an epoch runs: it has started and not yet completed (R49, R123, R124). -/
def State.specRunning (s : State) (c : Nat) (e : Epoch) : Bool := (s.runsOf c).any fun r => r.slot = some e.slot

/-- Two banks of a context change places in its spill area. -/
def State.swapSpill (s : State) (c cell a b : Nat) : State :=
  match s.spillPages c cell a true, s.spillPages c cell b true with
  | .ok ps, .ok qs => s.modMem fun m => (ps.zip qs).foldl (fun m p =>
      let k := s.ctxKey c
      let x := m.hbmBytes k (p.1 * 65536) 65536
      let old := m.hbmPoison
      let m := m.copyPage k p.2 p.1
      let m := (m.zeroPage k p.2).hbmWrite k (p.2 * 65536) x
      { m with hbmPoison := Tab.copy old (p.1 * 16384) (p.1 * 16384 + 16384) m.hbmPoison (p.2 * 16384) }) m
  | _, _ => s

/-- A written home bank takes its shadow's contents on a cell: the bank map swaps (R123). -/
def State.swapBanks (s : State) (c : Nat) (e : Epoch) (p : Nat × Nat) : State :=
  let b := p.2
  let d := e.shadow + (b - e.home)
  if (s.bankMap c p.1).isSome then
    s.modCell p.1 fun x => { x with res := x.res.map fun y =>
      if y.ctx = c then { y with map := setAt 0 (setAt 0 y.map b (y.map.getD d 0)) d (y.map.getD b 0) } else y }
  else if ((s.cell p.1).spillOf c).isSome then s.swapSpill c p.1 b d else s

/-- An epoch leaves its context; its fate is kept for R125. -/
def State.dropEpoch (s : State) (c : Nat) (e : Epoch) (aborted : Bool) : State :=
  let s := e.streams.foldl (fun s x => s.specBit x.stream e.slot false) s
  s.modCx c fun r => { r with epochs := r.epochs.filter fun x => x.slot ≠ e.slot,
                              fates := (r.fates.filter fun f => f.1 ≠ e.tag) ++ [(e.tag, aborted)] }

/-- The accept count, read in the epoch's view (R115, R123). -/
def State.acceptCount (s : State) (r : Run) (e : Epoch) : Except Err Nat := do
  let x := slot r.words 0
  if !x.used then return 0xFFFFFFFF
  let bs ← s.readBytes { r.who with tag := some e.tag } x.space (addr64 (x.row 0 0)) 4
  return ofBytes bs

/-- The one step of SPEC_COMMIT (R123). -/
def State.commitEpoch (s : State) (r : Run) (e : Epoch) : Except KvErr State := do
  let c := r.id.ctx.val
  let a ← kvLift (s.acceptCount r e)
  let s ← e.streams.foldlM (fun (s : State) x => s.kvCommit ⟨c, x.stream, some e.slot, none⟩ a) s
  let s := e.written.foldl (fun s p => s.swapBanks c e p) s
  let s := e.adds.foldl (fun s p => s.addCtr p.1 p.2) (s.dropEpoch c e false)
  return s.endRun r.id St.ok 0

/-- SPEC_COMMIT: it waits until no tagged command of the epoch runs; a marked epoch is refused (R123, R131). -/
def State.specCommit (s : State) (r : Run) : State :=
  let c := r.id.ctx.val
  match s.epoch c (some (specNamed r.words)) with
  | none => s.refuseRun r.id St.badDesc 29
  | some e =>
    if s.specRunning c e then s
    else if e.marked then (s.ctxErr c 5).refuseRun r.id St.badDesc 29
    else match s.commitEpoch r e with
    | .ok t => t
    | .error (x, _) => s.endRun r.id x.1 x.2

/-- The fetched tagged commands of an epoch that have not started take a status in place of running (R124, R126). -/
def State.discardTagged (s : State) (c : Nat) (tag : Byte) (st : Byte) (detail : W32) : State :=
  let hit (f : Fetched) : Bool := specV f.words && specTag f.words = tag && f.bad.isNone
  let ids := (List.range 4).flatMap fun q => ((s.qu c q).fetched.filter hit).map (cmdId c q)
  let mark (f : Fetched) : Fetched := if hit f then { f with bad := some (st, detail) } else f
  (List.range 4).foldl (fun s q => s.modQu c q fun r => { r with fetched := r.fetched.map mark }) (s.unpick fun id => ids.contains id)

/-- An epoch's shadows and pending adds are dropped (R124). -/
def State.abortEpoch (s : State) (c : Nat) (e : Epoch) : State :=
  (e.streams.foldl (fun s x => s.kvAbort ⟨c, x.stream, some e.slot, none⟩) s).dropEpoch c e true

/-- SPEC_ABORT: the epoch's tagged commands that have not started do not run any more, whenever they are fetched (R124). -/
def State.specAbort (s : State) (r : Run) : State :=
  let c := r.id.ctx.val
  match s.epoch c (some (specNamed r.words)) with
  | none => s.refuseRun r.id St.badDesc 29
  | some e =>
    let s := (s.discardTagged c e.tag St.specDiscarded (e.tag.setWidth 32)).modEpoch c e.slot fun x => { x with aborting := true }
    if s.specRunning c e then s else (s.abortEpoch c e).endRun r.id St.ok 0

/-! ### Steps (R330 to R335) -/

/-- The journal header that RECORD writes (R128). -/
def journalHeader (c : Nat) (w : List W32) : List Byte :=
  wordsToBytes ([0x4A524E31, BitVec.ofNat 32 c, wd w 29, wd w 30, devRev, 0, 64] ++ List.replicate 9 0)

/-- The step opens. -/
def State.openStep (s : State) (r : Run) (count used : Nat) : State :=
  let w := r.words
  s.modCx r.id.ctx.val fun c => { c with step :=
    { st := .opened, num := BitVec.ofNat 64 ((wd w 29).toNat + (wd w 30).toNat * 2 ^ 32), mode := BitVec.ofNat 2 (fld (wd w 31) 1 0),
      journal := (w.drop 8).take 7, fail := 0, count := count, used := used } }

/-- STEP_BEGIN after its checks: RECORD writes the header, REPLAY and RESUME read it (R331). -/
def State.stepOpen (s : State) (r : Run) : State :=
  let w := r.words
  let c := r.id.ctx.val
  let x := slot w 0
  let mode := fld (wd w 31) 1 0
  let go (s : State) : State := (s.modRun r.id fun t => { t with phase := 2 }).settle r.id
  if mode = 0 then go (s.openStep r 0 64)
  else if mode = 1 then s.orFail r do
    let s ← s.anyWrite r x.space x.base (journalHeader c w)
    return go (s.openStep r 0 64)
  else if r.phase = 0 && x.space = 5 then
    (s.issueLoads r [(0, x.base, 64)]).modRun r.id fun t => { t with phase := 1 }
  else if s.awaits r.id then s
  else match r.err, s.anyBytes r 0 x.space x.base 64 with
  | some e, _ => s.endRun r.id e.1 e.2
  | none, .error e => s.endRun r.id e.1 e.2
  | none, .ok bs =>
    let h := bytesToWords 16 bs
    if wd h 0 ≠ 0x4A524E31 || wd h 2 ≠ wd w 29 || wd h 3 ≠ wd w 30 then (s.ctxErr c 5).refuseRun r.id St.badDesc 29
    else
      let s := if wd h 4 = devRev then s else s.ctxErr c 7
      go (s.openStep r (wd h 5).toNat (min (wd h 6).toNat (x.d1 * 64)))

/-- STEP_BEGIN; a microcode activation that waits only for its switch, no step of the hive being open, holds it back (R336, R386). -/
def State.stepBegin (s : State) (r : Run) : State :=
  let c := s.cx r.id.ctx.val
  if r.phase ≥ 2 then s.settle r.id
  else if c.step.st = .opened || !c.epochs.isEmpty then s.refuseRun r.id St.badDesc 0
  else if r.phase = 0 && s.sec.uc = .waiting && !(s.ctx.any fun p => p.2.step.st = .opened) then s
  else s.stepOpen r

/-- The step of a context closes. -/
def State.closeStep (s : State) (c : Nat) : State := s.modCx c fun r => { r with step := { r.step with st := .none } }

def mirrorGa (w : List W32) : Nat := (wd w 30).toNat + (wd w 31).toNat * 2 ^ 32

/-- The bytes of slot 1 in stream order. -/
def State.mirrorBytes (s : State) (r : Run) : Except Err (List Byte) := do
  let x := slot r.words 1
  let rows ← (rowsOf x.d1 x.d2).mapM fun p => s.readBytes r.who x.space (addr64 (x.row p.1 p.2)) x.d0
  return rows.flatten

/-- The commit word as it stands (R334). -/
def State.commitWord (s : State) (r : Run) : Except Err Nat := do
  let x := slot r.words 0
  let bs ← s.readBytes r.who x.space (addr64 (x.row 0 0)) 8
  return ofBytes bs

/-- The mirror trailer (R335). -/
def trailerBytes (w0 : Nat) (num : W64) (data : List Byte) : List Byte :=
  wordsToBytes [0x4D495231] ++ toBytes 8 num.toNat ++ toBytes 4 ((w0 + 1) % 2) ++ toBytes 8 data.length ++
    toBytes 8 (crc64 0 data).toNat ++ List.replicate 32 0

/-- The mirror's stores, then its trailer's: `phase` 0 issues the first, 1 the second (R334, R335). -/
def State.mirrorStep (s : State) (r : Run) : Except Err State := do
  let data ← s.mirrorBytes r
  if r.phase = 0 then
    let s ← (s.swapPorts r [0] [gHive (mirrorGa r.words)]).anyWrite r 5 (mirrorGa r.words) data
    return s.modRun r.id fun t => { t with phase := 1 }
  else
    let w0 ← s.commitWord r
    let s ← s.anyWrite r 5 (mirrorGa r.words + pad64 data.length) (trailerBytes w0 (s.cx r.id.ctx.val).step.num data)
    return s.modRun r.id fun t => { t with phase := 2 }

/-- The commit itself: the commit word, the journal header, the step closed (R334, steps 3 to 5). -/
def State.commitStep (s : State) (r : Run) : Except Err State := do
  let x := slot r.words 0
  let st := (s.cx r.id.ctx.val).step
  let w0 ← s.commitWord r
  let s ← s.writeBytes r.who x.space (addr64 (x.row 0 0)) (toBytes 4 ((w0 % 2 ^ 32) ^^^ 1) ++ toBytes 4 st.num.toNat)
  let s ← if st.mode = 1 || st.mode = 3 then
      s.anyWrite r st.slot.space (st.slot.base + 20) (toBytes 4 st.count ++ toBytes 4 st.used) else .ok s
  return ((s.closeStep r.id.ctx.val).modRun r.id fun t => { t with phase := 3 }).settle r.id

/-- STEP_COMMIT: it waits for the other commands of its context and for the acknowledgements of the step's stores and
atomics; then it does what R334 lists, in order. A store of the mirror or of its trailer that is refused or poisoned ends it with that
status (R292) before anything later in the list, and the step fails (R333). -/
def State.stepCommit (s : State) (r : Run) : State :=
  let c := r.id.ctx.val
  let st := (s.cx c).step
  if r.phase = 3 then s.settle r.id
  else if st.st = .none || !(s.cx c).epochs.isEmpty then s.refuseRun r.id St.badDesc 0
  else if (s.runsOf c).any fun x => x.id ≠ r.id then s
  else if !(s.covered r).isEmpty then s.armFab r.id
  else if st.st = .failed then (s.closeStep c).endRun r.id St.stepFailed (st.fail.setWidth 32)
  else match r.err with
  | some e => s.endRun r.id e.1 e.2
  | none =>
    let s := s.modRun r.id fun t => { t with fabSince := none }
    let need := bit (wd r.words 29) 31 && r.phase < 2
    if need then
      let t := s.orFail r (s.mirrorStep r)
      if (t.covered r).isEmpty then t else t.armFab r.id
    else s.orFail r (s.commitStep r)

/-! ### The commands -/

/-- FENCE. -/
def execFence (id : CmdId) (s : State) : Host.Outcome State Fault Refusal := .next (s.onRun id (isOp 0x50) s.fence)
/-- FENCE_DRAIN_TIMEOUT. -/
def execFenceDrainTimeout (id : CmdId) (s : State) : Host.Outcome State Fault Refusal := .next (s.fabExpire id)
/-- EVENT_SIGNAL. -/
def execEventSignal (id : CmdId) (s : State) : Host.Outcome State Fault Refusal := .next (s.onRun id (isOp 0x51) s.eventSignal)
/-- EVENT_WAIT. -/
def execEventWait (id : CmdId) (s : State) : Host.Outcome State Fault Refusal := .next (s.onRun id (isOp 0x52) s.eventWait)
/-- EVENT_WAIT_TIMEOUT. -/
def execEventWaitTimeout (id : CmdId) (s : State) : Host.Outcome State Fault Refusal := .next (s.onRun id (isOp 0x52) s.eventExpire)
/-- TIMESTAMP. -/
def execTimestamp (id : CmdId) (s : State) : Host.Outcome State Fault Refusal := .next (s.onHub id (isOp 0x80) s.timestamp)
/-- SPEC_BEGIN. -/
def execSpecBegin (id : CmdId) (s : State) : Host.Outcome State Fault Refusal := .next (s.onRun id (isOp 0x60) s.specBegin)
/-- SPEC_COMMIT. -/
def execSpecCommit (id : CmdId) (s : State) : Host.Outcome State Fault Refusal := .next (s.onHub id (isOp 0x61) s.specCommit)
/-- SPEC_ABORT. -/
def execSpecAbort (id : CmdId) (s : State) : Host.Outcome State Fault Refusal := .next (s.onRun id (isOp 0x62) s.specAbort)
/-- STEP_BEGIN. -/
def execStepBegin (id : CmdId) (s : State) : Host.Outcome State Fault Refusal := .next (s.onRun id (isOp 0x70) s.stepBegin)
/-- STEP_COMMIT. -/
def execStepCommit (id : CmdId) (s : State) : Host.Outcome State Fault Refusal := .next (s.onRun id (isOp 0x71) s.stepCommit)

end Sys2Proof.Machine
end

