-- ==== Sys2Proof/Machine/Log.lean ====
section
/-! DEFINITION. What faults and repairs leave behind: counted corrected errors (R322),
requests for persistent writes (R359) and the retirement of pages (R220 to R222). -/

namespace Sys2Proof.Machine

/-- The life log accumulates (R424). -/
def State.logOn (s : State) : Bool := bit s.log.ctrl 31

/-- The error slot of a unit in the running month (R420). -/
def errSlot (unit minutes : Nat) : Nat := unit * 120 + minutes / 43800 % 120

/-- A corrected error of a unit is counted for its health score and in the life log (R322, R420). -/
def State.countError (s : State) (unit : Nat) : State :=
  let s := s.modUnit unit fun u => { u with errs := u.errs ++ [s.now] }
  if !s.logOn then s
  else s.modLog fun l => { l with acc := { l.acc with
    errors := Tab.set 0 l.acc.errors (errSlot unit l.acc.minutes.toNat)
      (Tab.get 0 l.acc.errors (errSlot unit l.acc.minutes.toNat) + 1) } }

/-- Corrected errors of a unit found together (R322). -/
def State.countErrors (s : State) (unit : Nat) : Nat → State
  | 0 => s
  | n + 1 => (s.countError unit).countErrors unit n

/-- A persistent write is requested (R359); a flush that waits already serves a further request (R422). -/
def State.askWrite (s : State) (w : PWrite) : State :=
  if w = .flush && s.power.writes.contains .flush then s
  else s.modPower fun p => { p with writes := p.writes ++ [w] }

/-! ### Rows and pages (R203, R218 to R222) -/

/-- The row that holds an HBM address, as page × 64 + pseudo-channel (R203). -/
def rowOf (addr : Nat) : Nat :=
  let o := addr % 65536
  addr / 65536 * 64 + ((o / 256 % 64) ^^^ (o / 4096 * 4)) % 64

/-- The bank of a local page PPN[23:4] (R203): consecutive local pages lie in different banks. -/
def hbmBank : Nat → BitVec 8
  | 0 => Config.bankOf 0
  | q + 1 => let b := Config.bankOf (q + 1); if b = hbmBank q then b + 1 else b

/-- The stack, pseudo-channel and bank of a row. -/
def rowStack (row : Nat) : Nat := stackOf (row / 64)
def rowBank (row : Nat) : Nat := rowStack row * 2 ^ 14 + row % 64 * 2 ^ 8 + (hbmBank (row / 1024)).toNat
/-- The row's number in its bank (R203). -/
def rowNumber (row : Nat) : Nat := Config.hbmRow (row / 1024)

/-- Hard repairs left in a row's bank (R223). -/
def MemRec.budgetLeft (m : MemRec) (bank : Nat) : Nat :=
  Config.repairBudget (bank / 2 ^ 14) (bank / 2 ^ 8 % 64) (bank % 2 ^ 8) - Tab.get 0 m.budget bank

/-- The record of a row. -/
def MemRec.row (m : MemRec) (r : Nat) : RowRec := Tab.get {} m.rows r
/-- The memories with a row's record changed. -/
def MemRec.modRow (m : MemRec) (r : Nat) (f : RowRec → RowRec) : MemRec := { m with rows := Tab.set {} m.rows r (f (m.row r)) }

/-- The rows on the pending list of a store die (R218, R223). -/
def State.pendingRows (s : State) (sd : Nat) : List Nat :=
  (s.mem.rows.filter fun p => p.2.soft && rowStack p.1 / 2 = sd).map (·.1)

/-- The valid entries of a table page of `n` entries; entries that cannot be read are passed over. -/
def State.tableOf (s : State) (ppn n : Nat) (leaf : Bool) : List (Nat × W64) :=
  (List.range n).filterMap fun i => match s.ptEntry ppn i with
    | .ok e => if ptGood leaf e then some (i, e) else none
    | .error _ => none

/-- The pages that a context's table maps, with W (R181, R403). -/
def State.mapped (s : State) (c : Nat) : List (Nat × Bool) :=
  (s.tableOf (s.cx c).ptRoot 256 false).flatMap fun a =>
    (s.tableOf (ptPpn a.2) 4096 false).flatMap fun b =>
      (s.tableOf (ptPpn b.2) 4096 true).map fun e => (ptPpn e.2, e.2.getLsbD 62)

/-- A page is retired (R220 to R222): it leaves the KV pool and every free list; a page that a context maps sets
PAGE_RETIRED in its store die's block; the entry is kept by a life-log flush. -/
def State.retirePage (s : State) (ppn reason : Nat) : State :=
  if s.mem.isRetired ppn then s
  else
    let e := BitVec.ofNat 32 (reason * 2 ^ 28 + ppn)
    let full := s.mem.retired.length ≥ 8192
    let inPool := Tab.get PoolPage.notPool s.mem.pool ppn ≠ .notPool
    let listed := s.ctx.any fun p => p.2.kvFree.contains ppn
    let s := s.modMem fun m =>
      let m := if full then { m with retiredOver := m.retiredOver ++ [ppn] }
        else { m with retired := m.retired ++ [e], retiredNew := m.retiredNew ++ [e] }
      if Tab.get PoolPage.notPool m.pool ppn = .free || listed then { m with pool := Tab.set .notPool m.pool ppn .notPool } else m
    let s := s.ctx.foldl (fun s p => if p.2.kvFree.contains ppn
      then s.modCx p.1 fun r => { r with kvFree := r.kvFree.filter fun q => q ≠ ppn } else s) s
    let s := if full then s.errSet pgMm 0 else s
    let s := if !inPool && s.ctx.any (fun p => p.2.st ≠ .free && (s.mapped p.1).any fun x => x.1 = ppn)
      then s.errSet (pgSd (stackOf ppn / 2)) 0 else s
    (s.logEvent 0x32 (unitStack (stackOf ppn)) (stackOf ppn) ppn).askWrite .flush

/-- What a trigger does with a row (R218); `spare` says whether the bank has a soft-repair resource left. -/
def State.rowTrigger (s : State) (row : Nat) (spare : Bool) : State :=
  let r := s.mem.row row
  let st := rowStack row
  if r.hard ≠ 0 then
    if s.mem.budgetLeft (rowBank row) ≠ 0 then
      ((s.modMem fun m => m.modRow row fun r => { r with soft := true, errs := [] }).askWrite .flush).askWrite (.hard row false)
    else s.retirePage (row / 64) 2
  else if !spare then s.retirePage (row / 64) 1
  else
    let s := s.modMem fun m => m.modRow row fun r => { r with soft := true, errs := [] }
    (s.logEvent 0x30 (unitStack st) (rowBank row) (rowNumber row)).askWrite .flush

/-- A corrected error in a row: counted, and the fourth within 24 h is a trigger (R218, R322). -/
def State.rowError (s : State) (row : Nat) (spare : Bool) : State :=
  let s := s.countError (unitStack (rowStack row))
  let near := (s.mem.row row).errs.filter fun t => s.now < t + 86400000000
  let s := s.modMem fun m => m.modRow row fun r => { r with errs := near ++ [s.now] }
  if near.length ≥ 3 then s.rowTrigger row spare else s

end Sys2Proof.Machine
end

