-- ==== Sys2Proof/Machine/Memory.lean ====
section
/-! DEFINITION. The memory management operations (R185 to R187), the BAR4 window (R442), the scrubbers (R177, R205), row
repair and page migration (R218 to R224), and the bandwidth regulators (R206 to R209). -/

namespace Sys2Proof.Machine
open Host

/-! ### Memory management operations (R187) -/

/-- The outcome of a memory management operation. -/
def State.mmResult (s : State) (st : Nat) : State := s.result pgMm 0x110 st
/-- MM_ARG0 to MM_ARG2. -/
def State.mmArg (s : State) (i : Nat) : W32 := s.rd pgMm (0x104 + 4 * i)
/-- The context of MM_ARG0; its other bits must be 0. -/
def State.mmCtx (s : State) (f : Nat → State) : State :=
  if fld (s.mmArg 0) 31 12 ≠ 0 then s.mmResult Rs.badConfig else f (fld (s.mmArg 0) 11 0)
/-- The PPN of MM_ARG0; its other bits must be 0. -/
def State.mmPage (s : State) (f : Nat → State) : State :=
  if fld (s.mmArg 0) 31 24 ≠ 0 then s.mmResult Rs.badPage else f (fld (s.mmArg 0) 23 0)

/-- A change that only an INVAL makes sure of (R184). -/
def MemRec.tick (m : MemRec) : MemRec := { m with serial := m.serial + 1 }

/-- INVAL (R184): the cached translations of a context and a range of pages are dropped. -/
def State.inval (s : State) : State :=
  s.mmCtx fun c => (s.modMem fun m => { m.tick with
    invals := m.invals ++ [⟨c, (s.mmArg 1).toNat, (s.mmArg 2).toNat, m.serial + 1⟩] }).mmResult Rs.ok

/-- KVL_SET: an `OPEN` context without a `LIVE` stream gets a record size. -/
def State.kvlSet (s : State) : State :=
  s.mmCtx fun c =>
    let k := fld (s.mmArg 1) 4 0
    if k < 1 || k > 16 then s.mmResult Rs.badConfig
    else if (s.cx c).st ≠ .opened || !(s.streamsOf c).isEmpty then s.mmResult Rs.ctxBusy
    else (s.modCx c fun r => { r with rslab := k }).mmResult Rs.ok

/-- KVL_READ. -/
def State.kvlRead (s : State) : State :=
  s.mmCtx fun c => (s.wr pgMm 0x114 (BitVec.ofNat 32 (s.cx c).rslab)).mmResult Rs.ok

/-- POOL_ADD: pages join the KV pool, all of them or none. -/
def State.poolAdd (s : State) : State :=
  s.mmPage fun p =>
    let n := (s.mmArg 1).toNat
    let hit (q : Nat) : Bool := p ≤ q && q < p + n
    if p + n > 2 ^ 24 || (s.mem.pool.any fun x => hit x.1) || (s.mem.retired.any fun e => hit (fld e 23 0)) ||
        s.mem.retiredOver.any hit || ((List.range (min n 256)).any fun i => !s.stackUp (stackOf (p + i)))
    then s.mmResult Rs.badPage
    else (s.modMem fun m => { m with pool := (m.pool.filter fun x => x.1 < p) ++
        ((List.range n).map fun i => (p + i, PoolPage.free)) ++ m.pool.filter fun x => p + n ≤ x.1 }).mmResult Rs.ok

/-- Pages of a slice's direct area (R190). -/
def State.directPages (s : State) : Nat := fld (s.rd pgMm 0x118) 3 0 * 48
/-- The direct pages that MM_ARG1 and MM_ARG2 name, unless one lies beyond the direct area. -/
def State.directRange (s : State) : Option (List Nat) :=
  let d := (s.mmArg 1).toNat
  let n := (s.mmArg 2).toNat
  if d + n > 3072 then none
  else
    let l := (List.range n).map fun i => d + i
    if l.any fun i => i % 384 ≥ s.directPages then none else some l

/-- DIR_ASSIGN: direct pages of an `OPEN` context (R191). -/
def State.dirAssign (s : State) : State :=
  s.mmCtx fun c =>
    if (s.cx c).st ≠ .opened then s.mmResult Rs.ctxBusy
    else match s.directRange with
    | none => s.mmResult Rs.noSpace
    | some l =>
      if l.any fun d => (Tab.get none s.mem.directOwner d).isSome then s.mmResult Rs.badPage
      else (s.modMem fun m => { m with
        directOwner := l.foldl (fun t d => Tab.set none t d (some c)) m.directOwner }).mmResult Rs.ok

/-- A direct page zeroed and freed (R187, R191). -/
def MemRec.freeDirect (m : MemRec) (d : Nat) : MemRec :=
  let a := d / 384 * 2 ^ 26 + d % 384 * 65536
  { m with direct := Tab.clear m.direct a (a + 65536), directPoison := Tab.clear m.directPoison (a / 4) (a / 4 + 16384),
           directOwner := Tab.set none m.directOwner d none }

/-- DIR_RELEASE: pages beyond the direct area are refused as DIR_ASSIGN refuses them (DEDUCED, log entry 25). -/
def State.dirRelease (s : State) : State :=
  match s.directRange with
  | none => s.mmResult Rs.noSpace
  | some l => (s.modMem fun m => l.foldl MemRec.freeDirect m).mmResult Rs.ok

/-- RET_READ (R222). Beyond RET_COUNT the manual states no entry: a free value (log entry 4). -/
def State.retRead (s : State) : State :=
  match s.mem.retired[(s.mmArg 0).toNat]? with
  | some e => (s.wr pgMm 0x114 e).mmResult Rs.ok
  | none => (s.draw.wr pgMm 0x114 (Config.freeWord s.free 0)).mmResult Rs.ok

/-- A page that no table operation may name (R187, R202). -/
def State.badTable (s : State) (p : Nat) : Bool :=
  Tab.get PoolPage.notPool s.mem.pool p ≠ .notPool || (s.mem.retired.any fun e => fld e 23 0 = p) || !s.stackUp (stackOf p)
/-- The entry index of MM_ARG1. -/
def State.ptIndex (s : State) : Nat := fld (s.mmArg 1) 11 0
/-- The value that an entry had, where a guard may still hold it (R184). -/
def State.noteOld (s : State) (p i : Nat) (new : W64) : State :=
  match s.ptEntry p i with
  | .ok e => if e.getLsbD 63 && e ≠ new then s.modMem fun m => { m.tick with oldPt := m.oldPt ++ [⟨p, i, e, m.serial + 1⟩] } else s
  | .error _ => s

/-- PT_WRITE. -/
def State.ptWrite (s : State) : State :=
  s.mmPage fun p =>
    if s.badTable p then s.mmResult Rs.badPage
    else
      let e := BitVec.ofNat 64 ((s.rd pgMm 0x144).toNat * 2 ^ 32 + (s.rd pgMm 0x140).toNat)
      ((s.noteOld p s.ptIndex e).modMem fun m =>
        m.hbmWrite s.ptKey (p * 65536 + 8 * s.ptIndex) (toBytes 8 e.toNat)).mmResult Rs.ok

/-- PT_READ. A poisoned entry cannot be read and the manual states no outcome for it: a free value (log entry 4). -/
def State.ptRead (s : State) : State :=
  s.mmPage fun p =>
    if s.badTable p then s.mmResult Rs.badPage
    else
      let (e, t) := match s.ptEntry p s.ptIndex with
        | .ok e => (e, s)
        | .error _ => (BitVec.ofNat 64 ((Config.freeWord s.free 0).toNat * 2 ^ 32 + (Config.freeWord s.free 1).toNat), s.draw)
      ((t.wr pgMm 0x140 (BitVec.ofNat 32 e.toNat)).wr pgMm 0x144 (BitVec.ofNat 32 (e.toNat / 2 ^ 32))).mmResult Rs.ok

/-- PT_CLEAR. -/
def State.ptClear (s : State) : State :=
  s.mmPage fun p =>
    if s.badTable p then s.mmResult Rs.badPage
    else
      let t := (List.range 4096).foldl (fun t i => t.noteOld p i 0) s
      (t.modMem fun m => m.hbmWrite s.ptKey (p * 65536) (List.replicate 32768 0)).mmResult Rs.ok

/-! ### BAR4 (R442) -/

/-- The size of BAR4 in bytes; 0 where it is disabled (R438). -/
def State.bar4Size (s : State) : Nat := if s.boot.bar4 = 0 then 0 else 2 ^ (20 + s.boot.bar4)
/-- The context and the virtual address of a BAR4 offset, while the window is enabled on a context that is not `FREE`; the base is aligned
to the size of BAR4 (R442). -/
def State.bar4At (s : State) (off : Nat) : Option (Nat × Nat) :=
  let c := fld (s.rd pgMm 0x130) 11 0
  if bit (s.rd pgMm 0x130) 31 && s.pageUse pgMm && (s.cx c).st ≠ .free then
    some (c, ((s.rd pgMm 0x134).toNat + fld (s.rd pgMm 0x138) 15 0 * 2 ^ 32) / s.bar4Size * s.bar4Size + off)
  else none

/-- A translated BAR4 access as it is served: a read returns its bytes or completes as Completer Abort, a write that would fault is
discarded; `none` while its HBM is not served (R207, R382). -/
def State.bar4Serve (s : State) (x : HostAcc) : Option State :=
  let w : Who := ⟨x.ctx, 0, none, none⟩
  match x.data with
  | none => match s.readBytes w 1 x.addr x.len with
    | .ok bs => some (s.emit (.readDone bs))
    | .error e => if e.1 = St.notYet then none else some (s.emit .completerAbort)
  | some bs => match s.writeBytes w 1 x.addr bs with
    | .ok t => some t
    | .error e => if e.1 = St.notYet then none else some s

/-- The BAR4 accesses that wait are served, in order, as far as they can be (log entry 82). -/
def State.bar4Drain (s : State) : List HostAcc → State
  | [] => s.modMem fun m => { m with bar4 := [] }
  | x :: t => match s.bar4Serve x with
    | some u => u.bar4Drain t
    | none => s.modMem fun m => { m with bar4 := x :: t }
/-- The waiting accesses tried again; those that a fence has overtaken are answered or discarded as it says (R325). -/
def State.bar4Wake (s : State) : State :=
  if s.fenced then s.mem.bar4.foldl (fun s x => if x.data.isNone then s.emit .unsupported else s) (s.modMem fun m => { m with bar4 := [] })
  else s.bar4Drain s.mem.bar4

/-- A host access through BAR4 (R442), behind those that wait; Unsupported Request while fenced (R325), and beyond the BAR's size. -/
def State.bar4Access (s : State) (off len : Nat) (data : Option (List Byte)) : State :=
  if s.fenced || s.bar4Size ≤ off then (if data.isNone then s.emit .unsupported else s)
  else match s.bar4At off with
  | none => if data.isNone then s.emit .completerAbort else s
  | some (c, a) => s.bar4Drain (s.mem.bar4 ++ [⟨c, a, len, data⟩])
/-- A host read through BAR4. -/
def State.bar4Read (s : State) (off len : Nat) : State := s.bar4Access off len none
/-- A host write through BAR4. -/
def State.bar4Write (s : State) (off : Nat) (bs : List Byte) : State := s.bar4Access off bs.length (some bs)

/-! ### Scrubbing (R177, R205) -/

/-- A word of HBM scrubbed through partition 63 (R205): an error corrected and counted, or the word poisoned; either may trigger a
repair. An error that the stack's on-die ECC reports is counted to the stack (R201; log entry 83). -/
def State.patrol (s : State) (word : Nat) (f : BitFault) (spare : Bool) : State :=
  let a := 4 * word
  if !s.stackUp (stackOf (a / 65536)) || s.starved ownPart word then s
  else match f with
  | .clean => s
  | .report => s.countError (unitStack (stackOf (a / 65536)))
  | .single => s.rowError (rowOf a) spare
  | .double => (s.modMem fun m => { m with hbmPoison := Tab.set false m.hbmPoison word true, lines := m.lines.filter fun x => x ≠ word }).rowTrigger
      (rowOf a) spare

/-- A word of a cell's partition scrubbed. -/
def State.spadScrub (s : State) (cell word : Nat) (f : BitFault) : State :=
  if !s.cellReady cell then s
  else match f with
  | .clean | .report => s
  | .single => match s.physOf cell with | some p => s.countError (unitPhys p) | none => s
  | .double => s.modMem fun m => { m with spadPoison := Tab.set false m.spadPoison (cell * 2 ^ 22 + word) true }

/-- A word of HBM found uncorrectable in a cache line of a slice, which caches its own stacks only (R188, R205). -/
def State.poisonLine (s : State) (slice h : Nat) : State :=
  if h < 2 ^ 38 && stackOf (4 * h / 65536) / 2 = slice then
    s.modMem fun m => { m with hbmPoison := Tab.set false m.hbmPoison h true, lines := if m.lines.contains h then m.lines else m.lines ++ [h] }
  else s

/-- A word of a slice of 48 MiB scrubbed (R205): of its direct area, which comes first (R190), or of a cache line, which holds a free word
of the slice's HBM (log entry 13). -/
def State.cacheScrub (s : State) (slice word : Nat) (f : BitFault) : State :=
  if !s.boot.sdReady.getLsbD slice || 4 * word ≥ 48 * 2 ^ 20 then s
  else match f with
  | .clean | .report => s
  | .single => s.countError (unitSd slice)
  | .double =>
    if 4 * word < s.directPages * 65536 then
      s.modMem fun m => { m with directPoison := Tab.set false m.directPoison (slice * 2 ^ 24 + word) true }
    else match Config.cacheLine s.free slice word with
      | some h => s.draw.poisonLine slice h
      | none => s.draw

/-! ### Migration of a retired KV page (R220) -/

/-- Every word of an index page that names `p` made to name `q`. -/
def State.renameIn (s : State) (c p q idx : Nat) : State :=
  let k := s.ctxKey c
  let at_ (off : Nat) : Nat := idx * 65536 + off
  let rd (m : MemRec) (off : Nat) : Nat := ofBytes (m.hbmBytes k (at_ off) 4)
  let nl := min (rd s.mem 8) 1008
  let ns := min (rd s.mem 12) 240
  let offs := [0] ++ ((List.range ns).map fun j => 0x40 + 4 * j) ++
    ((List.range nl).map fun l => (List.range (s.cx c).rslab).map fun j => 0x400 + l * 64 + 4 * j).flatten
  s.modMem fun m => offs.foldl (fun m off => if rd m off = p then m.hbmWrite k (at_ off) (toBytes 4 q) else m) m

/-- The views of a stream: the committed one and those of the open epochs that name it. -/
def State.viewsOf (s : State) (n : Nat) : List KvView :=
  let c := (s.stm n).ctx
  ⟨c, n, none, none⟩ :: ((s.cx c).epochs.filter fun e => e.streams.any fun x => x.stream = n).map fun e => ⟨c, n, some e.slot, none⟩

/-- The index pages of every view of a stream, as they lie in memory. -/
def State.allIndexes (s : State) (n : Nat) : List Nat :=
  ((s.viewsOf n).flatMap fun v => match s.kvIndexes v with
    | .ok l => l.map fun p => s.kvPage v p.2
    | .error _ => []).eraseDups

/-- A page number replaced wherever the hub itself names it for a stream. -/
def State.renameRefs (s : State) (n p q : Nat) : State :=
  let sub (x : Nat) : Nat := if x = p then q else x
  let s := s.modStm n fun m => if m.kvHas && m.kvHead.toNat = p then { m with kvHead := BitVec.ofNat 24 q } else m
  s.modCx (s.stm n).ctx fun r => { r with epochs := r.epochs.map fun e => { e with streams := e.streams.map fun x =>
    if x.stream = n then { x with head := x.head.map sub, map := x.map.map fun m => (sub m.1, sub m.2), fresh := x.fresh.map sub }
    else x } }

/-- No KV command of a stream is running: KV_WRITE, SCOUT and GATHER_KV name one. -/
def State.kvIdle (s : State) (n : Nat) : Bool :=
  !(s.runs.any fun r => r.res.isNone && streamOf r.words = n &&
    (opcodeOf r.words = 0x32 || opcodeOf r.words = 0x33 || (opcodeOf r.words = 0x20 && copyMode r.words = 2)))

/-- The retired page `p` of a stream's chain is copied to a newly allocated page, and the index names that one. Where the
allocation fails, the page stays in use, and neither KV_QUOTA nor KV_POOL_EMPTY is set: the model's choice (log entry 95). -/
def State.kvMigrate (s : State) (n p : Nat) : State :=
  let m := s.stm n
  let held (x : EpStream) : Bool := x.stream = n && ((x.map.any fun y => y.2 = p) || x.fresh.contains p)
  let used := (s.chainPages n).contains p || (s.cx m.ctx).epochs.any fun e => e.streams.any held
  if !m.live || !s.mem.isRetired p || !used || !s.kvIdle n || !s.stackUp (stackOf p) || s.starved (s.cx m.ctx).bwPart p then s
  else match s.kvTake m.ctx with
  | .error _ => s
  | .ok (q, s) =>
    let s := s.modMem fun x => x.copyPage (s.ctxKey m.ctx) p q
    let s := (s.allIndexes n).foldl (fun s i => s.renameIn m.ctx p q (if i = p then q else i)) s
    let s := s.renameRefs n p q
    let s := s.modMem fun x => { x with pool := Tab.set .notPool x.pool p .notPool }
    s.modCx m.ctx fun r => { r with kvUsed := r.kvUsed - 1 }

/-! ### Repair commands of a store die (R218, R223, R224) -/

/-- The page of a store die can be used. -/
def State.onSd (s : State) (n : Nat) (f : State → State) : State := s.onPage (pgSd n) f

/-- A HARD_GO of the die has rows left to repair. -/
def Power.goes (p : Power) (n : Nat) : Bool :=
  (p.writes ++ p.running.toList).any fun w => match w with | .hard r true => rowStack r / 2 = n | _ => false

/-- HARD_GO (R218, R223): a hard repair of every pending row is requested. `REP_RESULT` is busy until the last has run. -/
def State.hardGo (s : State) (n : Nat) : State :=
  if s.power.goes n then s
  else match s.pendingRows n with
  | [] => s.result (pgSd n) 0x118 Rs.ok
  | l => (l.foldl (fun s r => s.askWrite (.hard r true)) s).wr (pgSd n) 0x118 (BitVec.ofNat 32 (2 ^ 31))

/-- BUDGET (R223): the hard repairs left to the bank of `REP_ARG`. -/
def State.repBudget (s : State) (n : Nat) : State :=
  if s.power.goes n then s
  else
    let a := s.rd (pgSd n) 0x114
    let bank := (2 * n + b2n (bit a 31)) * 2 ^ 14 + fld a 29 24 * 2 ^ 8 + fld a 23 16
    (s.wr (pgSd n) 0x120 (BitVec.ofNat 32 (min 255 (s.mem.budgetLeft bank)))).result (pgSd n) 0x118 Rs.ok

/-- The stacks of a die taken out of service while `T1500_CTRL` bit 0 is 1 (R224); its readiness changes with them (R431). -/
def State.stacksOut (s : State) (n : Nat) (out : Bool) : State :=
  let t := s.modBoot fun b => { b with stackOut :=
    if out then b.stackOut ||| BitVec.ofNat 16 (3 * 2 ^ (2 * n)) else b.stackOut &&& ~~~ (BitVec.ofNat 16 (3 * 2 ^ (2 * n))) }
  t.bar4Wake.noteReady s

/-- An access to the IEEE 1500 wrapper (R224): it works only while a token has unlocked STACK. What the wrapper answers
is JEDEC's, a free value (log entry 4). -/
def State.t1500 (s : State) (n : Nat) (data : Bool) (write : Option W32) : State :=
  let on := s.sec.dbg = .unlocked && s.sec.scope.getLsbD 0
  let rel := if data then 0x144 else 0x140
  match write with
  | some v => if !on then s else if data then s.wr (pgSd n) rel v else (s.wr (pgSd n) rel v).stacksOut n (bit v 0)
  | none =>
    if !on then s.emit (.readDone (toBytes 4 0))
    else if data then s.draw.emit (.readDone (toBytes 4 (Config.freeWord s.free 0).toNat))
    else s.emit (.readDone (toBytes 4 (s.rd (pgSd n) rel).toNat))

/-! ### Bandwidth regulators (R207) -/

/-- The buckets of a partition of a stack. -/
def State.bucket (s : State) (st p : Nat) : Bucket := Tab.get {} s.buckets (st * 64 + p)
/-- A partition's buckets after one cycle's tokens. -/
def State.refilled (s : State) (st p : Nat) : Bucket :=
  let b := s.bucket st p
  ⟨min (b.g + 5 * min (s.bwMin p) (s.bwCap p)) (s.bwDepth p), min (b.c + 5 * s.bwCap p) (s.bwDepth p)⟩

/-- The first partition after `last`, in round-robin order, that satisfies `f`. -/
def rrNext (last : Nat) (f : Nat → Bool) : Option Nat := ((List.range 64).map fun i => (last + 1 + i) % 64).find? f

/-- A partition may have requests waiting: 63, and one that a context names (R12). -/
def State.named (s : State) (p : Nat) : Bool := p = ownPart || s.ctx.any fun x => x.2.st ≠ .free && x.2.bwPart = p
/-- A partition takes a sector slot: its requests wait, its cap tokens cover a sector, and its CAP is not 0 (R207). -/
def State.maySlot (s : State) (st : Nat) (waiting : W64) (p : Nat) : Bool :=
  waiting.getLsbD p && s.named p && s.bwCap p ≠ 0 && (s.bucket st p).c ≥ 64

/-- The partition that a sector slot of a stack goes to: guaranteed first, then excess (R207). -/
def State.slotPick (s : State) (st : Nat) (waiting : W64) : Option Nat :=
  let last := Tab.get 63 s.rrStack st
  (rrNext last fun p => s.maySlot st waiting p && (s.bucket st p).g ≥ 64).or (rrNext last (s.maySlot st waiting))

/-- One sector slot of a stack's controller: its partition draws 64 bytes (R206, R207). -/
def State.sectorSlot (s : State) (st : Nat) (waiting : W64) : State :=
  match s.slotPick st waiting with
  | none => s
  | some p =>
    let b := s.bucket st p
    { s with buckets := Tab.set {} s.buckets (st * 64 + p) ⟨if b.g ≥ 64 then b.g - 64 else b.g, b.c - 64⟩
             rrStack := Tab.set 63 s.rrStack st p }

/-- The sector slots of a stack's cycle: half of them while the stack or its store die is throttled (R361). -/
def State.slotsOf (s : State) (st : Nat) : Nat := if s.power.hot (34 + st) || s.power.hot (24 + st / 2) then 10 else 20
/-- One store-die cycle of a stack's regulator: tokens, then its sector slots, each with the partitions that wait at it (log entry 82). -/
def State.regulate (s : State) (st : Nat) (slots : List W64) : State :=
  let t := (slots.take (s.slotsOf st)).foldl (fun t w => t.sectorSlot st w)
    ((List.range 64).foldl (fun t p => { t with buckets := Tab.set {} t.buckets (st * 64 + p) (t.refilled st p) }) s)
  t.bar4Wake

/-! ### The commands -/

/-- INVAL. -/
def execInval (s : State) : Host.Outcome State Fault Refusal := .next (s.onPage pgMm State.inval)
/-- KVL_SET. -/
def execKvlSet (s : State) : Host.Outcome State Fault Refusal := .next (s.onPage pgMm State.kvlSet)
/-- KVL_READ. -/
def execKvlRead (s : State) : Host.Outcome State Fault Refusal := .next (s.onPage pgMm State.kvlRead)
/-- POOL_ADD. -/
def execPoolAdd (s : State) : Host.Outcome State Fault Refusal := .next (s.onPage pgMm State.poolAdd)
/-- DIR_ASSIGN. -/
def execDirAssign (s : State) : Host.Outcome State Fault Refusal := .next (s.onPage pgMm State.dirAssign)
/-- DIR_RELEASE. -/
def execDirRelease (s : State) : Host.Outcome State Fault Refusal := .next (s.onPage pgMm State.dirRelease)
/-- RET_READ. -/
def execRetRead (s : State) : Host.Outcome State Fault Refusal := .next (s.onPage pgMm State.retRead)
/-- PT_WRITE. -/
def execPtWrite (s : State) : Host.Outcome State Fault Refusal := .next (s.onPage pgMm State.ptWrite)
/-- PT_READ. -/
def execPtRead (s : State) : Host.Outcome State Fault Refusal := .next (s.onPage pgMm State.ptRead)
/-- PT_CLEAR. -/
def execPtClear (s : State) : Host.Outcome State Fault Refusal := .next (s.onPage pgMm State.ptClear)
/-- BAR4_READ. -/
def execBar4Read (off : BitVec 40) (len : Nat) (s : State) : Host.Outcome State Fault Refusal := .next (s.bar4Read off.toNat len)
/-- BAR4_WRITE. -/
def execBar4Write (off : BitVec 40) (data : List Byte) (s : State) : Host.Outcome State Fault Refusal :=
  .next (s.bar4Write off.toNat data)
/-- PATROL_SCRUB. -/
def execPatrolScrub (word : BitVec 38) (fault : BitFault) (spare : Bool) (s : State) : Host.Outcome State Fault Refusal :=
  .next (s.patrol word.toNat fault spare)
/-- SPAD_SCRUB. -/
def execSpadScrub (cell : Fin 128) (word : BitVec 22) (fault : BitFault) (s : State) : Host.Outcome State Fault Refusal :=
  .next (s.spadScrub cell.val word.toNat fault)
/-- CACHE_SCRUB. -/
def execCacheScrub (slice : Fin 8) (word : BitVec 24) (fault : BitFault) (s : State) : Host.Outcome State Fault Refusal :=
  .next (s.cacheScrub slice.val word.toNat fault)
/-- KV_PAGE_MIGRATE. -/
def execKvPageMigrate (stream : Fin 16384) (ppn : BitVec 24) (s : State) : Host.Outcome State Fault Refusal :=
  .next (s.kvMigrate stream.val ppn.toNat)
/-- HARD_GO. -/
def execHardGo (sd : Fin 8) (s : State) : Host.Outcome State Fault Refusal := .next (s.onSd sd.val fun s => s.hardGo sd.val)
/-- BUDGET. -/
def execBudget (sd : Fin 8) (s : State) : Host.Outcome State Fault Refusal := .next (s.onSd sd.val fun s => s.repBudget sd.val)
/-- T1500_ACCESS: a page that is not ready reads as 0 and discards writes (R382); a fenced hive answers no read (R325). -/
def execT1500Access (sd : Fin 8) (data : Bool) (write : Option W32) (s : State) : Host.Outcome State Fault Refusal :=
  .next (if s.pageUse (pgSd sd.val) then s.t1500 sd.val data write
    else match write with
      | some _ => s
      | none => if s.fenced then s.emit .unsupported else s.emit (.readDone (toBytes 4 0)))
/-- REGULATOR_CYCLE. -/
def execRegulatorCycle (stack : Fin 16) (waiting : List W64) (slot : Fin 21) (s : State) : Host.Outcome State Fault Refusal :=
  .next (s.regulate stack.val (waiting.take slot.val))

end Sys2Proof.Machine
end

