-- ==== Sys2Proof/Machine/Cells.lean ====
section
/-! DEFINITION. Cells leaving service: retirement, the spare and renumbering (R339), absence (R11), via failures (R340). -/

namespace Sys2Proof.Machine
open Host

/-- The logical cells of a comb. -/
def combCells (comb : Nat) : List Nat := (List.range 16).map fun i => comb * 16 + i
/-- The logical cell that a physical cell of a comb holds. -/
def State.logicalOf (s : State) (comb p : Nat) : Option Nat := (combCells comb).find? fun c => (s.cell c).phys = some p
/-- The highest present logical cell of a comb. -/
def State.highest (s : State) (comb : Nat) : Option Nat := (combCells comb).reverse.find? fun c => (s.cell c).phys.isSome

/-- The commands running on a logical cell end with `CMD_ECC` and a unit; a picked one goes back to the ready ones. -/
def State.cutCell (s : State) (c unit : Nat) : State :=
  let s := s.runs.foldl (fun s r => if r.cell = some c || r.partner = some c then s.cutRun r.id St.ecc (BitVec.ofNat 32 unit) else s) s
  s.unpick fun id => (s.cell c).picked = some id

/-- SPAD_LOST for every context with banks resident on a logical cell (R339). -/
def State.spadLost (s : State) (c : Nat) : State := (s.cell c).res.foldl (fun s r => s.ctxErr r.ctx 8) s

/-- The scratchpad partition of a logical cell zeroed, with every saved cell state in it (R33, R339). -/
def State.wipeCell (s : State) (c : Nat) : State :=
  let s := s.modMem fun m => { m with
    spad := Tab.clear m.spad (c * 2 ^ 24) ((c + 1) * 2 ^ 24)
    spadPoison := Tab.clear m.spadPoison (c * 2 ^ 22) ((c + 1) * 2 ^ 22) }
  s.modCell c fun r => { r with acc := {}, saved := [] }

/-- A cell BIST rebuilds the `DEGRADED` marks of a physical cell; a bank newly marked is logged (R179, R421). -/
def State.markBanks (s : State) (p : Nat) (deg : W64) : State :=
  let new := (List.range 64).filter fun k => deg.getLsbD k && !(s.physCell p).degraded.getLsbD k
  new.foldl (fun (s : State) k => s.logEvent 0x23 (unitPhys p) k 0) (s.modPhys p fun r => { r with degraded := deg })

/-- NO_CELLS of every context (R11). -/
def State.noteNoCells (s : State) : State := s.ctx.foldl (fun s p => s.noCells p.1) s

/-- A logical cell becomes absent (R11, R339): its banks are lost and it leaves its reserve pair. -/
def State.absentCell (s : State) (c : Nat) : State :=
  let s := (s.spadLost c).wipeCell c
  let s := s.modCell c fun r => { r with phys := none, ready := false, takeover := false, held := false, res := [], cur := none }
  (s.leavePair c).noteNoCells

/-- CELL_LOSS of a comb with fewer than 16 cells (R339). -/
def State.cellLoss (s : State) (comb : Nat) : State :=
  if (combCells comb).all fun c => (s.cell c).phys.isSome then s else s.errSet (pgComb comb) 0

/-- The comb's spare may take a number. -/
def State.spareFree (s : State) (comb : Nat) : Bool := !(s.physCell (comb * 17 + 16)).retired && (s.logicalOf comb 16).isNone

/-- A physical cell's logical number goes to the spare, or else to the cell that holds the highest number (R339). -/
def State.renumber (s : State) (comb l : Nat) : State :=
  let s := s.cutCell l (0x500 + l)
  if s.spareFree comb then
    let s := (s.spadLost l).wipeCell l
    (s.modCell l fun r => { r with phys := some 16, takeover := true, held := false }).logEvent 0x21 (unitPhys (comb * 17 + 16)) l 0
  else match s.highest comb with
  | none => s
  | some h =>
    if h = l then s.absentCell l
    else
      let p := (s.cell h).phys
      let s := ((s.cutCell h (0x500 + h)).spadLost l).wipeCell l
      (s.modCell l fun r => { r with phys := p, held := false }).absentCell h

/-- A physical cell of a comb is retired (R339). -/
def State.retireCell (s : State) (comb p : Nat) : State :=
  if (s.physCell (comb * 17 + p)).retired then s
  else
    let s := s.modPhys (comb * 17 + p) fun r => { r with retired := true }
    let s := (s.logEvent 0x20 (unitPhys (comb * 17 + p)) p 0).askWrite .flush
    match s.logicalOf comb p with
    | none => s
    | some l => (s.renumber comb l).cellLoss comb

/-- The comb's spare has taken the number over (R339). -/
def State.takeoverDone (s : State) (comb : Nat) : State :=
  match s.logicalOf comb 16 with
  | some l => let t := s.modCell l fun r => { r with takeover := false }; t.noteReady s
  | none => s

/-- A via of a bundle fails (R340): a spare via replaces it; past the fourth, the bank is `DEGRADED` (R179), or the cell is
retired. A power or clock via is logged only. -/
def State.viaFail (s : State) (b : ViaBundle) : State :=
  match b with
  | .power c => s.logEvent 0x22 (unitComb c.val) 0 0
  | .bankData p k =>
    let used := Tab.get 0 (s.physCell p.val).vias k.val
    if used < 4 then (s.modPhys p.val fun r => { r with vias := Tab.set 0 r.vias k.val (used + 1) }).logEvent 0x22 (unitPhys p.val) k.val 0
    else (s.modPhys p.val fun r => { r with degraded := r.degraded ||| BitVec.ofNat 64 (2 ^ k.val) }).logEvent 0x23 (unitPhys p.val) k.val 0
  | .control p =>
    let used := Tab.get 0 (s.physCell p.val).vias 64
    if used < 4 then (s.modPhys p.val fun r => { r with vias := Tab.set 0 r.vias 64 (used + 1) }).logEvent 0x22 (unitPhys p.val) 64 0
    else let t := s.retireCell (p.val / 17) (p.val % 17); t.noteReady s

/-! ### The commands -/

/-- VIA_FAILURE. -/
def execViaFailure (bundle : ViaBundle) (s : State) : Host.Outcome State Fault Refusal := .next (let t : State := s.viaFail bundle; t.notify s)
/-- SPARE_TAKEOVER_DONE. -/
def execSpareTakeoverDone (comb : Fin 8) (s : State) : Host.Outcome State Fault Refusal := .next (s.takeoverDone comb.val)

end Sys2Proof.Machine
end

