-- ==== Sys2Proof/Machine/Ports.lean ====
section
/-! DEFINITION. The Chaver ports: flits on the wire (R260 to R263, R400), member selection and routing (R271, R276 to
R279), the injection of messages (R281 to R284), arbitration (R269), training and the cable check (R264 to R267),
handovers (R272 to R274), and the routing-table commands (R281). -/

namespace Sys2Proof.Machine
open Host

/-! ### Flits (R261) -/

/-- Exactly `n` bytes: cut, or filled with zeros. -/
def fit (n : Nat) (bs : List Byte) : List Byte := bs.take n ++ List.replicate (n - bs.length) 0

/-- The header words of a flit. -/
def Flit.header (f : Flit) : List Byte := wordsToBytes
  [BitVec.ofNat 32 (f.dst.toNat * 2 ^ 16 + f.src.toNat),
   BitVec.ofNat 32 (f.type.toNat * 2 ^ 28 + f.tc.toNat * 2 ^ 25 + b2n f.vcd * 2 ^ 24 + b2n f.mc * 2 ^ 23 + f.hops.toNat * 2 ^ 16 +
     f.len.toNat * 2 ^ 8 + f.key.toNat),
   BitVec.ofNat 32 (f.lseq.toNat * 2 ^ 16 + f.ackSeq.toNat),
   BitVec.ofNat 32 (b2n f.ackV * 2 ^ 31 + b2n f.nak * 2 ^ 30 + f.xoff.toNat * 2 ^ 12 + f.otc.toNat)]

/-- The 256 bytes of a flit with a payload area of 236 bytes. -/
def wireOf (f : Flit) (area : List Byte) : List Byte :=
  let b := f.header ++ fit 236 area
  b ++ toBytes 4 (crc32 b).toNat

/-- The fields of 256 received bytes. -/
def parseFlit (b : List Byte) : Flit :=
  let w (i : Nat) : W32 := wd (bytesToWords 4 b) i
  { dst := BitVec.ofNat 16 (fld (w 0) 31 16), src := BitVec.ofNat 16 (fld (w 0) 15 0), type := BitVec.ofNat 4 (fld (w 1) 31 28)
    tc := BitVec.ofNat 3 (fld (w 1) 27 25), vcd := bit (w 1) 24, mc := bit (w 1) 23, hops := BitVec.ofNat 7 (fld (w 1) 22 16)
    len := BitVec.ofNat 8 (fld (w 1) 15 8), key := BitVec.ofNat 8 (fld (w 1) 7 0), lseq := BitVec.ofNat 16 (fld (w 2) 31 16)
    ackSeq := BitVec.ofNat 16 (fld (w 2) 15 0), ackV := bit (w 3) 31, nak := bit (w 3) 30, xoff := BitVec.ofNat 12 (fld (w 3) 23 12)
    otc := BitVec.ofNat 3 (fld (w 3) 2 0), payload := (b.drop 16).take (min 236 (fld (w 1) 15 8)) }

/-- The virtual channel of a flit. -/
def Flit.vc (f : Flit) : Nat := 2 * f.tc.toNat + b2n f.vcd
/-- A data flit: it takes an LSEQ and is replayed (R262). -/
def Flit.isData (f : Flit) : Bool := f.type = 0 || f.type = 1

/-- A drop counted (R274, R279). -/
def State.drop (s : State) (r : RouteTo) : State :=
  match r with
  | .dead => s.bump pgFab 0x130 1
  | .noRoute => s.bump pgFab 0x134 1
  | .loop => s.bump pgFab 0x138 1
  | _ => s

/-- VCD of a flit on the link of hash set `n` (R277): `same` says whether it arrived on a link of the same axis. -/
def State.vcdOn (s : State) (n : Nat) (same arrived : Bool) : Bool :=
  let a := n / 8
  let x := coord s.hive a
  let size := s.axisSize a
  let dl := s.dateline a
  n < 24 && ((same && arrived) || (if n / 4 % 2 = 0 then x = dl else x = (dl + 1) % size))

/-- A flit joins the queue of a hash set; the first of its virtual channel is at the head (R269). -/
def State.enqueue (s : State) (n : Nat) (q : Queued) : State :=
  s.modPort n fun r => { r with queue := r.queue ++ [q] }

/-! ### Injection (R281 to R284) -/

/-- A destination whose shadow entry has HOLD = 1 (R278, R281). -/
def State.dstHeld (s : State) (d : Nat) : Bool :=
  if d / 4096 = s.hive / 4096 then (Tab.get 0 s.fab.hiveSh (d % 4096)).getLsbD 3 else bit (Tab.get 0 s.fab.colSh (d / 4096)) 30

/-- Scheduled mode (R284). -/
def State.schedOn (s : State) : Bool := bit (s.rd pgFab 0x104) 30
/-- The slot in force names a destination, and injection in it has not stopped (R284). -/
def State.slotNames (s : State) (d : W16) : Bool :=
  match s.fab.slot with
  | some (k, stop) => s.now * 1000 < stop && bit (Tab.get 0 s.fab.sched k) 31 && fld (Tab.get 0 s.fab.sched k) 15 0 = d.toNat
  | none => false
/-- Classes that scheduled mode carries as TC 5 and that the throttle holds back (R283, R284). -/
def bulkTc (tc : BitVec 3) : Bool := tc = 0 || tc = 2 || tc = 3

/-- A flit of this hive with nothing but its route. -/
def State.bareFlit (s : State) (m : Message) : Flit :=
  { localFlit 0 [] with dst := m.dst, src := BitVec.ofNat 16 s.hive, key := m.key }
/-- The direction group that a message leaves by, if it leaves by one. -/
def State.groupOf (s : State) (m : Message) : Option Nat :=
  match s.routeOf (s.bareFlit m) false with
  | .out n => if n < 24 then some (n / 4) else none
  | _ => none
/-- Flits that a throttled direction may inject in a µs, in sixteenths of a group's 4 × 941 flits per µs (R259; log entry 75). -/
def State.perUs (s : State) (dir : Nat) : Nat := 235 * Tab.get 16 s.fab.rate dir
/-- The flits that a throttled direction has injected and that its rate has not yet covered: each µs covers as many as the rate
allows, and what is left goes over to the next (R283). -/
def State.injectedNow (s : State) (dir : Nat) : Nat := Tab.get 0 s.fab.injected dir - s.perUs dir * (s.now - s.fab.injAt)
/-- The throttle of R283 lets a message go: its direction is unlimited, or the flits not yet covered are below what its rate allows in
a µs. -/
def State.rateAllows (s : State) (m : Message) : Bool :=
  match s.groupOf m with
  | none => true
  | some d => Tab.get 16 s.fab.rate d ≥ 16 || s.injectedNow d < s.perUs d
/-- The flits not yet covered are brought to the present, before a rate changes and before more are injected; an unlimited direction
leaves none. -/
def State.settleRates (s : State) : State :=
  let left := (List.range 6).map fun d => (d, if Tab.get 16 s.fab.rate d ≥ 16 then 0 else s.injectedNow d)
  s.modFab fun f => { f with injAt := s.now, injected := left.foldl (fun t x => Tab.set 0 t x.1 x.2) f.injected }

/-- A message may be injected now (R281, R283, R284). -/
def State.mayInject (s : State) (m : Message) : Bool :=
  !(s.fab.held && m.tc ≠ 1 && s.dstHeld m.dst.toNat) &&
  (if s.schedOn then !(bulkTc m.tc || m.tc = 5) || s.slotNames m.dst else !bulkTc m.tc || s.rateAllows m)

/-- Payload bytes a flit carries: 220 where the link that carries the message is encrypted (R261, R400). -/
def State.chunkOf (s : State) (f : Flit) : Nat :=
  match s.routeOf f false with
  | .out n => match s.carrier n with
    | some (some p) => if s.linkEnc p then 220 else 236
    | _ => 236
  | _ => 236

/-- Bytes cut into pieces of `n`. -/
def pieces (n : Nat) : Nat → List Byte → List (List Byte)
  | 0, _ => []
  | k + 1, bs => if bs.length ≤ n then [bs] else bs.take n :: pieces n k (bs.drop n)

/-- The flits of a message (R291, R319): TYPE 0x0, the last 0x1; in scheduled mode its class goes to OTC (R284). Only TC 2 and 3
carry a KEY (R271). -/
def State.flitsOf (s : State) (m : Message) : List Flit :=
  let sched := s.schedOn && bulkTc m.tc
  let mk (type : Nat) (p : List Byte) : Flit :=
    { dst := m.dst, src := BitVec.ofNat 16 s.hive, type := BitVec.ofNat 4 type, tc := if sched then 5 else m.tc, vcd := false, mc := m.mc,
      hops := 0, len := BitVec.ofNat 8 p.length, key := if !sched && (m.tc = 2 || m.tc = 3) then m.key else 0, lseq := 0, ackSeq := 0, ackV := false, nak := false, xoff := 0,
      otc := if sched then m.tc else 0, payload := p }
  let ps := pieces (s.chunkOf (mk 0 [])) (m.payload.length + 1) m.payload
  (ps.zipIdx).map fun x => mk (if x.2 + 1 = ps.length then 1 else 0) x.1

/-- The class of a flit: that of OTC in scheduled mode (R284). -/
def Flit.cls (f : Flit) : Nat := if f.tc = 5 then f.otc.toNat else f.tc.toNat
/-- A flit that starts an MFM request. -/
def Queued.isRequest (q : Queued) : Bool := q.first && (q.flit.cls = 0 || q.flit.cls = 3)

/-- A copy of a request of this hive is discarded before it leaves the hive (R297). -/
def State.noteLost (s : State) (q : Queued) : State :=
  if q.via.isNone && q.isRequest then
    let tag := BitVec.ofNat 32 (ofBytes ((q.flit.payload.drop 20).take 4))
    s.modFab fun f => { f with reqs := f.reqs.map fun m => if m.tag = tag then { m with lost := m.lost + 1 } else m }
  else s

/-- A message goes to the queues of its port (R279), which counts against its direction's rate (R283); a flit without a way is
dropped and counted. -/
def State.inject (s : State) (m : Message) : State :=
  let fs := s.flitsOf m
  let s := match s.groupOf m with
    | some d => if bulkTc m.tc && Tab.get 16 s.fab.rate d < 16 then
        s.settleRates.modFab fun f => { f with injected := Tab.set 0 f.injected d (Tab.get 0 f.injected d + fs.length) } else s
    | none => s
  (fs.zipIdx).foldl (fun s x =>
    let q : Queued := ⟨x.1, s.now, s.now, none, x.2 = 0⟩
    match s.routeOf x.1 false with
    | .out n => s.enqueue n { q with flit := { x.1 with vcd := s.vcdOn n false false } }
    | r => (s.noteLost q).drop r) s

/-- A message of this hive is handed to the fabric: it is injected, or waits behind those of its destination and class. -/
def State.sendMessage (s : State) (m : Message) : State :=
  if s.mayInject m && !(s.fab.inject.any fun x => x.dst = m.dst && x.tc = m.tc) then s.inject m
  else s.modFab fun f => { f with inject := f.inject ++ [m] }

/-- Every waiting message that may go is injected, in order. -/
def State.injectAll (s : State) : State :=
  s.fab.inject.foldl State.sendMessage (s.modFab fun f => { f with inject := [] })

/-! ### Sending (R262, R263, R269, R400) -/

/-- A flit with the port's current acknowledgement and XOFF state (R262). -/
def PortRec.stamp (r : PortRec) (f : Flit) : Flit :=
  { f with ackSeq := r.rxLast, ackV := true, nak := r.failing, xoff := r.xoffTx }

/-- The 12-byte IV of a link direction: salt, then the count of data flits under the key (R400). -/
def linkIv (k : BitVec 256) (count : Nat) : Nat := (Config.linkSalt k).toNat + 2 ^ 32 * (count % 2 ^ 64)

/-- The bytes of a data flit on a port's link (R400). -/
def PortRec.seal (r : PortRec) (f : Flit) : List Byte :=
  match r.txKey with
  | some k =>
    let x := Config.gcmSeal k (linkIv k r.txCount) f.header (fit 220 f.payload)
    wireOf f (fit 220 x.1 ++ fit 16 x.2)
  | none => wireOf f f.payload

/-- A link-local flit leaves a port, unless the transmitters are off (R325); handover and join flits leave only a port that is up
(R267). -/
def State.sendLocal (s : State) (p type : Nat) (payload : List Byte) : State :=
  if s.fenced || (type ≥ 4 && (s.port p).st ≠ .up) then s
  else let f := (s.port p).stamp (localFlit type payload); s.emit (.flit p (wireOf f f.payload))

/-- Latency of a port's link in ns, from its measured round trip (R265). -/
def PortRec.latency (r : PortRec) : Nat := (r.trtt - 300) / 2

/-- AGE of a forwarded request raised by its time here and the latency of the next link, in whole µs (R293). -/
def State.aged (s : State) (p : Nat) (q : Queued) : Flit :=
  if q.via.isSome && q.isRequest then
    let pl := q.flit.payload
    let age := min 0xFFFF (ofBytes ((pl.drop 18).take 2) + cdiv ((s.now - q.entered) * 1000 + (s.port p).latency) 1000)
    { q.flit with payload := pl.take 18 ++ toBytes 2 age ++ pl.drop 20 }
  else q.flit

/-- A flit takes space in a receive buffer, in its channel's reservation or in the pool, and gives it back (R270). -/
def PortRec.hold (r : PortRec) (v : Nat) (pool : Bool) : PortRec :=
  if pool then { r with rxPool := setAt 0 r.rxPool v (r.rxPool.getD v 0 + 256) } else { r with rxBytes := setAt 0 r.rxBytes v (r.rxBytes.getD v 0 + 256) }
def PortRec.free (r : PortRec) (v : Nat) (pool : Bool) : PortRec :=
  if pool then { r with rxPool := setAt 0 r.rxPool v (r.rxPool.getD v 0 - 256) } else { r with rxBytes := setAt 0 r.rxBytes v (r.rxBytes.getD v 0 - 256) }
/-- A receive buffer gives back the space of a flit that leaves it. -/
def State.release (s : State) (via : Option (Nat × Nat × Bool)) : State :=
  match via with
  | some (p, vc, pool) => s.modPort p fun r => r.free vc pool
  | none => s

/-- A data flit leaves port `p` with the next LSEQ and joins the replay buffer. One that is sent `again` after a takeover has given its
receive-buffer space back before. -/
def State.sendData (s : State) (p : Nat) (again : Bool) (q : Queued) : State :=
  let r := s.port p
  let f := r.stamp { s.aged p q with lseq := r.next }
  let bytes := r.seal f
  let s := if again then s else s.release q.via
  (s.modPort p fun r => { r with next := r.next + 1, replay := r.replay ++ [⟨q, f, bytes, s.now⟩], txCount := r.txCount + 1 }).emit
    (.flit p bytes)

/-! ### Flow control (R270) -/

/-- Free bytes of a channel's reservation, and of the shared pool. -/
def PortRec.vcFree (r : PortRec) (v : Nat) : Nat := 65536 - r.rxBytes.getD v 0
def PortRec.poolFree (r : PortRec) : Nat := 262144 - r.rxPool.sum
/-- An arriving flit of a channel goes to the pool, for want of room in the reservation. -/
def PortRec.inPool (r : PortRec) (v : Nat) : Bool := r.vcFree v < 256
/-- A flit of a channel finds space. -/
def PortRec.fits (r : PortRec) (v : Nat) : Bool := r.vcFree v ≥ 256 || r.poolFree ≥ 256
/-- The XOFF state at a flit time: each channel by its own hysteresis. -/
def PortRec.xoffNow (r : PortRec) : BitVec 12 :=
  BitVec.ofNat 12 ((List.range 12).map fun v =>
    let free := r.vcFree v + r.poolFree
    2 ^ v * b2n (if r.xoffTx.getLsbD v then free < r.headroom + 16384 else free < r.headroom)).sum
def State.setXoff (s : State) (p : Nat) : State := s.modPort p fun r => { r with xoffTx := r.xoffNow }

/-! ### Arbitration (R268, R269) -/

/-- The hash sets that a port carries now. -/
def State.carried (s : State) (p : Nat) : List Nat := (List.range 28).filter fun n => s.carrier n = some (some p)

/-- The input queue that a waiting flit belongs to, within its hash set: 0 for this hive's own flits, else the port it came by. -/
def Queued.input (q : Queued) : Nat := match q.via with | some (p, _) => p + 1 | none => 0
/-- The first flit of each input queue and virtual channel of a list. -/
def firstOfEach : List Queued → List Queued → List Queued
  | [], _ => []
  | q :: qs, seen => if seen.any fun x => x.input = q.input && x.flit.vc = q.flit.vc then firstOfEach qs seen else q :: firstOfEach qs (q :: seen)

/-- What waits of a hash set: what a takeover sends first, before any new flit of the set (R272). -/
def PortRec.waiting (r : PortRec) : List Queued := if r.resend.isEmpty then r.queue else r.resend
/-- The head flit of each input queue and virtual channel that a port serves, with its hash set; XON at the receiver. -/
def State.heads (s : State) (p : Nat) : List (Nat × Queued) :=
  let x := (s.port p).xoffRx
  (s.carried p).flatMap fun n => ((firstOfEach (s.port n).waiting []).filter fun q => !x.getLsbD q.flit.vc).map fun q => (n, q)
/-- The place of a head in the rotation of its class: hash set, input queue, virtual channel (R269; log entry 76). -/
def headNo (x : Nat × Queued) : Nat := (x.1 * 64 + x.2.input) * 2 + b2n x.2.flit.vcd
/-- The next head of a class after place `k`, round-robin. -/
def nextHead (k : Nat) (l : List (Nat × Queued)) : Option (Nat × Queued) :=
  (bestOf (fun a b => headNo a < headNo b) (l.filter fun x => headNo x > k)).or (bestOf (fun a b => headNo a < headNo b) l)

/-- The class order of the weighted round-robin and the weight of a class (R268, R287). -/
def wrrOrder : List Nat := [0, 1, 2, 3, 5]
def State.weight (s : State) (tc : Nat) : Nat :=
  let w := s.rd pgFab 0x120
  match tc with
  | 0 => fld w 3 0 | 1 => fld w 7 4 | 2 => fld w 11 8 | 3 => fld w 15 12 | _ => fld w 19 16

/-- The longest-waiting of some heads. -/
def oldest (l : List (Nat × Queued)) : Option (Nat × Queued) := bestOf (fun a b => a.2.since < b.2.since) l

/-- The classes after `tc` in round-robin order, `tc` last. -/
def wrrFrom (tc : Nat) : List Nat :=
  let i := (wrrOrder.findIdx? fun t => t = tc).getD 0
  (List.range 5).map fun j => wrrOrder.getD ((i + 1 + j) % 5) 0

/-- TC 4 slots used in the running µs: at most 1/16 of the 941 flit slots of a µs (R259, R268). -/
def PortRec.tc4Left (r : PortRec) (now : Nat) : Bool := r.tc4At ≠ now || r.tc4Used < 58

/-- A port's flit slot carried a data flit, or its flits waited for credit in it (R410). -/
def State.noteSlot (s : State) (p : Nat) (sent : Bool) : State :=
  let k := bankKey (pgPort p) 0
  let b := Tab.get {} s.cntBanks k
  if !b.cur.counting then s
  else { s with cntBanks := Tab.set {} s.cntBanks k { b with cur :=
    { b.cur with sent := b.cur.sent + b2n sent, held := b.cur.held + b2n (!sent) } } }
/-- Flits wait at a port, none of which may go. -/
def State.stuck (s : State) (p : Nat) : State :=
  if (s.carried p).any fun n => !(s.port n).waiting.isEmpty then s.noteSlot p false else s

/-- Everything unacknowledged sent again (R263): as first sent on an encrypted link, else with the current state (R262, R400). Each takes a
flit slot (R410). A fenced hive sends nothing (R325). -/
def State.resendAll (s : State) (p : Nat) : State :=
  if s.fenced then s
  else
    let r := s.port p
    let s := r.replay.foldl (fun s x =>
      (s.noteSlot p true).emit (.flit p (if r.txKey.isSome then x.wire else wireOf (r.stamp x.flit) x.flit.payload))) s
    (s.modPort p fun r => { r with replay := r.replay.map fun x => { x with at_ := s.now } }).bump (pgPort p) 0x128 1

/-- The flit that a port sends next, and the class position after it. -/
def State.arbitrate (s : State) (p : Nat) : Option ((Nat × Queued) × Nat × Nat) :=
  let r := s.port p
  let hs := s.heads p
  let of_ (tc : Nat) := nextHead (r.rrIn.getD tc 0) (hs.filter fun x => x.2.flit.tc.toNat = tc)
  let pos := (r.wrrTc, r.wrrLeft)
  match oldest (hs.filter fun x => s.now ≥ x.2.since + 20 && (x.2.flit.tc ≠ 4 || r.tc4Left s.now)) with
  | some x => some (x, pos)
  | none => match (if r.tc4Left s.now then of_ 4 else none) with
    | some x => some (x, pos)
    | none =>
      match (if r.wrrLeft ≠ 0 then of_ r.wrrTc else none) with
      | some x => some (x, r.wrrTc, r.wrrLeft - 1)
      | none => (wrrFrom r.wrrTc).findSome? fun tc => (of_ tc).map fun x => (x, tc, s.weight tc - 1)

/-- A flit leaves its queue; the next of its input queue and virtual channel is at the head from now on. -/
def dequeue (now : Nat) (q : Queued) : List Queued → List Queued
  | [] => []
  | x :: xs => if x = q then fresh xs else x :: dequeue now q xs
where
  fresh : List Queued → List Queued
    | [] => []
    | y :: ys => if y.flit.vc = q.flit.vc && y.input = q.input then { y with since := now } :: ys else y :: fresh ys

/-- One flit slot of a port (R262, R269, R272), for which what the throttle now lets go is injected (R283). A port that is not up
sends link control only. -/
def State.portSlot (s : State) (p : Nat) : State :=
  let s := s.injectAll.setXoff p
  let r := s.port p
  if r.st = .off || r.st = .down || r.st = .training then s
  else if r.st ≠ .up || s.fenced || r.replay.length ≥ 2048 then s.sendLocal p 2 []
  else match s.arbitrate p with
  | none => (s.stuck p).sendLocal p 2 []
  | some ((n, q), tc, left) =>
    let again := !(s.port n).resend.isEmpty
    let s := s.modPort n fun x => if x.resend.isEmpty then { x with queue := dequeue s.now q x.queue } else { x with resend := dequeue s.now q x.resend }
    let s := s.modPort p fun x => { x with
      wrrTc := tc, wrrLeft := left, rrIn := setAt 0 x.rrIn q.flit.tc.toNat (headNo (n, q)), tc4At := s.now
      tc4Used := (if x.tc4At = s.now then x.tc4Used else 0) + b2n (q.flit.tc = 4) }
    (s.noteSlot p true).sendData p again q

/-! ### Ports going down and coming up (R264, R272 to R274) -/

/-- The flits of hash set `n` that have no way: waiting ones are discarded and counted (R274). -/
def State.discardSet (s : State) (n : Nat) : State :=
  let k := (s.port n).queue.length + (s.port n).resend.length
  let s := (s.port n).resend.foldl State.noteLost s
  let s := (s.port n).queue.foldl (fun s q => (s.release q.via).noteLost q) s
  (s.modPort n fun r => { r with queue := [], resend := [] }).bump pgFab 0x130 k

/-- Every hash set whose direction is dead is discarded. -/
def State.discardDead (s : State) : State :=
  (List.range 28).foldl (fun s n => if (s.carrier n).isNone && !((s.port n).queue.isEmpty && (s.port n).resend.isEmpty) then s.discardSet n else s) s

/-- The replay buffer of a port with no substitute is discarded (R274). -/
def State.dropReplay (s : State) (p : Nat) : State :=
  ((s.port p).replay.foldl (fun s x => s.noteLost x.orig) s).modPort p fun r => { r with replay := [] }

/-- A takeover request for the failed port `p` leaves on a substitute (R272). The payload names the port in byte 0
(log entry 26). -/
def State.askTakeover (s : State) (n p subst : Nat) (since : Nat) : State :=
  (s.modPort n fun r => { r with hand := .takeover subst since s.now }).sendLocal subst 4 [BitVec.ofNat 8 p]

/-- The hash sets whose flits a port holds or may still hold: those it carries, its own, and those that a join or a takeover
has there. -/
def State.setsOn (s : State) (p : Nat) : List Nat :=
  (List.range 28).filter fun n => s.carrier n = some (some p) || s.hashSet p = some n || (s.port n).stopBy = some p ||
    (match (s.port n).hand with | .join q _ => q = p | _ => false)

/-- The sets that wait for the takeover of a port go on. -/
def State.unstop (s : State) (p : Nat) : State :=
  (List.range 28).foldl (fun s n => if (s.port n).stopBy = some p then s.modPort n fun r => { r with stopBy := none } else s) s

/-- A member port is not `CP_UP` and has the flits of `sets`: these stop, and its flits are handed over to the substitute of its own
set (R272). With none, they are discarded (R274), but for the replay buffer of a port that retrains, which keeps it (R263). -/
def State.handOver (s : State) (p : Nat) (sets : List Nat) : State :=
  match s.hashSet p with
  | none => s
  | some n =>
    let s := s.modPort n fun r => { r with hand := .none }
    match s.substitute n with
    | some q =>
      let s := sets.foldl (fun s k => if k = n then s else s.modPort k fun r => { r with stopBy := some p }) s
      s.askTakeover n p q s.now
    | none => (if (s.port p).st = .training then s.unstop p else (s.unstop p).dropReplay p).discardDead

/-- A port that is not `CP_UP` holds flits that no handover has taken: it keeps its replay buffer through a retrain (R263). -/
def State.keepsReplay (s : State) (p : Nat) : Bool :=
  (s.port p).st ≠ .up && !(s.port p).replay.isEmpty && (s.hashSet p).any fun n => (s.port n).hand = .none

/-- The session of a port's link is over, and with it its keys (R401). -/
def PortRec.unkeyed (r : PortRec) : PortRec := { r with link := .clear, txKey := none, rxKey := none }

/-- A port leaves for a state other than `CP_UP`, with a cause. What it kept through a retrain is handed over or discarded when the
retrain fails. -/
def State.portLeave (s : State) (p : Nat) (st : CpState) (cause : Nat) : State :=
  let was := (s.port p).st
  let sets := s.setsOn p
  let s := s.modPort p fun r => { r.unkeyed with st := st, cause := BitVec.ofNat 4 cause, downAt := s.now, failing := false }
  if was = .up || (st ≠ .training && s.keepsReplay p) then s.handOver p sets else s

/-- `CP_DOWN` with a cause (R264). -/
def State.portDown (s : State) (p cause : Nat) : State :=
  if (s.port p).st = .off || (s.port p).st = .down then s else s.portLeave p .down cause

/-- The source that feeds a port (R247). -/
def portSource (p : Nat) : Nat := 9 * (8 + p / 8) + p % 8
/-- A training starts (R264, R265, R377): the fabric is enabled, the port is enabled, its store die is ready and its source lit, and the hive
is not fenced (R325). -/
def State.train (s : State) (p : Nat) : State :=
  if s.fenced || !s.roleLit (portSource p) || !bit (s.rd pgFab 0x104) 31 || !s.cpEn p || !s.boot.sdReady.getLsbD (p / 4) then s
  else (s.portLeave p .training 0).modPort p fun r => { r with trains := satAdd 8 r.trains 1 }

/-- `CP_OFF`. -/
def State.portOff (s : State) (p : Nat) : State := if (s.port p).st = .off then s else s.portLeave p .off 0

/-- Every port of the fabric starts to train (R287, `FAB_CTRL.EN`). -/
def State.trainAll (s : State) : State := (List.range 32).foldl (fun s p => if (s.port p).st = .off then s.train p else s) s

/-- The members of a direction group that retrain with a kept replay buffer hand it over to the first that is up (R263, R272). -/
def State.takeKept (s : State) (n : Nat) : State :=
  if n ≥ 24 then s
  else (tries n).tail.foldl (fun s k => match s.memberPort (k / 4 + 1) (k % 4) with
    | some q => if s.keepsReplay q then s.handOver q (s.setsOn q) else s
    | none => s) s

/-- A port is `CP_UP`: its member's hash set moves back from the substitute that carries it (R273). -/
def State.rejoin (s : State) (p : Nat) : State :=
  match s.hashSet p with
  | none => s
  | some n =>
    match s.substitute n with
    | some q => if n < 24 && (s.port n).hand = .none then
        (s.modPort n fun r => { r with hand := .join q s.now }).sendLocal q 6 [BitVec.ofNat 8 p] else s
    | none => s.takeKept n

/-- A port enters `CP_UP`. -/
def State.enterUp (s : State) (p : Nat) : State :=
  (s.modPort p fun r => { r with st := .up, cause := 0, stopFor := none, lastRx := s.now }).rejoin p

/-- The result of the cable check (R267): none where the peer seen is the planned one. -/
def State.cableCause (s : State) (p : Nat) : Option Nat :=
  let seen := (s.port p).seen &&& planMask
  if !bit (s.plan p) 31 then some 4
  else if seen = s.plan p then none
  else if (List.range 32).any fun q => q ≠ p && s.plan q = seen then some 1
  else some 2

/-- A port in the cable check passes it: with encryption, the key exchange comes first (R401). -/
def State.cablePass (s : State) (p : Nat) : State :=
  if s.linkEnc p then s.modPort p fun r => { r with st := .check, cause := 0, link := .keying, keyAt := s.now }
  else (s.modPort p PortRec.unkeyed).enterUp p

/-- The comparison of `CP_SEEN` with `CP_PLAN` (R267). -/
def State.compare (s : State) (p : Nat) : State :=
  let st := (s.port p).st
  match s.cableCause p with
  | some k => if st = .check || st = .miscabled || st = .up then s.portLeave p .miscabled k else s
  | none => if (st = .check && (s.port p).link ≠ .keying) || st = .miscabled then s.cablePass p else s

/-! ### Training and the cable check (R264 to R267) -/

/-- The headroom H of R270, in bytes. -/
def headroomOf (trtt : Nat) : Nat := cdiv (trtt * 241 + 4096) 4096 * 4096

/-- Steps 1 to 3 of a training end (R265). A failed retrain after eight NAKs is RETRY, any other TRAIN. -/
def State.trained (s : State) (p : Nat) (locked : Bool) (trtt : Nat) : State :=
  if (s.port p).st ≠ .training then s
  else if !locked then s.portDown p (if (s.port p).naks ≥ 8 then 0x8 else 0xC)
  else
    let s := s.modPort p fun r => { r with trtt := trtt, headroom := headroomOf trtt, naks := 0 }
    if headroomOf trtt > 320 * 1024 then s.portDown p 0xB
    else s.modPort p fun r => { r with st := .check, lockAt := s.now, idAt := s.now, lastRx := s.now }

/-- An identity flit leaves a port (R266): every 100 µs, and every 10 ms while it is up. -/
def State.sendIdentity (s : State) (p : Nat) : State :=
  let r := s.port p
  if r.st ≠ .check && r.st ≠ .miscabled && r.st ≠ .up then s
  else
    let s := s.passTo (r.idAt + if r.st = .up then 10000 else 100)
    (s.modPort p fun r => { r with idAt := s.now }).sendLocal p 3
      (toBytes 2 s.hive ++ [BitVec.ofNat 8 p, 0] ++ toBytes 4 (s.rd (pgPort p) 0x108).toNat)

/-- An identity flit arrives (R266, R267). -/
def State.identity (s : State) (p hive peer : Nat) : State :=
  let st := (s.port p).st
  if st ≠ .check && st ≠ .miscabled && st ≠ .up then s
  else (s.modPort p fun r => { r with seen := BitVec.ofNat 32 (2 ^ 31 + peer % 32 * 2 ^ 24 + hive), lastRx := s.now }).compare p

/-- No identity flit within 10 ms of FEC lock (R267). -/
def State.noPeer (s : State) (p : Nat) : State :=
  if (s.port p).st = .check && (s.port p).link ≠ .keying then (s.passTo ((s.port p).lockAt + 10000)).portLeave p .miscabled 3 else s

/-- A write of `CP_PLAN` (R267). -/
def State.setPlan (s : State) (p : Nat) (v : W32) : State :=
  let s := s.storeReg (pgPort p) 0x108 v
  if (s.port p).st = .up || ((s.port p).st = .miscabled && (s.port p).cause ≠ 3) then s.compare p else s

/-- A write of `CP_CFG` (R275, R287): a spare's ROLE and MEMBER may change only while EN is 0, and no other enabled port
may hold them. -/
def State.setCpCfg (s : State) (p : Nat) (v : W32) : State :=
  let old := s.rd (pgPort p) 0x100
  let role := fld v 18 16
  let mem := fld v 13 12
  let spare := p ≥ 28
  let moved := role ≠ fld old 18 16 || mem ≠ fld old 13 12
  let clash := (List.range 32).any fun q => q ≠ p && s.cpEn q && s.cpRole q = role && s.cpMember q = mem
  if spare && ((bit old 31 && moved) || (!bit old 31 && clash)) then s.errSet (pgPort p) 0
  else
    let on := bit v 31
    let s := if bit old 31 && !on then s.portOff p else s
    let s := s.storeReg (pgPort p) 0x100 v
    let s := if spare && moved && role ≠ 0 then s.logEvent 0x28 (unitPort p) p (role * 4 + mem) else s
    if on && (!bit old 31 || bit v 30) then s.train p else s

/-- No valid flit for LTO (R264): the time is brought to the end of the timeout. -/
def State.linkTimeout (s : State) (p : Nat) : State :=
  let r := s.port p
  if r.st = .check || r.st = .up || r.st = .miscabled then (s.passTo (r.lastRx + s.lto)).portDown p 0x9 else s

/-- A `CP_DOWN` port starts a new training every 1 s (R264). -/
def State.retryTraining (s : State) (p : Nat) : State :=
  if (s.port p).st = .down && s.cpEn p then (s.passTo ((s.port p).downAt + 1000000)).train p else s

/-! ### Handovers (R272, R273) -/

/-- The port of this hive whose peer, as seen, is a given port of the hive seen on `p`. -/
def State.otherEnd (s : State) (p failed : Nat) : Option Nat :=
  let hive := fld (s.port p).seen 15 0
  (List.range 32).find? fun q => bit (s.port q).seen 31 && fld (s.port q).seen 15 0 = hive && fld (s.port q).seen 28 24 = failed

/-- A takeover request arrives (R272): this hive's end of the failed link accepts no more flits. -/
def State.takeoverAsked (s : State) (p failed : Nat) : State :=
  match s.otherEnd p failed with
  | some q => s.modPort q fun r => { r with stopFor := some p }
  | none => s

/-- The receive buffer of a port is empty. -/
def PortRec.empty (r : PortRec) : Bool := (r.rxBytes.all fun n => n = 0) && r.rxPool.all fun n => n = 0
/-- The receive buffer of the stopped port is empty: the reply names the peer's port and carries the last LSEQ received
in order (payload bytes 0 and 2 to 3, log entry 26). -/
def State.takeoverDrained (s : State) (q : Nat) : State :=
  let r := s.port q
  match r.stopFor with
  | some p => if r.empty then
      s.sendLocal p 5 ([BitVec.ofNat 8 (fld r.seen 28 24), 0] ++ toBytes 2 r.rxLast.toNat) else s
  | none => s

/-- 10 µs without a reply: the request again (R272). -/
def State.takeoverAgain (s : State) (p : Nat) : State :=
  match s.hashSet p with
  | none => s
  | some n => match (s.port n).hand with
    | .takeover q since sent => let s := s.passTo (sent + 10); s.askTakeover n p q since
    | _ => s

/-- What of a replay buffer lies after an LSEQ received in order. -/
def unacked (l : List Sent) (lseq : W16) : List Sent := l.filter fun x => (x.flit.lseq - lseq - 1).toNat < 2 ^ 15

/-- The hash set of a flit that left by a port of set `n`. -/
def setOfFlit (n : Nat) (f : Flit) : Nat := if n < 24 then n / 4 * 4 + memberOf f else n

/-- Each input queue's head flit of the channels `on` is eligible from now (R269). -/
def freshHeads (now : Nat) (on : Nat → Bool) : List Queued → List Queued → List Queued
  | [], _ => []
  | q :: qs, seen =>
    let head := !(seen.any fun x => x.input = q.input && x.flit.vc = q.flit.vc)
    (if head && on q.flit.vc then { q with since := now } else q) :: freshHeads now on qs (q :: seen)
/-- The head flits of a hash set, on the channels `on`, are eligible from now. -/
def State.renew (s : State) (n : Nat) (on : Nat → Bool) : State :=
  s.modPort n fun r => { r with queue := freshHeads s.now on r.queue [], resend := freshHeads s.now on r.resend [] }

/-- The takeover reply (R272): flits up to that LSEQ are dropped; the rest goes first on the ports that now carry their sets. -/
def State.takeoverReply (s : State) (p : Nat) (lseq : W16) : State :=
  match s.hashSet p with
  | none => s
  | some n => match (s.port n).hand with
    | .takeover _ _ _ =>
      let rest := (unacked (s.port p).replay lseq).map (·.orig)
      let s := s.modPort p fun r => { r with replay := [], next := lseq + 1, naks := 0 }
      let sets := n :: (List.range 28).filter fun k => (s.port k).stopBy = some p
      let s := (s.unstop p).modPort n fun r => { r with hand := .none }
      let s := (List.range 28).foldl (fun s k =>
        let own := rest.filter fun q => setOfFlit n q.flit = k
        if own.isEmpty then s else s.modPort k fun r => { r with resend := own ++ r.resend }) s
      sets.foldl (fun s k => s.renew k fun _ => true) s
    | _ => s

/-- The flits that came by a port up to an LSEQ have left its receive buffer. -/
def State.passed (s : State) (p : Nat) (lseq : W16) : Bool :=
  !((List.range 28).any fun n => (s.port n).queue.any fun q => q.input = p + 1 && (lseq - q.flit.lseq).toNat < 2 ^ 15)

/-- A join marker leaves the substitute's receive buffer, after the flits received before it: the reply, naming the returned port
(R273). -/
def State.joinMarker (s : State) (p returned : Nat) : State :=
  match (s.port p).marks.find? fun x => x.1 = returned with
  | none => s
  | some x =>
    if !s.passed p x.2.1 then s
    else (s.modPort p fun r => { r.free 8 x.2.2 with marks := r.marks.erase x }).sendLocal p 7 [BitVec.ofNat 8 returned]

/-- The join reply: the hash set goes to the returned member (R273). -/
def State.joinReply (s : State) (p : Nat) : State :=
  match s.hashSet p with
  | none => s
  | some n => match (s.port n).hand with
    | .join _ _ => (s.modPort n fun r => { r with hand := .none }).renew n fun _ => true
    | _ => s

/-- A reply is missing after 2 × LTO: the substitute goes down too, and the handover moves on (R273). -/
def State.handTimeout (s : State) (p : Nat) : State :=
  match s.hashSet p with
  | none => s
  | some n => match (s.port n).hand with
    | .takeover q since _ => let s := (s.passTo (since + 2 * s.lto)).portDown q 0x9; s.handOver p (s.setsOn p)
    | .join q since =>
      let s := (s.passTo (since + 2 * s.lto)).portDown q 0x9
      match s.substitute n with
      | some q' => (s.modPort n fun r => { r with hand := .join q' s.now }).sendLocal q' 6 [BitVec.ofNat 8 p]
      | none => s.modPort n fun r => { r with hand := .none }
    | .none => s

/-! ### Tables and classes (R281, R283, R284) -/

/-- A flit of this hive toward a held destination is queued or unacknowledged here. -/
def State.ownQueued (s : State) : Bool :=
  s.fab.ports.any fun p => (p.2.queue ++ p.2.resend ++ p.2.replay.map (·.orig)).any fun q => q.via.isNone && s.dstHeld q.flit.dst.toNat
/-- No message that this hive injected toward a held destination awaits its completion: no MFM request its response, no other
message its delivery to the next hive. -/
def State.rtEmpty (s : State) : Bool := !(s.fab.reqs.any fun m => m.sent && s.dstHeld m.dst.toNat) && !s.ownQueued
/-- `RT_STATUS.DRAINED`. -/
def State.rtDrained (s : State) : Bool := s.fab.held && s.fab.drained && s.rtEmpty

def State.holdOn (s : State) : State := s.modFab fun f => { f with held := true, drained := false }
def State.noteDrained (s : State) : State := if s.fab.held && s.rtEmpty then s.modFab fun f => { f with drained := true } else s
def State.swapTables (s : State) : State :=
  if s.rtDrained then s.modFab fun f => { f with hiveAct := f.hiveSh, colAct := f.colSh, refused := false }
  else s.modFab fun f => { f with refused := true }
def State.holdOff (s : State) : State := (s.modFab fun f => { f with held := false, drained := false }).injectAll
def State.copyTables (s : State) : State := s.modFab fun f => { f with hiveSh := f.hiveAct, colSh := f.colAct }

/-- Backlog of a direction group in bytes (R283). -/
def State.backlog (s : State) (dir : Nat) : Nat :=
  ((List.range 4).map fun m => ((s.port (dir * 4 + m)).queue.length + (s.port (dir * 4 + m)).resend.length) * 256).sum

/-- The 10 µs update of the injection rates (R283), in 1/16 of a group's rate: the time is brought to its end. -/
def State.congestion (s : State) : State :=
  let s := (s.passTo (s.fab.congAt + 10)).settleRates
  let s := s.modFab fun f => { f with congAt := s.now }
  if s.schedOn then s
  else (List.range 6).foldl (fun s d =>
    let b := s.backlog d
    let r := Tab.get 16 s.fab.rate d
    let r := if b > 1024 * fld (s.rd pgFab 0x124) 31 16 then max 1 (r / 2)
      else if b < 1024 * fld (s.rd pgFab 0x124) 15 0 then min 16 (r * 2) else r
    s.modFab fun f => { f with rate := Tab.set 16 f.rate d r }) s

/-- The next time at which slot `k` begins, in ns (R284): whole frames after the start, with the trim. -/
def State.slotAt (s : State) (k : Nat) : Int :=
  let cfg := s.rd pgFab 0x140
  let len : Int := (fld cfg 6 0 * 100 : Nat)
  let frame := len * ((fld cfg 25 16 + 1 : Nat) : Int)
  let first := s.fab.schedAt * 1000 + (k : Nat) * len + sext 32 (s.rd pgFab 0x148).toNat
  first + frame * ((((s.now * 1000 : Nat) : Int) - first + frame - 1) / frame).toNat
/-- A slot of the frame begins (R284): the time is brought to it; injection stops 100 ns before its end. -/
def State.slotStart (s : State) (k : Nat) : State :=
  if !s.schedOn || k > fld (s.rd pgFab 0x140) 25 16 then s
  else
    let b := s.slotAt k
    let s := s.passTo (b / 1000).toNat
    (s.modFab fun f => { f with slot := some (k, (b + (fld (s.rd pgFab 0x140) 6 0 * 100 : Nat) - 100).toNat) }).injectAll
/-- The µs at which `HUB_TIME` reaches a value, by modular difference (R21, R284). -/
def State.hubReaches (s : State) (v : W32) : Int := (s.now : Int) + sext 32 (v - s.hubTime).toNat
/-- The start of scheduled mode is taken when `SCHED_START` is written and when scheduled mode begins. -/
def State.setSchedStart (s : State) (v : W32) : State := (s.storeReg pgFab 0x144 v).modFab fun f => { f with schedAt := s.hubReaches v }

/-- Every port is at once in a state other than `CP_UP`, with no handover: no port is left that could take one. -/
def State.cutPorts (s : State) (st : CpState) (cause : Nat) : State :=
  (List.range 32).foldl (fun s p => s.modPort p fun r =>
    let r := { r.unkeyed with failing := false, hand := .none, stopBy := none, stopFor := none }
    if r.st = .off || r.st = st then r else { r with st := st, cause := BitVec.ofNat 4 cause, downAt := s.now }) s

/-- A write of `FAB_CTRL` (R287, R298): EN starts or stops every port, and begins the atomic start delay. With every port off, what waits
and what the replay buffers hold is discarded (R274). -/
def State.setFabCtrl (s : State) (v : W32) : State :=
  let old := s.rd pgFab 0x104
  let s := s.storeReg pgFab 0x104 v
  let s := if !bit v 30 then (s.modFab fun f => { f with slot := none }).injectAll
    else if bit old 30 then s else s.setSchedStart (s.rd pgFab 0x144)
  if bit v 31 && !bit old 31 then (s.modFab fun f => { f with enAt := s.now, atomOk := false }).trainAll
  else if !bit v 31 && bit old 31 then
    ((List.range 32).foldl State.dropReplay (s.cutPorts .off 0)).discardDead
  else s

/-! ### The commands -/

/-- LINK_ACK_TIMEOUT (R263): T_RTT + 2 µs without acknowledgement counts as a NAK; the eighth in a row retrains. -/
def State.nakked (s : State) (p : Nat) : State :=
  if (s.port p).replay.isEmpty then s
  else
    let s := s.modPort p fun r => { r with naks := r.naks + 1 }
    if (s.port p).naks ≥ 8 then s.train p else s.resendAll p
def State.ackTimeout (s : State) (p : Nat) : State :=
  match (s.port p).replay with
  | [] => s
  | x :: _ => if (s.port p).st ≠ .up then s else (s.passTo (x.at_ + cdiv (s.port p).trtt 1000 + 2)).nakked p
def execLinkAckTimeout (port : Fin 32) (s : State) : Host.Outcome State Fault Refusal := .next (let t : State := s.ackTimeout port.val; t.notify s)
/-- LINK_TIMEOUT. -/
def execLinkTimeout (port : Fin 32) (s : State) : Host.Outcome State Fault Refusal := .next (let t : State := s.linkTimeout port.val; t.notify s)
/-- TRAINING_RETRY. -/
def execTrainingRetry (port : Fin 32) (s : State) : Host.Outcome State Fault Refusal := .next (let t : State := s.retryTraining port.val; t.notify s)
/-- PORT_TRAINING. -/
def execPortTraining (port : Fin 32) (locked : Bool) (trtt : Nat) (s : State) : Host.Outcome State Fault Refusal :=
  .next (let t : State := s.trained port.val locked trtt; t.notify s)
/-- IDENTITY_SEND. -/
def execIdentitySend (port : Fin 32) (s : State) : Host.Outcome State Fault Refusal := .next (s.sendIdentity port.val)
/-- IDENTITY_FLIT. -/
def execIdentityFlit (port : Fin 32) (hive : W16) (peerPort : Byte) (_peerPlan : W32) (s : State) : Host.Outcome State Fault Refusal :=
  .next (let t : State := s.identity port.val hive.toNat peerPort.toNat; t.notify s)
/-- NO_PEER_TIMEOUT. -/
def execNoPeerTimeout (port : Fin 32) (s : State) : Host.Outcome State Fault Refusal := .next (let t : State := s.noPeer port.val; t.notify s)
/-- CP_PLAN_WRITE. -/
def execCpPlanWrite (port : Fin 32) (value : W32) (s : State) : Host.Outcome State Fault Refusal :=
  .next (let t : State := s.onPage (pgPort port.val) fun s => s.setPlan port.val value; t.notify s)
/-- TAKEOVER_REQUEST. -/
def execTakeoverRequest (port : Fin 32) (failed : Fin 32) (s : State) : Host.Outcome State Fault Refusal :=
  .next (s.takeoverAsked port.val failed.val)
/-- TAKEOVER_REQUEST_REPEAT. -/
def execTakeoverRequestRepeat (failed : Fin 32) (s : State) : Host.Outcome State Fault Refusal := .next (s.takeoverAgain failed.val)
/-- TAKEOVER_BUFFER_DRAINED. -/
def execTakeoverBufferDrained (failed : Fin 32) (s : State) : Host.Outcome State Fault Refusal := .next (s.takeoverDrained failed.val)
/-- TAKEOVER_REPLY. -/
def execTakeoverReply (failed : Fin 32) (lseq : W16) (s : State) : Host.Outcome State Fault Refusal :=
  .next (s.takeoverReply failed.val lseq)
/-- JOIN_MARKER. -/
def execJoinMarker (port : Fin 32) (returned : Fin 32) (s : State) : Host.Outcome State Fault Refusal :=
  .next (s.joinMarker port.val returned.val)
/-- JOIN_REPLY. -/
def execJoinReply (returned : Fin 32) (s : State) : Host.Outcome State Fault Refusal := .next (s.joinReply returned.val)
/-- HANDOVER_TIMEOUT. -/
def execHandoverTimeout (port : Fin 32) (s : State) : Host.Outcome State Fault Refusal := .next (let t : State := s.handTimeout port.val; t.notify s)
/-- CP_CFG_WRITE. -/
def execCpCfgWrite (port : Fin 32) (value : W32) (s : State) : Host.Outcome State Fault Refusal :=
  .next (let t : State := s.onPage (pgPort port.val) fun s => s.setCpCfg port.val value; t.notify s)
/-- RETRAIN (R287): a write of `CP_CFG` with RETRAIN set, which starts a training. -/
def execRetrain (port : Fin 32) (value : W32) (s : State) : Host.Outcome State Fault Refusal :=
  .next (let t : State := s.onPage (pgPort port.val) fun s => s.setCpCfg port.val (value ||| 0x40000000); t.notify s)
/-- RT_HOLD. -/
def execRtHold (s : State) : Host.Outcome State Fault Refusal := .next (s.onPage pgFab State.holdOn)
/-- RT_DRAINED. -/
def execRtDrained (s : State) : Host.Outcome State Fault Refusal := .next s.noteDrained
/-- RT_SWAP. -/
def execRtSwap (s : State) : Host.Outcome State Fault Refusal := .next (s.onPage pgFab State.swapTables)
/-- RT_RELEASE. -/
def execRtRelease (s : State) : Host.Outcome State Fault Refusal := .next (s.onPage pgFab State.holdOff)
/-- RT_COPY. -/
def execRtCopy (s : State) : Host.Outcome State Fault Refusal := .next (s.onPage pgFab State.copyTables)
/-- CONGESTION_UPDATE. -/
def execCongestionUpdate (s : State) : Host.Outcome State Fault Refusal := .next s.congestion
/-- SCHED_SLOT_START. -/
def execSchedSlotStart (slot : Fin 1024) (s : State) : Host.Outcome State Fault Refusal := .next (s.slotStart slot.val)
/-- PORT_ARBITRATION. -/
def execPortArbitration (port : Fin 32) (s : State) : Host.Outcome State Fault Refusal := .next (s.portSlot port.val)

end Sys2Proof.Machine
end

