-- ==== Sys2Proof/Machine/Base.lean ====
section
/-! DEFINITION. The base layer and the lasers: bundles and lanes (R234 to R238), die-port flits and their retries (R230 to
R232), the grant ledger (R226 to R228), rings (R239 to R242), the slew governor's samples (R243), comb sources and
external inlets (R247 to R252). -/

namespace Sys2Proof.Machine
open Host

/-! ### Bundles and lanes -/

def State.bundle (s : State) (dp : Nat) (rx : Bool) (b : Nat) : Bundle := Tab.get {} s.base.bundles (bundleKey dp rx b)
def State.modBundle (s : State) (dp : Nat) (rx : Bool) (b : Nat) (f : Bundle → Bundle) : State :=
  s.modBase fun x => { x with bundles := Tab.set {} x.bundles (bundleKey dp rx b) (f (s.bundle dp rx b)) }
def State.dieTx (s : State) (dp b : Nat) : DieTx := Tab.get {} s.base.tx (laneKey dp b)
def State.modTx (s : State) (dp b : Nat) (f : DieTx → DieTx) : State :=
  s.modBase fun x => { x with tx := Tab.set {} x.tx (laneKey dp b) (f (s.dieTx dp b)) }
def State.dieRx (s : State) (dp b : Nat) : DieRx := Tab.get {} s.base.rx (laneKey dp b)
def State.modRx (s : State) (dp b : Nat) (f : DieRx → DieRx) : State :=
  s.modBase fun x => { x with rx := Tab.set {} x.rx (laneKey dp b) (f (s.dieRx dp b)) }
def State.setGrant (s : State) (dp b : Nat) (g : Grant) : State :=
  s.modBase fun x => { x with ledger := Tab.set {} x.ledger (laneKey dp b) g }

/-- Ones among the sixteen bits of a lane mask. -/
def lanes (m : W16) : Nat := ((List.range 16).filter fun i => m.getLsbD i).length

/-- Group and member of a source; whether it is a spare, fabric, scout, host or edge source (R247). -/
def srcSpare (n : Nat) : Nat := n / 9 * 9 + 8
def isSpare (n : Nat) : Bool := n % 9 = 8
def isFabricSrc (n : Nat) : Bool := n < 67 && !isSpare n
def isScoutSrc (n : Nat) : Bool := 67 ≤ n && n < 70
/-- The Chaver port that a source feeds (R247). -/
def srcPort (n : Nat) : Option Nat := if n ≥ 72 && !isSpare n then some (8 * (n / 9 - 8) + n % 9) else none
/-- The fabric source that feeds a transmit bundle (log entry 9). -/
def fabricSource (dp b : Nat) : Nat := let i := Config.bundleSource dp b % 60; i / 8 * 9 + i % 8

/-- The state code of a bundle: 0 full, 1 degraded, 2 retired (R235, R254). A masked one is out of service (R250). -/
def State.bundleState (s : State) (dp : Nat) (rx : Bool) (b : Nat) : Nat :=
  let x := s.bundle dp rx b
  if x.out || x.dark || lanes x.lost ≥ 5 then 2 else if x.lost = 0 then 0 else 1
/-- The lanes that a pair runs on: 16 where both bundles are full, else the 8 lowest-numbered ones that work at both ends (R235). -/
def State.pairLanes (s : State) (a t dp b : Nat) : List Nat :=
  let lost := (s.bundle a false t).lost ||| (s.bundle dp true b).lost
  if lost = 0 then List.range 16 else ((List.range 16).filter fun l => !lost.getLsbD l).take 8
/-- Lanes in use of a die port in one direction (R254). -/
def State.width (s : State) (dp : Nat) (rx : Bool) : Nat :=
  ((List.range (bundlesOf dp)).map fun b => match s.bundleState dp rx b with | 0 => 16 | 1 => 8 | _ => 0).sum

/-- A scout leaves service (R144). One that failed three calibrations stays fenced (R145). A SCOUT that runs on it restarts on the digital
path at once, with RESTARTED set: R146 says so of a relock that takes too long only, and of a scout turned off it is the model's choice
(log entry 95). -/
def State.scoutOff (s : State) (u : Nat) : State :=
  let s := match (s.scoutRec u).run with
    | none => s
    | some id => match s.run? id with
      | none => s
      | some r => match r.scout with
        | some x => if r.res.isSome then s else s.scoutDigital r { x with restarted := true } (s.scoutDie r)
        | none => s
  s.modScout u fun x => { x with st := if x.st = .fenced && x.fails ≥ 3 then .fenced else .off, run := none,
                                 left := if x.st = .ready then s.now else x.left }
/-- Every scout leaves service (R144, R251). -/
def State.scoutsOff (s : State) : State := (List.range 12).foldl State.scoutOff s
/-- The scouts of a store die (R132). -/
def sdScouts (n : Nat) : List Nat := if n < 6 then [2 * n, 2 * n + 1] else []

/-- The running commands that satisfy `f` end with `CMD_ECC` and a unit. -/
def State.cutWhere (s : State) (f : Run → Bool) (unit : Nat) : State :=
  s.runs.foldl (fun s r => if f r then s.cutRun r.id St.ecc (BitVec.ofNat 32 unit) else s) s

/-- A store die leaves service: its stacks, slice, scouts and Chaver ports with it, and the commands that use it end (R238, R346, R388). -/
def State.storeDieOut (s : State) (n unit : Nat) : State :=
  let s := s.cutWhere (fun r => s.usesDie r n) unit
  let s := (sdScouts n).foldl State.scoutOff s
  let s := s.modBoot fun b => { b with sdReady := b.sdReady &&& ~~~ (BitVec.ofNat 8 (2 ^ n)) }
  (List.range 4).foldl (fun s i => s.portDown (4 * n + i) 0xC) s

/-- A comb leaves service: its cells are absent (R238, R346). -/
def State.combOut (s : State) (c unit : Nat) : State :=
  ((combCells c).foldl (fun s i => (s.cutCell i unit).absentCell i) s).cellLoss c

/-- `DP_DOWN` (R238): the commands that need the port end with `CMD_ECC`. -/
def State.dieDown (s : State) (dp : Nat) : State :=
  let t := s.modDp dp fun r => { r with st := .down }
  let t := if dp < 8 then t.combOut dp (0x400 + dp)
    else if dp < 16 then t.storeDieOut (dp - 8) (0x400 + dp)
    else t.cutWhere (fun r => needsHub r.words) 0x410
  t.noteReady s

/-- A die port without a bundle in service in some direction goes down. -/
def State.checkDp (s : State) (dp : Nat) : State :=
  if (s.diePort dp).st = .up && (s.width dp false = 0 || s.width dp true = 0) then s.dieDown dp else s

/-- The number by which an event names a lane: die port, bundle, lane, direction (log entry 26). -/
def laneCode (dp : Nat) (rx : Bool) (b l : Nat) : Nat := dp * 2 ^ 16 + b * 2 ^ 8 + l * 2 + b2n rx

/-- Lanes of a bundle retired (R234, R236); each is logged. -/
def State.retireLanes (s : State) (dp : Nat) (rx : Bool) (b : Nat) (m : W16) : State :=
  let fresh := m &&& ~~~ (s.bundle dp rx b).lost
  if fresh = 0 then s
  else
    let s := s.modBundle dp rx b fun x => { x with lost := x.lost ||| m }
    let s := (List.range 16).foldl (fun s l => if fresh.getLsbD l then s.logEvent 0x24 (unitDp dp) (laneCode dp rx b l) 0 else s) s
    (s.askWrite .flush).checkDp dp

/-- One retrain more (R254). -/
def State.noteRetrain (s : State) (dp : Nat) : State := s.modDp dp fun r => { r with retrains := min 0x7F (r.retrains + 1) }

/-- The receive bundles that hear a transmit bundle, as (die port, bundle) (R226). -/
def State.hearers (s : State) (a t : Nat) : List (Nat × Nat) :=
  s.base.ledger.filterMap fun p => if p.2.src = some (a, t) then some (p.1 / 32, p.1 % 32) else none
/-- A transmit bundle's pair goes under retrain, where somebody hears it (R234, R236, R250). -/
def State.toTrain (s : State) (a t : Nat) : State :=
  if (s.hearers a t).isEmpty then s else s.modTx a t fun x => { x with training := true }
/-- Lanes with a persistent fault (R234): they are retired at once, and the bundle pair is retrained. -/
def State.faultLanes (s : State) (dp : Nat) (rx : Bool) (b : Nat) (m : W16) : State :=
  let s := s.retireLanes dp rx b m
  if rx then match (s.grantOf dp b).src with | some (a, t) => s.toTrain a t | none => s
  else s.toTrain dp b

/-! ### Die-port flits (R229 to R232) -/

/-- FLOW, LSEQ, TYPE, ACK_V, NAK, ACK_TXB, ACK_SEQ, LEN, PAYLOAD as far as LEN goes, CRD_FLOW and CREDIT of a flit (R230). -/
structure DieFlit where
  flow   : Nat
  lseq   : Byte
  type   : Nat
  ackV   : Bool
  nak    : Bool
  ackTxb : Nat
  ackSeq : Byte
  len    : Nat
  data   : List Byte
  crdFlow : Nat
  credit : Nat
deriving DecidableEq, Repr

def parseDie (b : List Byte) : DieFlit :=
  let w0 := wd (bytesToWords 2 b) 0
  let w1 := wd (bytesToWords 2 b) 1
  let c := wd (bytesToWords 63 b) 62
  let n := min (fld w1 15 8) 240
  ⟨fld w0 31 16, BitVec.ofNat 8 (fld w0 15 8), fld w0 7 4, bit w1 31, bit w1 30, fld w1 28 24, BitVec.ofNat 8 (fld w1 23 16), n,
    (b.drop 8).take n, fld c 31 16, fld c 15 0⟩

/-- The CRC of a flit is right. -/
def dieCrcOk (b : List Byte) : Bool := b.length = 256 && ofBytes (b.drop 252) = (crc32 (b.take 252)).toNat

/-- A control flit that acknowledges a pair and returns credit for a flow (R230; log entry 26). -/
def dieAck (txb : Nat) (seq : Byte) (nak : Bool) (flow credit : Nat) : List Byte :=
  let b := wordsToBytes [0x30, BitVec.ofNat 32 (2 ^ 31 + b2n nak * 2 ^ 30 + txb * 2 ^ 24 + seq.toNat * 2 ^ 16)] ++
    List.replicate 240 0 ++ toBytes 4 (flow * 2 ^ 16 + credit)
  b ++ toBytes 4 (crc32 b).toNat

/-- A pair's bundles are both in service (R235). -/
def State.pairUp (s : State) (a t b i : Nat) : Bool := s.bundleState a false t ≠ 2 && s.bundleState b true i ≠ 2
/-- The transmit bundle of `a` that a receive bundle of `b` hears, of a pair in service (R226). -/
def State.pairTx (s : State) (a b : Nat) : Option Nat :=
  (List.range (bundlesOf b)).findSome? fun i => match (s.grantOf b i).src with
    | some (x, t) => if x = a && s.pairUp a t b i then some t else none
    | none => none

/-- An acknowledgement for the pair (src, txb → dp) leaves `dp` on a bundle granted to `src`. -/
def State.sendAck (s : State) (dp src txb : Nat) (seq : Byte) (nak : Bool) (flow credit : Nat) : State :=
  match s.pairTx dp src with
  | some t => s.emit (.dieFlit dp t (dieAck txb seq nak flow credit))
  | none => s

/-- A die port's flows are suspended: it is down, or its width is disputed (R237, R238). -/
def State.portStill (s : State) (dp : Nat) : Bool := (s.diePort dp).st = .disputed || ((s.diePort dp).ended && (s.diePort dp).st = .down)
/-- A pair carries no flits: a bundle of it is out of service (R235), it is under retrain, or the flows of one of its die ports are
suspended (R236, R237). -/
def State.pairStill (s : State) (a t dp b : Nat) : Bool := !s.pairUp a t dp b || (s.dieTx a t).training || s.portStill a || s.portStill dp
/-- A ring of a lane that the pair runs on is out of lock or on the wrong line: its flits fail their CRC (R241, R242). -/
def State.ringsBad (s : State) (a t dp b : Nat) : Bool :=
  (s.base.rings ++ s.base.wrong).any fun r => match r with
    | .lane d rx x l => (s.pairLanes a t dp b).contains l.val && ((!rx && d.val = a && x.val = t) || (rx && d.val = dp && x.val = b))
    | .scout _ _ _ => false

/-- The replay buffer of a transmit bundle sent again. -/
def State.dieResend (s : State) (dp b : Nat) : State :=
  let s := (s.dieTx dp b).replay.foldl (fun s f => s.emit (.dieFlit dp b f.flit)) s
  s.modTx dp b fun x => { x with replay := x.replay.map fun f => { f with at_ := s.now }, due := false }

/-- A NAK for the oldest unacknowledged flit (R231): retry 1 at once, retries 2 to 8 later; after them, a retrain (R232). -/
def State.dieNak (s : State) (dp b : Nat) : State :=
  if (s.dieTx dp b).replay.isEmpty then s
  else
    let s := s.modTx dp b fun x => { x with naks := x.naks + 1, stamp := s.now, due := x.naks < 8, training := x.training || x.naks ≥ 8 }
    if (s.dieTx dp b).naks = 1 then s.dieResend dp b else s

/-- What a die acknowledges leaves the replay buffer, once every die that hears it has (R226, R231). -/
def DieTx.acked (x : DieTx) (a : Nat) (seq : Byte) : List DieSent :=
  (x.replay.map fun f => if ((parseDie f.flit).lseq - seq - 1).toNat < 128 then f else { f with left := f.left.filter fun d => d ≠ a }).filter
    fun f => !f.left.isEmpty
/-- The acknowledgement fields of a flit that `dp` receives from die `a`. With the oldest flit acknowledged, no retry of it is due. -/
def State.dieAcked (s : State) (dp a : Nat) (f : DieFlit) : State :=
  if !f.ackV then s
  else
    let t := s.dieTx dp f.ackTxb
    let rest := t.acked a f.ackSeq
    let less := rest.length < t.replay.length
    let s := s.modTx dp f.ackTxb fun x => { x with replay := rest, naks := if less then 0 else x.naks, due := x.due && !less }
    if f.nak then s.dieNak dp f.ackTxb else s

/-! ### Flows and credit (R229, R230) -/

def State.flow (s : State) (f : Nat) : FlowRec := Tab.get {} s.base.flows f
def State.modFlow (s : State) (f : Nat) (g : FlowRec → FlowRec) : State :=
  s.modBase fun b => { b with flows := Tab.set {} b.flows f (g (s.flow f)) }
/-- Credit returned to the sender of a flow. -/
def State.takeCredit (s : State) (f : DieFlit) : State :=
  if f.credit = 0 then s else s.modFlow f.crdFlow fun x => { x with given := x.given + f.credit }

/-- A flow has flits in a replay buffer of a transmit bundle. -/
def DieTx.carries (x : DieTx) (flow : Nat) : Bool := x.replay.any fun f => (parseDie f.flit).flow = flow
/-- The die may send the flit as a new one on a transmit bundle: the replay buffer has room (R231); the flow is the die's, the other flow
of its pair is not (R229); it runs on this bundle pair only, and a pair that is to move takes no new flow (R228); its credit covers the
payload (R230). -/
def State.maySend (s : State) (a t : Nat) (moving : Bool) (f : DieFlit) : Bool :=
  let x := s.flow f.flow
  (s.dieTx a t).replay.length < 128 &&
  (x.src.isNone || x.src = some a) && (s.flow (f.flow ^^^ 1)).src ≠ some a &&
  !(s.base.tx.any fun p => p.1 ≠ laneKey a t && p.2.carries f.flow) && (!moving || (s.dieTx a t).carries f.flow) &&
  x.used + cdiv f.len 64 ≤ Config.startCredit f.flow + x.given

/-- A new flit as its sender keeps it until the dies that are to take it have acknowledged it (R231). -/
def State.keepFor (s : State) (a t : Nat) (dies : List Nat) (flit : List Byte) : State :=
  s.modTx a t fun x => { x with next := x.next + 1, replay := x.replay ++ [⟨flit, s.now, dies⟩] }
/-- A new flit for every die that hears the bundle. -/
def State.keepSent (s : State) (a t : Nat) (flit : List Byte) : State := s.keepFor a t ((s.hearers a t).map (·.1)).eraseDups flit
/-- The flit that arrived is one that the sender has sent and keeps: a new one, which its flow's credit pays for, or one kept already. -/
def State.noteSent (s : State) (a t : Nat) (flit : List Byte) (f : DieFlit) : State :=
  if f.lseq = (s.dieTx a t).next then
    (s.keepSent a t flit).modFlow f.flow fun x => { x with src := some a, used := x.used + cdiv f.len 64 }
  else s.modTx a t fun x => { x with replay := x.replay.map fun y => if (parseDie y.flit).lseq = f.lseq then { y with flit := flit } else y }

/-- The payload of a flit in order goes to its flow's destination engine, which acknowledges the transfer with its last one (R229). -/
def State.deliverDie (s : State) (dp : Nat) (f : DieFlit) : State :=
  let k := f.flow * 32 + dp
  let x := Tab.get {} s.base.inflow k
  s.modBase fun b => { b with inflow := Tab.set {} b.inflow k (if f.type = 1 then ⟨[], x.done + 1⟩ else ⟨x.part ++ f.data, x.done⟩) }

/-- A flit that was sent but not received as it was: a free value in the sender's replay buffer, with the next LSEQ. -/
def State.unknownSent (s : State) (a t : Nat) : State := (s.keepSent a t (setAt 0 (s.freeBytes 0 256) 1 (s.dieTx a t).next)).draw

/-- A failed flit (R231): it and every later one of the pair are discarded until it arrives again; a NAK goes back. What
was sent is not known from what arrived. -/
def State.dieFailed (s : State) (dp b a t : Nat) : State :=
  let r := s.dieRx dp b
  let known := (s.dieTx a t).replay.any fun y => (parseDie y.flit).lseq = r.next
  let s := if known || (s.dieTx a t).replay.length ≥ 128 then s else s.unknownSent a t
  (s.modRx dp b fun x => { x with failing := true }).sendAck dp a t (r.next - 1) true 0 0

/-- A data flit from transmit bundle `t` of `a`, with a right CRC (R229 to R231). -/
def State.dieData (s : State) (dp b a t : Nat) (moving : Bool) (flit : List Byte) (f : DieFlit) : State :=
  let r := s.dieRx dp b
  if f.lseq = (s.dieTx a t).next && !s.maySend a t moving f then s
  else
    let s := s.noteSent a t flit f
    if f.lseq = r.next then
      ((s.modRx dp b fun x => { x with next := x.next + 1, failing := false }).deliverDie dp f).sendAck dp a t f.lseq false f.flow (cdiv f.len 64)
    else if r.failing then s
    else if (r.next - 1 - f.lseq).toNat < 128 then s.sendAck dp a t (r.next - 1) false 0 0
    else (s.modRx dp b fun x => { x with failing := true }).sendAck dp a t (r.next - 1) true 0 0

/-- A flit arrives on a receive bundle from the transmit bundle that its grant names (R230, R231). A suspended pair carries none. One that
fails is corrected by its retry, and counts for the health score (R322; log entry 87). -/
def State.dieReceive (s : State) (dp b : Nat) (flit : List Byte) : State :=
  let g := s.grantOf dp b
  match g.src with
  | none => s
  | some (a, t) =>
    if s.pairStill a t dp b then s
    else if !dieCrcOk flit || s.ringsBad a t dp b then (s.countError (unitDp dp)).dieFailed dp b a t
    else
      let f := parseDie flit
      let s := (s.dieAcked dp a f).takeCredit f
      if f.type > 1 then s else s.dieData dp b a t g.next.isSome flit f

/-- The flows on a transmit bundle are suspended for every die that hears it, or nobody hears it. -/
def State.txStill (s : State) (dp b : Nat) : Bool := (s.hearers dp b).all fun h => s.pairStill dp b h.1 h.2

/-- Retry *n*, for *n* from 2 to 8: the time is brought to 2^(n − 1) µs after the NAK. -/
def State.dieRetry (s : State) (dp b : Nat) : State :=
  let t := s.dieTx dp b
  if !t.due || t.naks < 2 || t.naks > 8 || s.txStill dp b then s else (s.passTo (t.stamp + 2 ^ (t.naks - 1))).dieResend dp b

/-- 1 µs since its sending without acknowledgement counts as a NAK for the oldest flit. Where the replay buffer is empty, a flit was sent
that never arrived. -/
def State.dieAckTimeout (s : State) (dp b : Nat) : State :=
  if (s.dieTx dp b).due || s.txStill dp b then s
  else
    let s := if (s.dieTx dp b).replay.isEmpty then s.unknownSent dp b else s
    match (s.dieTx dp b).replay with
    | f :: _ => (s.passTo (f.at_ + 1)).dieNak dp b
    | [] => s

/-- A flit with another LSEQ. -/
def relabel (flit : List Byte) (seq : Byte) : List Byte :=
  let b := setAt 0 flit 1 seq
  b.take 252 ++ toBytes 4 (crc32 (b.take 252)).toNat
/-- A flit of another bundle's replay buffer is sent on a bundle as a new one, for one die (R232). -/
def State.sendMoved (s : State) (dp u peer : Nat) (f : DieSent) : State :=
  let flit := relabel f.flit (s.dieTx dp u).next
  (s.keepFor dp u [peer] flit).emit (.dieFlit dp u flit)

/-- A transmit bundle of `dp` on another grant to `peer` that carries flits and that no other die hears (R232). -/
def State.otherGrant (s : State) (dp t peer : Nat) : Option Nat :=
  (List.range (bundlesOf peer)).findSome? fun i => match (s.grantOf peer i).src with
    | some (x, u) => if x = dp && u ≠ t && !s.pairStill dp u peer i && (s.hearers dp u).all fun h => h.1 = peer then some u else none
    | none => none

/-- What a transmit bundle sent no longer waits for a die that has taken it: the flits up to the last LSEQ received in order, as the
retrain of the pair finds it (R229: exactly once). -/
def State.settleRx (s : State) (dp t peer r : Nat) : State :=
  let last := (s.dieRx peer r).next - 1
  s.modTx dp t fun x => { x with replay := (x.replay.map fun f =>
    if (last - (parseDie f.flit).lseq).toNat < 128 then { f with left := f.left.filter fun d => d ≠ peer } else f).filter fun f => !f.left.isEmpty }

/-- The flits that a transmit bundle still has to deliver to a die leave on another grant of the two dies; what that one's replay buffer
has no room for stays (R232). -/
def State.moveFlits (s : State) (dp t peer u : Nat) : State :=
  let go := ((s.dieTx dp t).replay.filter fun f => f.left.contains peer).take (128 - (s.dieTx dp u).replay.length)
  let n := go.length
  let s := go.foldl (fun s f => s.sendMoved dp u peer f) s
  let strip (x : List DieSent × Nat) (f : DieSent) : List DieSent × Nat :=
    if f.left.contains peer && x.2 < n then
      (if f.left = [peer] then (x.1, x.2 + 1) else (x.1 ++ [{ f with left := f.left.filter fun d => d ≠ peer }], x.2 + 1))
    else (x.1 ++ [f], x.2)
  s.modTx dp t fun x => { x with replay := (x.replay.foldl strip ([], 0)).1 }

/-- A transmit bundle has flits for a die that hears it on no pair in service. -/
def State.stranded (s : State) (dp t peer : Nat) : Bool :=
  !(s.dieTx dp t).training && !((s.hearers dp t).any fun h => h.1 = peer && s.pairUp dp t peer h.2)
/-- The flits of pairs out of service leave on other grants of their dies, as soon as there are any (R232). -/
def State.moveStranded (s : State) : State :=
  s.base.tx.foldl (fun s p => (p.2.replay.flatMap (·.left)).eraseDups.foldl (fun s peer =>
    if s.stranded (p.1 / 32) (p.1 % 32) peer then
      match s.otherGrant (p.1 / 32) (p.1 % 32) peer with
      | some u => s.moveFlits (p.1 / 32) (p.1 % 32) peer u
      | none => s
    else s) s) s

/-- The flits that a retrained pair still has to deliver leave on it again, or on another grant of the two dies (R232). -/
def State.resendAfter (s : State) (dp t peer r : Nat) : State :=
  if s.pairUp dp t peer r then s.dieResend dp t
  else
    let s := s.settleRx dp t peer r
    match s.otherGrant dp t peer with
    | none => s
    | some u => s.moveFlits dp t peer u

/-- A retrain of a bundle pair (R236): failing lanes are retired; where none fails after eight failed retries, both
bundles are. Lanes masked for want of light return, where their source has it again (R250). -/
def State.retrainPair (s : State) (dp t peer r : Nat) (failTx failRx : W16) : State :=
  if (s.grantOf peer r).src ≠ some (dp, t) then s
  else
    let s := (s.noteRetrain dp).noteRetrain peer
    let s := if s.roleLit (fabricSource dp t) then s.modBundle dp false t fun x => { x with dark := false } else s
    let s := if failTx = 0 && failRx = 0 && (s.dieTx dp t).naks > 8 then
        ((((s.modBundle dp false t fun x => { x with out := true }).modBundle peer true r fun x => { x with out := true }).askWrite .flush).checkDp
          dp).checkDp peer
      else (s.retireLanes dp false t failTx).retireLanes peer true r failRx
    (s.modTx dp t fun x => { x with naks := 0, due := false, training := false }).resendAfter dp t peer r

/-- The lane maps that a die trained differ from the hub's record; of a bundle that has no light, or that a retrain retired, they say
nothing (R236, R237, R250). -/
def State.mapsDiffer (s : State) (dp : Nat) (tx rx : List W16) : Bool :=
  (List.range (bundlesOf dp)).any fun b => [false, true].any fun r =>
    let x := s.bundle dp r b
    !x.dark && !x.out && ((if r then rx else tx).getD b (~~~ x.lost)) ≠ ~~~ x.lost

/-- A dispute about width (R237), in two commands: the port becomes `WIDTH_DISPUTED`; then both ends take the lanes that
work in the hub's record and in the die's training, and the port is up again (log entry 16). -/
def State.dispute (s : State) (dp : Nat) (tx rx : List W16) : State :=
  let bs := List.range (bundlesOf dp)
  if (s.diePort dp).st = .up then
    if s.mapsDiffer dp tx rx then (s.modDp dp fun r => { r with st := .disputed }).noteReady s else s
  else if (s.diePort dp).st = .disputed then
    let s := bs.foldl (fun s b =>
      (s.modBundle dp false b fun x => { x with lost := x.lost ||| ~~~ (tx.getD b 0xFFFF) }).modBundle dp true b
        fun x => { x with lost := x.lost ||| ~~~ (rx.getD b 0xFFFF) }) s
    let t := ((s.noteRetrain dp).modDp dp fun r => { r with st := .up }).checkDp dp
    (t.modBoot fun b => if b.die = some dp && b.dieStep = 0 then { b with dieStep := if (t.diePort dp).st = .up then 1 else 2 } else b).noteReady s
  else s

/-- A ring of a lane is out of lock, or on the wrong line: at the receive bundle, or at the transmit bundle that it hears. -/
def State.laneUnlocked (s : State) (dp b l : Nat) : Bool :=
  (s.base.rings ++ s.base.wrong).any fun r => match r with
    | .lane d rx x y => y.val = l && ((rx && d.val = dp && x.val = b) || (!rx && (s.grantOf dp b).src = some (d.val, x.val)))
    | .scout _ _ _ => false

/-- No light for 1 µs on a lane whose rings are locked (R234). -/
def State.laneDark (s : State) (dp b l : Nat) : State :=
  if b ≥ bundlesOf dp || s.laneUnlocked dp b l then s else s.faultLanes dp true b (BitVec.ofNat 16 (2 ^ l))

/-! ### The grant ledger (R226 to R228) -/

/-- Receive bundles that a die has in service. -/
def State.rxBundles (s : State) (b : Nat) : List Nat := (List.range (bundlesOf b)).filter fun i => s.bundleState b true i ≠ 2
/-- A receive bundle's grant, now or after its retune. -/
def Grant.target (g : Grant) : Option (Nat × Nat) := g.next.or g.src
/-- The source that a receive bundle hears, now or after its retune, by a transmit bundle in service. -/
def State.heard (s : State) (b i : Nat) : Option Nat :=
  match (s.grantOf b i).target with | some (a, t) => if s.bundleState a false t = 2 then none else some a | none => none
/-- Receive bundles of `b` that hear `a`, now or after their retune. -/
def State.held (s : State) (a b : Nat) : List Nat := (s.rxBundles b).filter fun i => s.heard b i = some a

/-- Sources that `b` must hear (R227, rules 1, 2 and 4): those that reported bytes within 100 µs, and those that hear it. -/
def State.sources (s : State) (b : Nat) : List Nat :=
  (List.range 17).filter fun a => a ≠ b &&
    ((match s.lastReport a b with | some t => s.now < t + 100 | none => false) ||
     (match s.lastReport b a with | some t => s.now < t + 100 | none => false))

/-- The bundle counts of rule 3: one each, then each further one to the source with the most bytes per bundle held; equal
claims to the lower number (log entry 27). -/
def shares (bytes : Nat → Nat) : Nat → List (Nat × Nat) → List (Nat × Nat)
  | 0, l => l
  | k + 1, l =>
    match bestOf (fun (x y : Nat × Nat) => bytes x.1 * y.2 > bytes y.1 * x.2 || (bytes x.1 * y.2 = bytes y.1 * x.2 && x.1 < y.1))
        (l.filter fun x => bytes x.1 ≠ 0) with
    | none => l
    | some w => shares bytes k (l.map fun x => if x.1 = w.1 then (x.1, x.2 + 1) else x)

/-- A transmit bundle of `a` for a new grant: the lowest one in service that no receiver hears, else the lowest. -/
def State.freeTx (s : State) (a : Nat) : Option Nat :=
  let up := (List.range (bundlesOf a)).filter fun t => s.bundleState a false t ≠ 2
  let used := s.base.ledger.filterMap fun p => p.2.target
  (up.find? fun t => !used.contains (a, t)).or up.head?

/-- What a transmit bundle has sent to a die is acknowledged: the flows of their pair have drained (R228). -/
def State.drained (s : State) (a t b : Nat) : Bool := (s.dieTx a t).replay.all fun f => !f.left.contains b
/-- The LSEQ that a die is to take first from a transmit bundle: that of the oldest flit kept for it, else the next. -/
def DieTx.firstFor (x : DieTx) (b : Nat) : Byte :=
  match x.replay.find? fun f => f.left.contains b with | some f => (parseDie f.flit).lseq | none => x.next
/-- A receive bundle hears a transmit bundle from now on (R226). -/
def State.hear (s : State) (b i a t : Nat) : State :=
  (s.setGrant b i ⟨some (a, t), none, s.now⟩).modRx b i fun _ => ⟨(s.dieTx a t).firstFor b, false⟩

/-- A grant is of no use: it names nobody, or a transmit bundle out of service (R235). -/
def State.deadGrant (s : State) (b i : Nat) : Bool :=
  match (s.grantOf b i).src with | some (a, t) => s.bundleState a false t = 2 | none => true
/-- Receive bundle `i` of `b` is to hear `a`: at once where it hears nobody in service, else once its flows have drained (R228). -/
def State.grantTo (s : State) (b i a : Nat) : State :=
  match s.freeTx a with
  | none => s
  | some t =>
    let g := s.grantOf b i
    if s.deadGrant b i then s.hear b i a t else s.setGrant b i { g with next := some (a, t) }

/-- The pair of a receive bundle is under retrain: the hub does not move it (R228). -/
def State.frozen (s : State) (b i : Nat) : Bool :=
  match (s.grantOf b i).src with
  | some (a, t) => (s.dieTx a t).training || (s.diePort a).st = .disputed || (s.diePort b).st = .disputed
  | none => false

/-- Receive bundle `i` of `b` may leave the bundle of `a` that it hears: another bundle of `b` goes on hearing `a`, or every bundle of `a`
that hears `b` has drained and is not under retrain, so that it can leave too (R227, rule 2). Rule 5 makes no such demand of DP16. -/
def State.mayEnd (s : State) (b i a : Nat) : Bool :=
  let hears (x y j : Nat) : Bool := match (s.grantOf x j).src with | some (z, _) => z = y | none => false
  b = 16 || (s.rxBundles b).any (fun j => j ≠ i && hears b a j && (s.grantOf b j).next.isNone) ||
  (s.rxBundles a).all fun j => match (s.grantOf a j).src with
    | some (z, u) => z ≠ b || (s.drained b u a && !s.frozen a j)
    | none => true

/-- A grant whose source has lost its claim ends once the flows of its pair have drained (R227, R228). -/
def State.dropGrant (s : State) (b i : Nat) : State :=
  match (s.grantOf b i).src with
  | some (a, t) => if s.deadGrant b i || (s.drained a t b && s.mayEnd b i a) then s.setGrant b i {} else s
  | none => s.setGrant b i {}

/-- The ledger of one receiver brought to a list of wanted counts: its idle bundles, those whose source lost its claim, and those past
their source's count, where their pair is not under retrain, go to the sources that lack some; of the rest, those whose source lost its
claim become idle. -/
def State.rebalance (s : State) (b : Nat) (want : List (Nat × Nat)) : State :=
  let claim (i : Nat) : Bool := match s.heard b i with | some a => want.any fun w => w.1 = a | none => false
  let mine := (s.rxBundles b).filter fun i => !s.frozen b i
  let idle := mine.filter fun i => !claim i
  let surplus := want.flatMap fun w => ((s.held w.1 b).drop w.2).filter fun i => !s.frozen b i
  let need := want.flatMap fun w => List.replicate (w.2 - (s.held w.1 b).length) w.1
  let moves := (idle ++ surplus).zip need
  let s := moves.foldl (fun s x => s.grantTo b x.1 x.2) s
  (idle.drop moves.length).foldl (fun s i => s.dropGrant b i) s

/-- DP16's bundles go round-robin among the sources that report bytes for it (rule 5), and those that hear the hub (rule 2). -/
def State.hubRound (s : State) (bytes : Nat → Nat) : State :=
  let hears (a : Nat) : Bool := match s.lastReport 16 a with | some t => s.now < t + 100 | none => false
  let cs := ((List.range 16).map fun i => (s.base.rr16 + i) % 16).filter fun a => bytes a ≠ 0 || hears a
  let pick := cs.take (s.rxBundles 16).length
  let s := s.rebalance 16 (pick.map fun a => (a, 1))
  match pick.getLast? with
  | some a => if cs.length > pick.length then s.modBase fun x => { x with rr16 := (a + 1) % 16 } else s
  | none => s

/-- The report round and the new ledger (R227). -/
def State.reportRound (s : State) (m : List (List Nat)) : State :=
  let at_ (a b : Nat) : Nat := (m.getD a []).getD b 0
  let s := (List.range 289).foldl (fun s k => if at_ (k / 17) (k % 17) = 0 then s
    else s.modBase fun x => { x with reports := Tab.set 0 x.reports k (s.now + 1) }) s
  let s := (List.range 16).foldl (fun s b =>
    let src := s.sources b
    let n := (s.rxBundles b).length
    let base := (src.take n).map fun a => (a, 1)
    s.rebalance b (shares (fun a => at_ a b) (n - base.length) base)) s
  (s.hubRound fun a => at_ a 16).moveStranded

/-- The flows of a bundle's old grant have drained, and it may leave its source: it retunes (R228). -/
def State.retune (s : State) (dp b : Nat) : State :=
  let g := s.grantOf dp b
  match g.next with
  | none => s
  | some n =>
    if s.frozen dp b || (!s.deadGrant dp b && g.src.any fun x => !s.drained x.1 x.2 dp || !s.mayEnd dp b x.1) then s
    else (s.hear dp b n.1 n.2).moveStranded

/-! ### Rings (R239 to R242) -/

/-- A ring of a lane has failed to relock within 5 ms: its lane is retired and its pair retrained (R234, R242). -/
def State.relockLate (s : State) (r : Ring) : State :=
  if !s.base.rings.contains r && !s.base.wrong.contains r then s
  else match r with
  | .lane dp rx b l => s.faultLanes dp.val rx b.val (BitVec.ofNat 16 (2 ^ l.val))
  | .scout _ _ _ => s

/-- Another ring of the scout is out of lock. -/
def State.scoutRings (s : State) (u : Nat) : Bool := s.base.rings.any fun r => match r with | .scout v _ _ => v.val = u | _ => false

/-- A ring falls out of lock (R242, R146). -/
def State.ringLost (s : State) (r : Ring) : State :=
  if s.base.rings.contains r then s
  else
    let t := (s.modBase fun b => { b with rings := b.rings ++ [r] }).bump pgBase 0x210 1
    match r with | .scout u _ _ => if s.scoutRings u.val then t else t.scoutLoss u.val | _ => t

/-- The identity tone of a ring's own line (R240): line *n* of a source with grid offset index *k* carries 10 kHz × (1 + (n + k) mod 4). -/
def ownTone : Ring → Nat
  | .lane _ _ _ l => l.val % 4
  | .scout _ k n => (n.val + k.val) % 4

/-- A ring sees another tone than its own line's (R240, R241): it unlocks and sweeps. -/
def State.ringWrong (s : State) (r : Ring) (tone : Nat) : State :=
  if tone = ownTone r || s.base.wrong.contains r then s
  else (s.modBase fun b => { b with wrong := b.wrong ++ [r] }).bump pgBase 0x214 1

/-- A ring relocks on its own line (R241, R242); a scout goes on once all its rings have (R146). -/
def State.ringRelock (s : State) (r : Ring) : State :=
  let s := s.modBase fun b => { b with rings := b.rings.filter fun x => x ≠ r, wrong := b.wrong.filter fun x => x ≠ r }
  match r with | .scout u _ _ => if s.scoutRings u.val then s else s.scoutRelock u.val | _ => s

/-! ### The slew governor (R243 to R245, R254) -/

/-- A running cell's issue duty rises by an eighth, where the allowance covers it, no supply warning sheds load and no cap paces (R244, R352,
R355). -/
def State.ramp (s : State) (c : Nat) : State :=
  let x := s.cell c
  if x.run.isNone || x.duty ≥ 8 || s.power.supply ≠ .ok || s.power.capped || !s.slewCovers c (s.cellOp c) (x.duty + 1) then s
  else s.letOn c (s.cellOp c) (x.duty + 1)

/-- What an idle cell's keep-warm keeps: WARM_FLOOR on a reserve cell (R245), in 0.25 W. -/
def State.warmFloor (s : State) (c : Nat) : Nat := if s.pairCells.contains c then 4 * min 8 (fld (s.rd pgBase 0x100) 20 16) else 0
/-- An idle cell's keep-warm power falls to its floor as far as the limit downward lets it, or rises to it (R245). -/
def State.keepWarm (s : State) (c : Nat) : State :=
  let x := s.cell c
  if x.run.isSome || !s.cellReady c then s
  else
    let fl := s.warmFloor c
    let down := min (x.power - fl) (s.downRoom (c / 16))
    let up := if fl - x.power ≤ s.upRoom (c / 16) then fl - x.power else 0
    ((s.noteFall (c / 16) down).noteRise (c / 16) up).modCell c fun r => { r with power := r.power - down + up }

/-- The power at the lands of a sample, what draws power beside the combs included (log entry 86), joins the last 100. The power cap paces cell
issue or no longer does (R352); a load shed brings the lands to its limit (R354). -/
def State.noteTotal (s : State) (power : List Nat) : State :=
  let land := ((List.range 8).map fun c => power.getD c 0).sum + Config.otherPower s.free
  let s := s.draw.modPower fun p => { p with totals := (land :: p.totals).take 100 }
  let s := s.modPower fun p => { p with capped := s.overCap }
  if s.power.supply ≠ .ok && land > shedLimit then s.pace true
  else if s.overCap then s.pace false else s

/-- A power sample of every comb; the last ten are the 10 µs window. The power cap paces, the cells ramp, S-class ones first, and keep-warm
falls. -/
def State.slewSample (s : State) (power : List Nat) : State :=
  let s := (List.range 8).foldl (fun s c => s.modBase fun b =>
    { b with slew := Tab.set [] b.slew c ((power.getD c 0 :: Tab.get [] b.slew c).take 10) }) s
  let s := (s.modBase fun b => { b with rise := [], fall := [] }).noteTotal power
  let l := List.range 128
  l.foldl State.keepWarm ((l.filter s.sCell ++ l.filter fun c => !s.sCell c).foldl State.ramp s)

/-- The governor paces a comb's issue: a cell's start waits for it, or its ramp does (R244, R254). -/
def State.paced (s : State) (c : Nat) : Bool :=
  (combCells c).any fun i =>
    let x := s.cell i
    (x.gated && x.picked.isSome) || (x.run.isSome && x.duty < 8 && s.power.supply = .ok && !s.power.capped && !s.slewCovers i (s.cellOp i) (x.duty + 1))

/-! ### The commands -/

/-- QUEUE_REPORT. -/
def execQueueReport (bytes : List (List Nat)) (s : State) : Host.Outcome State Fault Refusal := .next (s.reportRound bytes)
/-- DROP_FILTER_RETUNE. -/
def execDropFilterRetune (dp : Fin 17) (bundle : Fin 28) (s : State) : Host.Outcome State Fault Refusal := .next (s.retune dp.val bundle.val)
/-- DIE_FLIT_RECEIVE. -/
def execDieFlitReceive (dp : Fin 17) (bundle : Fin 28) (flit : List Byte) (s : State) : Host.Outcome State Fault Refusal :=
  .next (s.dieReceive dp.val bundle.val flit)
/-- DIE_FLIT_RETRY. -/
def execDieFlitRetry (dp : Fin 17) (bundle : Fin 28) (s : State) : Host.Outcome State Fault Refusal := .next (s.dieRetry dp.val bundle.val)
/-- DIE_ACK_TIMEOUT. -/
def execDieAckTimeout (dp : Fin 17) (bundle : Fin 28) (s : State) : Host.Outcome State Fault Refusal := .next (s.dieAckTimeout dp.val bundle.val)
/-- BUNDLE_RETRAIN. -/
def execBundleRetrain (dp : Fin 17) (txb : Fin 28) (peer : Fin 17) (rxb : Fin 28) (failTx failRx : W16) (s : State) :
    Host.Outcome State Fault Refusal := .next (let t : State := s.retrainPair dp.val txb.val peer.val rxb.val failTx failRx; t.notify s)
/-- LANE_LOSS_OF_LIGHT. -/
def execLaneLossOfLight (dp : Fin 17) (bundle : Fin 28) (lane : Fin 16) (s : State) : Host.Outcome State Fault Refusal :=
  .next (let t : State := s.laneDark dp.val bundle.val lane.val; t.notify s)
/-- RING_RELOCK_TIMEOUT. -/
def execRingRelockTimeout (ring : Ring) (s : State) : Host.Outcome State Fault Refusal := .next (let t : State := s.relockLate ring; t.notify s)
/-- WIDTH_DISPUTED. -/
def execWidthDisputed (dp : Fin 17) (tx rx : List W16) (s : State) : Host.Outcome State Fault Refusal := .next (let t : State := s.dispute dp.val tx rx; t.notify s)
/-- RING_WRONG_LOCK. -/
def execRingWrongLock (ring : Ring) (tone : Fin 4) (s : State) : Host.Outcome State Fault Refusal := .next (s.ringWrong ring tone.val)
/-- RING_LOCK_LOSS. -/
def execRingLockLoss (ring : Ring) (s : State) : Host.Outcome State Fault Refusal := .next (s.ringLost ring)
/-- RING_RELOCK. -/
def execRingRelock (ring : Ring) (s : State) : Host.Outcome State Fault Refusal := .next (s.ringRelock ring)
/-- SLEW_SAMPLE. -/
def execSlewSample (power : List Nat) (s : State) : Host.Outcome State Fault Refusal := .next (s.slewSample power)

end Sys2Proof.Machine
end

