-- ==== Sys2Proof/Machine/Mfm.lean ====
section
/-! DEFINITION. Mbaeri fabric memory (R288 to R303): requests sent, retried and given up, responses, the target with its
guard and deduplication window, and the fabric domain table. -/

namespace Sys2Proof.Machine
open Host

/-! ### The requester (R291 to R293, R296 to R298) -/

/-- A command goes on after one of its requests was sent or answered. -/
def State.resume (s : State) (id : CmdId) : State :=
  match s.run? id with
  | none => s
  | some r =>
    if r.res.isSome then s
    else match opcodeOf r.words with
    | 0x20 => s.copyOn r
    | 0x31 => if r.phase ≥ 1 then s.combine r else s
    | 0x30 => if r.phase ≥ 2 then s.settle id else s
    | 0x32 => match r.scout with
      | some x => if r.phase ≥ 2 then s.settle id else if r.phase = 1 && x.unit.isNone && x.die.isNone then s.scoutStart r x (State.scoutScore · 12) else s
      | none => s
    | 0x51 => if r.phase ≥ 2 then s.settle id else s
    | 0x70 => if r.phase ≥ 1 then s.stepBegin r else s
    | 0x71 => if r.phase = 3 then s.settle id else s
    | _ => s

/-- The request with a tag. -/
def State.mfmReq (s : State) (tag : W32) : Option MfmReq := s.fab.reqs.find? fun m => m.tag = tag
/-- The state with the request of a tag changed. -/
def State.modReq (s : State) (tag : W32) (f : MfmReq → MfmReq) : State :=
  s.modFab fun b => { b with reqs := b.reqs.map fun m => if m.tag = tag then f m else m }
/-- The state without the request of a tag. -/
def State.dropReq (s : State) (tag : W32) : State := s.modFab fun b => { b with reqs := b.reqs.filter fun m => m.tag ≠ tag }

/-- The payload of a request (R291); AGE starts at 0. -/
def MfmReq.payload (m : MfmReq) (retry : Bool) : List Byte :=
  toBytes 8 m.addr.toNat ++ toBytes 4 m.opid.toNat ++ toBytes 2 m.domain.toNat ++
    [BitVec.ofNat 8 (m.op.toNat * 16 + m.aop.toNat), BitVec.ofNat 8 (b2n m.aw * 128 + b2n retry * 64)] ++
    toBytes 2 m.size ++ toBytes 2 0 ++ toBytes 4 m.tag.toNat ++ toBytes 8 0 ++ m.data

/-- The message of a request (R268, R291). -/
def MfmReq.message (m : MfmReq) (retry : Bool) : Message := ⟨m.dst, if m.bulk then 3 else 0, 0, false, m.payload retry⟩

/-- The next OPID of a destination (R298). -/
def State.nextOpid (s : State) (dst : Nat) : W32 := Tab.get 0 s.fab.opids dst
/-- The record of the last atomic that used an OPID slot toward a destination. -/
def opidKey (dst : Nat) (o : W32) : Nat := dst * 4096 + o.toNat % 4096
def State.opidRec (s : State) (dst : Nat) (o : W32) : OpidRec := Tab.get {} s.fab.opidRec (opidKey dst o)
def State.setOpid (s : State) (dst : Nat) (o : W32) (r : OpidRec) : State :=
  s.modFab fun b => { b with opidRec := Tab.set {} b.opidRec (opidKey dst o) r }

/-- The OPID rule of R298: the atomic 4,096 before it has completed, and its last copy is 1 ms old. -/
def State.opidFree (s : State) (dst : Nat) : Bool :=
  let o := s.nextOpid dst
  let r := s.opidRec dst o
  r.opid ≠ o - 4096 || (r.done && r.last + 1000 ≤ s.now)

/-- A request may be sent (R293, R296, R298): the requests of its command before it have been; the hive has space for its response
(R285; the number of responses is the F48's: log entry 73); and the stores before it to its destination travel in its class or are
acknowledged, so that stores stay in order. -/
def State.mfmMay (s : State) (m : MfmReq) : Bool :=
  let before := s.fab.reqs.takeWhile fun x => x.tag ≠ m.tag
  !(before.any fun x => x.owner = m.owner && !x.sent) &&
  (s.fab.reqs.filter fun x => x.sent).length ≤ Config.responseSlots &&
  (m.op ≠ 2 || !(s.fab.reqs.any fun x => x.sent && x.op = 2 && x.dst = m.dst && x.bulk ≠ m.bulk)) &&
  (s.fab.reqs.filter fun x => x.sent && x.ctx = m.ctx && x.dst = m.dst).length < (s.cx m.ctx).mfmOut &&
  (m.op ≠ 3 || (s.fab.atomOk && (s.fab.reqs.filter fun x => x.sent && x.op = 3 && x.dst = m.dst).length < 2048 && s.opidFree m.dst.toNat)) &&
  s.mayInject (m.message false)

/-- A waiting request is sent, if it may be: an atomic takes the next OPID of its destination. -/
def State.mfmSend (s : State) (tag : W32) : State :=
  match s.mfmReq tag with
  | none => s
  | some m =>
    if m.sent || !s.mfmMay m then s
    else
      let d := m.dst.toNat
      let m := { m with sent := true, first := s.now, last := s.now, copies := 1, opid := if m.op = 3 then s.nextOpid d else 0 }
      let s := s.modReq tag fun _ => m
      let s := if m.op = 3 then
          (s.setOpid d m.opid ⟨m.opid, false, s.now⟩).modFab fun b => { b with opids := Tab.set 0 b.opids d (m.opid + 1) }
        else s
      let s := s.sendMessage (m.message false)
      match m.owner with | some id => s.resume id | none => s

/-- The bound of a request, in µs (R297). -/
def State.mfmBound (s : State) (m : MfmReq) : Nat :=
  let r := s.rd pgFab 0x160
  if colonyOf m.dst.toNat = colonyOf s.hive then fld r 8 0 else 100 * fld r 21 16

/-- A load or an atomic sent again with its OPID, bound/4 after the last sending (R297): the time is brought to that
point; an atomic only within 1.5 ms of its first sending. A copy that may not be injected is not sent (R281, R283). -/
def State.mfmRetry (s : State) (tag : W32) : State :=
  match s.mfmReq tag with
  | none => s
  | some m =>
    let t := max s.now (m.last + cdiv (s.mfmBound m) 4)
    if !m.sent || m.op = 2 || t ≥ m.first + s.mfmBound m || (m.op = 3 && t ≥ m.first + 1500) then s
    else
      let s := s.passTo t
      if !s.mayInject (m.message true) then s else
      let s := s.modReq tag fun x => { x with last := t, copies := x.copies + 1 }
      let s := if m.op = 3 then s.setOpid m.dst.toNat m.opid ⟨m.opid, false, t⟩ else s
      s.sendMessage (m.message true)

/-- The first failure that a command's requests meet; one held back by an FFAB wait takes it too (R292, R297). -/
def State.mfmFail (s : State) (id : CmdId) (e : Err) : State :=
  s.modRun id fun r => match r.res with
    | none => { r with err := some (r.err.getD e) }
    | some (st, _) => if st = St.ok then { r with res := some e } else r

/-- What a load or an atomic returned, kept for its command. -/
def State.mfmData (s : State) (m : MfmReq) (bs : List Byte) : State :=
  match m.owner with
  | some id => if m.op = 2 then s else s.modRun id fun r => { r with remote := r.remote ++ [(m.key, bs)] }
  | none => s

/-- An acknowledgement that a wait receives restarts its drain timer (R301). -/
def State.mfmAck (s : State) (m : MfmReq) : State :=
  if m.op = 1 then s
  else { s with runs := s.runs.map fun r =>
    if r.fabSince.isSome && (s.covered r).any fun x => x.tag = m.tag then { r with fabSince := some s.now } else r }

/-- The request is over: its OPID has completed, and its command goes on. -/
def State.mfmOver (s : State) (m : MfmReq) : State :=
  let s := s.dropReq m.tag
  let s := if m.op = 3 then s.setOpid m.dst.toNat m.opid { s.opidRec m.dst.toNat m.opid with done := true } else s
  match m.owner with | some id => s.resume id | none => s

/-- A response arrives (R292): data, or the failure that its status names; one that belongs to no request is discarded.
What a failed load or atomic returned is unspecified. -/
def State.mfmResponse (s : State) (src : W16) (p : List Byte) : State :=
  match s.mfmReq (BitVec.ofNat 32 (ofBytes ((p.drop 4).take 4))) with
  | none => s
  | some m =>
    if !m.sent || m.dst ≠ src then s
    else
      let st := (p.getD 8 0).toNat
      let s := s.mfmAck m
      let s := if st = 0 then s.mfmData m ((p.drop 16).take m.size) else s.draw.mfmData m (s.draw.freeBytes 0 m.size)
      let s := match m.owner with
        | some id => if st = 1 then s.mfmFail id (St.guard, src.setWidth 32) else if st = 2 then s.mfmFail id (St.ecc, 0x600) else s
        | none => s
      s.mfmOver m

/-- The bound passes without a response (R297): the time is brought to it. An atomic of which this hive discarded every copy has
not been applied. A store is only missed by a fence. -/
def State.mfmTimeout (s : State) (tag : W32) : State :=
  match s.mfmReq tag with
  | none => s
  | some m =>
    if !m.sent || m.op = 2 then s
    else
      let s := s.passTo (m.first + s.mfmBound m)
      let d := m.dst.setWidth 32
      let fail (s : State) (e : Err) : State := match m.owner with | some id => s.mfmFail id e | none => s
      let s := if m.op = 1 then fail (s.mfmData m (List.replicate m.size 0xFF)) (St.fabricTimeout, d)
        else fail (s.draw.mfmData m (s.draw.freeBytes 0 m.size)) (if m.lost < m.copies then St.indeterminate else St.fabricTimeout, d)
      s.mfmOver m

/-- 2 ms after `FAB_CTRL.EN` was set, remote atomics may be sent (R298): the time is brought to that point. -/
def State.atomStart (s : State) : State :=
  if !bit (s.rd pgFab 0x104) 31 || s.fab.atomOk then s
  else (s.passTo (s.fab.enAt + 2000)).modFab fun b => { b with atomOk := true }

/-! ### The target (R294, R299, R300) -/

/-- The request of a message (R291). -/
def reqOf (p : List Byte) : Req :=
  { addr := ofBytes (p.take 8), op := (p.getD 14 0).toNat / 16, aop := (p.getD 14 0).toNat % 16, aw := (p.getD 15 0).toNat ≥ 128,
    size := ofBytes ((p.drop 16).take 2), data := p.drop 32 }

/-- A response leaves (R291, R292). -/
def State.mfmReply (s : State) (src : W16) (p : List Byte) (status : Nat) (dup : Bool) (data : List Byte) : State :=
  s.sendMessage ⟨src, 1, 0, false,
    (p.drop 8).take 4 ++ (p.drop 20).take 4 ++ [BitVec.ofNat 8 status, BitVec.ofNat 8 (b2n dup)] ++ toBytes 6 0 ++ data⟩

/-- Status and data of what the guard served (R292); none while the access waits. -/
def Served.answer : Served → Option (Nat × List Byte)
  | .ok d => some (0, d)
  | .refused => some (1, [])
  | .poison _ => some (2, [])
  | .wait _ => none

/-- The DOMAIN of a request (R291). -/
def reqDomain (p : List Byte) : Nat := ofBytes ((p.drop 12).take 2)
/-- A request as it arrives (R295, R299). -/
def State.arrival (s : State) (src : W16) (p : List Byte) : Waiting := ⟨src, p, s.now, s.domEntry (reqDomain p)⟩

/-- A request waits at the guard, with the banks that it needs noted. -/
def State.serveLater (s : State) (w : Waiting) (e : Err) : State :=
  (s.modFab fun b => { b with serveQ := b.serveQ ++ [w] }).noteWindow e.2

/-- The guard serves a request, under the entry that held its DOMAIN as it arrived (R295); the signedness of MIN and MAX, which the request
does not say, is free. -/
def State.serveFrom (s : State) (w : Waiting) : Served × State :=
  s.draw.guard (colonyOf w.src.toNat) (reqDomain w.payload) w.dom (reqOf w.payload) (Config.freeBool s.draw.free 0)

/-- The HBM address of an atomic's record in the deduplication window (R299, R300), 32 bytes each: 4,096 records of 4,096 sources in
8,192 pages. -/
def State.dedupAt (s : State) (src : W16) (o : Nat) : Nat :=
  fld (s.rd pgFab 0x164) 23 0 * 65536 + ((if bit (s.rd pgFab 0x164) 30 then src.toNat else src.toNat % 4096) * 4096 + o % 4096) * 32
/-- The key of the deduplication area (R396). -/
def State.dedupTag (s : State) : KeyTag := some s.sec.dedupKey

/-- The window takes atomics, from this source (R300). -/
def State.dedupTakes (s : State) (src : W16) : Bool :=
  bit (s.rd pgFab 0x164) 31 && (bit (s.rd pgFab 0x164) 30 || colonyOf src.toNat = colonyOf s.hive)

/-- A record of the window written at its place in HBM; the bytes that hold it there are the F48's own (log entry 74). -/
def State.dedupPut (s : State) (a : Nat) (d : Dedup) : State :=
  (s.draw.modMem fun m => m.hbmWrite s.dedupTag a (s.draw.freeBytes 0 32)).modFab fun b => { b with dedup := Tab.set none b.dedup (a / 32) (some d) }

/-- An atomic that the window does not know is applied, recorded with the time of its arrival, and answered (R299). -/
def State.dedupNew (s : State) (w : Waiting) (o a : Nat) : State :=
  let x := s.serveFrom w
  match x.1, x.1.answer with
  | .wait e, _ => s.serveLater w e
  | _, some r => (x.2.dedupPut a ⟨BitVec.ofNat 32 o, w.at_, BitVec.ofNat 8 r.1, r.2⟩).mfmReply w.src w.payload r.1 false r.2
  | _, none => s

/-- An arriving atomic (R299). A record that cannot be read answers `POISON`, and nothing is applied (log entry 74). -/
def State.mfmAtomic (s : State) (w : Waiting) : State :=
  let src := w.src
  let p := w.payload
  let o := ofBytes ((p.drop 8).take 4)
  if ofBytes ((p.drop 18).take 2) > 500 then s.bump pgFab 0x180 1
  else if !s.dedupTakes src then s.mfmReply src p 1 false []
  else
    let a := s.dedupAt src o
    if s.starved ownPart (a / 65536) then s.serveLater w (St.notYet, 0) else
    match s.hbmRead s.dedupTag a 32 with
    | .error e => if e.1 = St.notYet then s.serveLater w e else s.mfmReply src p 2 false []
    | .ok _ => match Tab.get none s.fab.dedup (a / 32) with
      | some d => if d.opid = BitVec.ofNat 32 o && w.at_ < d.at_ + 2000 then
          (s.bump pgFab 0x184 1).mfmReply src p d.status.toNat true d.result else s.dedupNew w o a
      | none => s.dedupNew w o a

/-- A request is served (R294, R299), or waits: a store also behind an earlier store of its hive (R296). -/
def State.mfmServe (s : State) (w : Waiting) : State :=
  let q := reqOf w.payload
  if q.op = 3 then s.mfmAtomic w
  else if q.op = 2 && s.fab.serveQ.any fun x => x.src = w.src && (reqOf x.payload).op = 2 then s.serveLater w (St.notYet, 0)
  else
    let x := s.serveFrom w
    match x.1, x.1.answer with
    | .wait e, _ => s.serveLater w e
    | _, some r => x.2.mfmReply w.src w.payload r.1 false r.2
    | _, none => s

/-- The requests that wait at the guard are tried again, in order of arrival. -/
def State.serveWaiting (s : State) : State :=
  s.fab.serveQ.foldl State.mfmServe (s.modFab fun b => { b with serveQ := [] })

/-- A request arrives: those that wait go first. -/
def State.mfmArrive (s : State) (src : W16) (p : List Byte) : State := s.serveWaiting.mfmServe (s.arrival src p)

/-! ### The fabric domain table (R295, R303) -/

def State.domIndex (s : State) : Nat := fld (s.rd pgFab 0x170) 9 0
/-- DOM_CMD 0b01. -/
def State.domPut (s : State) : State :=
  let k := s.domIndex
  let w0 := s.rd pgFab 0x174 &&& 0x8FFFFFFF
  let w1 := s.rd pgFab 0x178 &&& 0xFFFF003F
  if bit w0 31 && (s.fab.dom.any fun p => p.1 ≠ k && bit p.2.1 31 && fld p.2.1 15 0 = fld w0 15 0) then s.errSet pgFab 0
  else s.modFab fun b => { b with dom := Tab.set (0, 0) b.dom k (w0, w1) }
/-- DOM_CMD 0b10. -/
def State.domGet (s : State) : State :=
  let e := Tab.get (0, 0) s.fab.dom s.domIndex
  (s.wr pgFab 0x174 e.1).wr pgFab 0x178 e.2

/-! ### The commands -/

/-- REFILL: the requests that waited for the banks are served. -/
def execRefill (cell : Fin 128) (ctx : Fin 4096) (s : State) : Host.Outcome State Fault Refusal :=
  .next (s.refillFor cell.val ctx.val).serveWaiting
/-- MFM_SEND. -/
def execMfmSend (tag : W32) (s : State) : Host.Outcome State Fault Refusal := .next (s.mfmSend tag)
/-- MFM_REQUEST. -/
def execMfmRequest (src : W16) (payload : List Byte) (s : State) : Host.Outcome State Fault Refusal := .next (s.mfmArrive src payload)
/-- MFM_RESPONSE. -/
def execMfmResponse (src : W16) (payload : List Byte) (s : State) : Host.Outcome State Fault Refusal := .next (s.mfmResponse src payload)
/-- MFM_RETRY. -/
def execMfmRetry (tag : W32) (s : State) : Host.Outcome State Fault Refusal := .next (s.mfmRetry tag)
/-- MFM_TIMEOUT. -/
def execMfmTimeout (tag : W32) (s : State) : Host.Outcome State Fault Refusal := .next (s.mfmTimeout tag)
/-- ATOMIC_START_DELAY. -/
def execAtomicStartDelay (s : State) : Host.Outcome State Fault Refusal := .next s.atomStart
/-- DOM_WRITE. -/
def execDomWrite (s : State) : Host.Outcome State Fault Refusal := .next (s.onPage pgFab State.domPut)
/-- DOM_READ. -/
def execDomRead (s : State) : Host.Outcome State Fault Refusal := .next (s.onPage pgFab State.domGet)

end Sys2Proof.Machine
end

