-- ==== Sys2Proof/Machine/Coll.lean ====
section
/-! DEFINITION. Collectives (R304 to R321): the group table, the COLLECTIVE command, the fold, the non-finite record, and
the protocol between the members' engines. -/

namespace Sys2Proof.Machine
open Host

/-! ### The group commands (R308, R317) -/

/-- `GRP_SEL`. -/
def State.grpIndex (s : State) : Nat := fld (s.rd pgColl 0x100) 7 0

/-- A COLLECTIVE of a group runs. -/
def State.grpRunning (s : State) (g : Nat) : Bool := s.runs.any fun r => opcodeOf r.words = 0x40 && !r.refused && fld (wd r.words 29) 7 0 = g

/-- GRP_CMD WRITE (R308). -/
def State.grpPut (s : State) : State :=
  let g := s.grpIndex
  let w := (List.range 16).map fun i => s.rd pgColl (0x140 + 4 * i) &&& wd grpMask i
  let res (s : State) (st : Nat) : State := s.result pgColl 0x108 st
  if s.grpRunning g then res s Rs.grpBusy
  else if s.grpBad w then res s Rs.grpBad
  else res (s.setGrp g { words := w, opseq := 0, early := [] }) Rs.ok

/-- GRP_CMD READ. -/
def State.grpGet (s : State) : State :=
  let w := (s.grp s.grpIndex).words
  ((List.range 16).foldl (fun s i => s.wr pgColl (0x140 + 4 * i) (wd w i)) s).result pgColl 0x108 Rs.ok

/-- A write of `NF_REC0`: VALID clears the record (R317). -/
def State.nfClear (s : State) (v : W32) : State :=
  if bit v 31 then (((s.wr pgColl 0x180 0).wr pgColl 0x184 0).wr pgColl 0x188 0).wr pgColl 0x18C 0 else s

/-! ### Shape (R310, R319) -/

/-- Members. -/
def CollRun.n (x : CollRun) : Nat := x.ranks.length
def CollRun.succ (x : CollRun) : Nat := (x.rank + 1) % x.n
def CollRun.pred (x : CollRun) : Nat := (x.rank + x.n - 1) % x.n
/-- Elements of a shard; for BROADCAST, of the whole source (R310). -/
def CollRun.len (x : CollRun) (r : Run) : Nat := if x.op = 4 then (slot r.words 0).count else x.sh
/-- Elements of a chunk, and chunks of a shard (R319). -/
def CollRun.ce (x : CollRun) : Nat := 2 ^ x.chunkLog / 4
def CollRun.chunks (x : CollRun) (r : Run) : Nat := cdiv (x.len r) x.ce
/-- First element of a chunk in its shard, and its elements. -/
def CollRun.span (x : CollRun) (r : Run) (c : Nat) : Nat × Nat := (c * x.ce, min ((c + 1) * x.ce) (x.len r) - c * x.ce)
def CollRun.reduces (x : CollRun) : Bool := x.op = 1 || x.op = 3
def CollRun.gathers (x : CollRun) : Bool := x.op ≠ 1
/-- The first source and destination element of a shard. -/
def CollRun.srcAt (x : CollRun) (sh : Nat) : Nat := if x.reduces then sh * x.sh else 0
def CollRun.dstAt (x : CollRun) (sh : Nat) : Nat := if x.op = 2 || x.op = 3 then sh * x.sh else 0
/-- The sender of the FINAL chunks of a shard. -/
def CollRun.owner (x : CollRun) (sh : Nat) : Nat := if x.op = 4 then x.root else sh

/-! ### Elements (R158, R314, R316) -/

/-- The row of element `e` in stream order, and its place in the row. -/
def Slot.place (x : Slot) (e : Nat) : Int × Nat := (x.row (e / x.d0 % x.d1) (e / (x.d0 * x.d1)), e % x.d0)

/-- `n` elements from element `e` up, in stream order. -/
def State.elemsAt (s : State) (w : Who) (x : Slot) (e n : Nat) : Except Err (List Nat) :=
  (List.range n).mapM fun (i : Nat) => s.readElem w x (x.place (e + i)).1 ((x.place (e + i)).2 : Nat)

/-- Elements written from element `e` up. -/
def State.putElems (s : State) (w : Who) (x : Slot) (e : Nat) (vs : List Nat) : Except Err State :=
  vs.zipIdx.foldlM (fun (s : State) p =>
    let q := x.place (e + p.2)
    s.writeBytes w x.space (addr64 (q.1 + ((q.2 * (fmtBits x.fmt / 8) : Nat) : Int))) (toBytes (fmtBits x.fmt / 8) p.1)) s

/-- A source element as a partial: FP32, or the 32-bit integer (R314, R316). -/
def toAcc (fmt v : Nat) : W32 := if isInt fmt then BitVec.ofNat 32 v else canonF (elemF32 fmt v 127)
/-- A final value in the destination format (R314). -/
def fromAcc (fmt : Nat) (a : W32) : Nat := if isInt fmt then a.toNat else encElem fmt none (f32v (canonF a))
/-- One fold step of RED in the group of a format (R309, R310, R314). -/
def foldOp (fmt red : Nat) (a b : W32) : W32 :=
  if isInt fmt then
    let less : Bool := if intSigned fmt then a.toInt < b.toInt else a.toNat < b.toNat
    if red = 0 then a + b else if red = 1 then (if less then a else b) else (if less then b else a)
  else canonF (if red = 0 then addF a b else if isNaNF a || isNaNF b then qNaN
    else toF32 (if red = 1 then minV (f32v a) (f32v b) else maxV (f32v a) (f32v b)))

/-- A finite FP32 value. -/
def finF (a : W32) : Bool := (absF a).toNat < 0x7F800000

/-- The kind of a non-finite source value (R317). -/
def srcKind (v : W32) : Nat := if isNaNF v then 1 else if finF v then 0 else 2
/-- The kind of a non-finite value that arises in a fold step. -/
def foldKind (a b v : W32) : Nat :=
  if isNaNF v then (if isNaNF a || isNaNF b then 0 else 4) else if !finF v && finF a && finF b then 3 else 0

/-! ### The non-finite record (R317) -/

/-- A non-finite value of a kind at an element: the record takes it if it is not valid. -/
def State.nfNote (s : State) (x : CollRun) (kind chunk elem : Nat) : State :=
  if bit (s.rd pgColl 0x180) 31 then s
  else
    let s := s.wr pgColl 0x180 (BitVec.ofNat 32 (2 ^ 31 + kind * 2 ^ 28 + x.group * 2 ^ 20 + x.rank % 4096))
    let s := s.wr pgColl 0x184 (BitVec.ofNat 32 chunk)
    let s := s.wr pgColl 0x188 (BitVec.ofNat 32 elem)
    s.wr pgColl 0x18C (BitVec.ofNat 32 (x.opseq.toNat % 65536 * 65536 + elem / 2 ^ 32 % 65536))

/-- The first element of a list of kinds that is non-finite is recorded; whether there is one. -/
def State.nfScan (s : State) (x : CollRun) (chunk elem0 : Nat) (kinds : List Nat) : State × CollRun :=
  match kinds.zipIdx.find? fun k => k.1 ≠ 0 with
  | some k => (s.nfNote x k.1 chunk (elem0 + k.2), { x with nf := true })
  | none => (s, x)

/-- The local source values of a chunk as partials, checked (R317). -/
def State.ownChunk (s : State) (r : Run) (x : CollRun) (sh c : Nat) : Except Err (List W32 × State × CollRun) := do
  let a := slot r.words 0
  let p := x.span r c
  let es ← s.elemsAt r.who a (x.srcAt sh + p.1) p.2
  let vs := es.map (toAcc a.fmt)
  let (s, x) := if isInt a.fmt then (s, x) else s.nfScan x c (x.srcAt sh + p.1) (vs.map srcKind)
  return (vs, s, x)

/-! ### Messages (R319) -/

/-- The fields of a collective message. -/
structure CollMsg where
  group    : Nat
  gen      : Nat
  kind     : Nat
  op       : Nat
  red      : Nat
  trap     : Bool
  chunkLog : Nat
  opseq    : W32
  chunk    : Nat
  shard    : Nat
  rank     : Nat
  sh       : Nat
  nf       : Bool
  pass     : Bool
  count    : W32
  data     : List Byte
deriving DecidableEq, Repr

/-- The message that a payload spells. -/
def parseColl (b : List Byte) : CollMsg :=
  let w (i : Nat) : W32 := wd (bytesToWords 8 b) i
  { group := fld (w 0) 7 0, gen := fld (w 0) 15 8, kind := fld (w 0) 23 20, op := fld (w 0) 19 16, red := fld (w 0) 31 30,
    trap := bit (w 0) 29, chunkLog := fld (w 0) 28 24, opseq := w 1, chunk := (w 2).toNat, shard := fld (w 3) 15 0,
    rank := fld (w 3) 31 16, sh := (w 4).toNat, nf := bit (w 5) 8, pass := bit (w 5) 9, count := w 6, data := b.drop 32 }

/-- The 32-byte header of a message of a running collective. -/
def CollRun.header (x : CollRun) (kind chunk shard fmt : Nat) (nf pass : Bool) (count : W32) : List Byte := wordsToBytes
  [BitVec.ofNat 32 (x.group + x.gen * 2 ^ 8 + kind * 2 ^ 20 + x.op * 2 ^ 16 + x.red * 2 ^ 30 + b2n x.trap * 2 ^ 29 + x.chunkLog * 2 ^ 24),
   x.opseq, BitVec.ofNat 32 chunk, BitVec.ofNat 32 (shard % 65536 + x.rank * 65536), BitVec.ofNat 32 x.sh,
   BitVec.ofNat 32 (fmt + b2n nf * 2 ^ 8 + b2n pass * 2 ^ 9), count, 0]

/-- A collective message leaves for a hive (TC 2; KEY by group and chunk). -/
def State.collSend (s : State) (x : CollRun) (dst : W16) (mc : Bool) (chunk : Nat) (payload : List Byte) : State :=
  s.sendMessage ⟨dst, 2, BitVec.ofNat 8 (x.group + chunk), mc, payload⟩
/-- To a rank. -/
def State.collTo (s : State) (x : CollRun) (rank chunk : Nat) (payload : List Byte) : State :=
  s.collSend x (x.ranks.getD rank 0) false chunk payload

/-- A GRANT of credits; it carries ROOT in the SHARD field (R319, R320). -/
def CollRun.grantMsg (x : CollRun) (n : Nat) : List Byte := x.header 3 0 x.root 0 false false (BitVec.ofNat 32 n)
/-- The SHARD field of a message that belongs to no shard: ROOT for BROADCAST (R319). -/
def CollRun.noShard (x : CollRun) : Nat := if x.op = 4 then x.root else 0
/-- An ABORT: reason and hive. -/
def CollRun.abortMsg (x : CollRun) (reason hive : Nat) : List Byte := x.header 5 0 x.noShard 0 false false (BitVec.ofNat 32 (reason * 2 ^ 24 + hive))
/-- A TOKEN. -/
def CollRun.tokenMsg (x : CollRun) (pass nf : Bool) : List Byte := x.header 4 0 x.noShard 0 nf pass 0

/-! ### The phases (R320) -/

/-- A PARTIAL leaves for the successor and takes a credit. -/
def State.sendPartial (s : State) (x : CollRun) (sh c : Nat) (vs : List W32) : State × CollRun :=
  (s.collTo x x.succ c (x.header 1 c sh 0 false false (BitVec.ofNat 32 vs.length) ++ wordsToBytes vs),
   { x with credits := x.credits - 1, sentP := x.sentP ++ [(sh, c)] })

/-- The sums that wait leave while credits last. -/
def State.pumpWait (s : State) (x : CollRun) : State × CollRun :=
  x.waitP.foldl (fun (a : State × CollRun) p =>
    if a.2.credits = 0 then a
    else
      let (t, y) := a.1.sendPartial a.2 p.1 p.2.1 p.2.2
      (t, { y with waitP := y.waitP.filter fun q => q ≠ p })) (s, x)

/-- The shard whose fold begins here: this member sends its own values. -/
def State.pumpOwn (s : State) (r : Run) (x : CollRun) : Except Err (State × CollRun) :=
  if !x.reduces || x.n ≤ 1 then .ok (s, x)
  else (List.range (x.chunks r)).foldlM (fun (a : State × CollRun) c =>
    if a.2.credits = 0 || a.2.sentP.contains (a.2.pred, c) then .ok a
    else do
      let (vs, t, y) ← a.1.ownChunk r a.2 a.2.pred c
      return t.sendPartial y y.pred c vs) (s, x)

/-- Bytes of a FINAL chunk in the destination. -/
def State.finalBytes (s : State) (r : Run) (x : CollRun) (sh c : Nat) : Except Err (List Byte) := do
  let d := slot r.words 1
  let p := x.span r c
  let es ← s.elemsAt r.who d (x.dstAt sh + p.1) p.2
  return es.flatMap fun v => toBytes (fmtBits d.fmt / 8) v

/-- A FINAL message. -/
def CollRun.finalMsg (x : CollRun) (r : Run) (sh c : Nat) (bs : List Byte) : List Byte :=
  x.header 2 c sh (slot r.words 1).fmt false false (BitVec.ofNat 32 (x.span r c).2) ++ bs

/-- The other ranks. -/
def CollRun.others (x : CollRun) : List Nat := (List.range x.n).filter fun k => k ≠ x.rank

/-- The FINAL chunks of this member that are ready leave: to the successor, or by multicast to the ends of the block in each
direction, where a GRANT has arrived from every member that takes them. -/
def State.pumpFinal (s : State) (r : Run) (x : CollRun) : Except Err (State × CollRun) :=
  let sh := if x.op = 4 then x.root else x.rank
  if !x.gathers || x.n ≤ 1 || x.owner sh ≠ x.rank then .ok (s, x)
  else if !(if x.mc then x.others else [x.succ]).all x.granted.contains then .ok (s, x)
  else (List.range (x.chunks r)).foldlM (fun (a : State × CollRun) c =>
    if a.2.sentF.contains (sh, c) || (x.op = 3 && !a.2.doneP.contains (sh, c)) then .ok a
    else do
      let bs ← a.1.finalBytes r x sh c
      let m := x.finalMsg r sh c bs
      let t := if x.mc then
          let t := if x.rank + 1 < x.n then a.1.collSend x (x.ranks.getD (x.n - 1) 0) true c m else a.1
          if x.rank > 0 then t.collSend x (x.ranks.getD 0 0) true c m else t
        else a.1.collTo x x.succ c m
      return (t, { a.2 with sentF := a.2.sentF ++ [(sh, c)] })) (s, x)

/-- FINAL chunks that others sent go on to the successor once it has granted. -/
def State.pumpForward (s : State) (r : Run) (x : CollRun) : State × CollRun :=
  if !x.granted.contains x.succ then (s, x)
  else (x.fwdF.foldl (fun t p => t.collTo x x.succ p.2.1 (x.finalMsg r p.1 p.2.1 p.2.2)) s, { x with fwdF := [] })

/-- Chunks of the operation that this member still has to receive: partials of its own shard, then FINAL chunks. -/
def CollRun.missing (x : CollRun) (r : Run) : List (Nat × Nat) :=
  let cs := List.range (x.chunks r)
  (if x.reduces && x.n > 1 then (cs.map fun c => (x.rank, c)).filter fun p => !x.doneP.contains p else []) ++
  (if x.op = 4 then (if x.rank = x.root then [] else cs.map fun c => (x.root, c))
    else if x.gathers then x.others.flatMap fun k => cs.map fun c => (k, c) else []).filter fun p => !x.doneF.contains p

/-- Everything has been sent and received. -/
def CollRun.idle (x : CollRun) (r : Run) : Bool :=
  (x.missing r).isEmpty && x.waitP.isEmpty && x.fwdF.isEmpty &&
  (!x.reduces || x.n ≤ 1 || x.sentP.length = (x.n - 1) * x.chunks r) &&
  (!x.gathers || x.n ≤ 1 || x.owner (if x.op = 4 then x.root else x.rank) ≠ x.rank || x.sentF.length = x.chunks r)

/-- The collective ends as its final TOKEN says (R318). -/
def State.collDone (s : State) (r : Run) (x : CollRun) (nf : Bool) : State :=
  if x.trap && nf then s.cutRun r.id St.nonfinite (BitVec.ofNat 32 x.group) else s.endRun r.id St.ok 0

/-- The TOKEN goes on, once everything has been sent and received. -/
def State.pumpToken (s : State) (r : Run) (x : CollRun) : State :=
  let put (s : State) (x : CollRun) : State := s.modRun r.id fun t => { t with coll := some x }
  let mine := x.trap && x.nf
  if !x.idle r then put s x
  else if x.n ≤ 1 then (put s x).collDone r x mine
  else if x.rank = 0 then
    match x.token with
    | none => if x.sentT then put s x else put (s.collTo x x.succ 0 (x.tokenMsg false mine)) { x with sentT := true }
    | some (false, nf) => put (s.collTo x x.succ 0 (x.tokenMsg true (nf || mine))) { x with token := none }
    | some (true, nf) => (put s x).collDone r x nf
  else match x.token with
    | none => put s x
    | some (false, nf) => put (s.collTo x x.succ 0 (x.tokenMsg false (nf || mine))) { x with token := none }
    | some (true, nf) => (put (s.collTo x x.succ 0 (x.tokenMsg true nf)) { x with token := none }).collDone r x nf

/-- Everything that the member may send now. -/
def State.pump (s : State) (r : Run) (x : CollRun) : Except Err State := do
  let (s, x) := s.pumpWait x
  let (s, x) ← s.pumpOwn r x
  let (s, x) ← s.pumpFinal r x
  let (s, x) := s.pumpForward r x
  return s.pumpToken r x

/-- The operation ends here, and ABORT goes to the neighbours given. -/
def State.collAbort (s : State) (r : Run) (x : CollRun) (reason hive : Nat) (to' : List Nat) : State :=
  let s := to'.foldl (fun s k => s.collTo x k 0 (x.abortMsg reason hive)) s
  match reason with
  | 1 => s.cutRun r.id St.fabricTimeout (BitVec.ofNat 32 hive)
  | 2 => s.cutRun r.id St.badDesc 29
  | _ => s.cutRun r.id St.nonfinite (BitVec.ofNat 32 x.group)

/-- Both neighbours, once each. -/
def CollRun.sides (x : CollRun) : List Nat := [x.pred, x.succ].eraseDups

/-- A GRANT: it must agree with this member's command (R320). -/
def State.onGrant (s : State) (r : Run) (x : CollRun) (from' : Nat) (m : CollMsg) : Except Err (State × Option CollRun) :=
  if m.op ≠ x.op || m.red ≠ x.red || m.trap ≠ x.trap || m.chunkLog ≠ x.chunkLog || m.sh ≠ x.sh || m.shard ≠ x.root then
    .ok (s.collAbort r x 2 s.hive x.sides, none)
  else .ok (s, some { x with
    granted := (x.granted ++ [from']).eraseDups
    credits := x.credits + if from' = x.succ then m.count.toNat else 0 })

/-- A PARTIAL: this member's values are added, and the predecessor has its credit back, for the chunk is consumed (R320); the owner keeps
the sum, another passes it on. -/
def State.onPartial (s : State) (r : Run) (x : CollRun) (m : CollMsg) : Except Err (State × Option CollRun) := do
  let a := slot r.words 0
  let d := slot r.words 1
  if !x.reduces || m.shard ≥ x.n || m.chunk ≥ x.chunks r then return (s, some x)
  let (own, s, x) ← s.ownChunk r x m.shard m.chunk
  let got := bytesToWords own.length m.data
  let sum := (got.zip own).map fun p => foldOp a.fmt x.red p.1 p.2
  let (s, x) := if isInt a.fmt then (s, x) else
    s.nfScan x m.chunk (x.srcAt m.shard + (x.span r m.chunk).1) ((got.zip own).map fun p => foldKind p.1 p.2 (foldOp a.fmt x.red p.1 p.2))
  if m.shard = x.rank then
    let s ← s.putElems r.who d (x.dstAt m.shard + (x.span r m.chunk).1) (sum.map (fromAcc d.fmt))
    return (s.collTo x x.pred 0 (x.grantMsg 1), some { x with doneP := x.doneP ++ [(m.shard, m.chunk)] })
  else return (s.collTo x x.pred 0 (x.grantMsg 1), some { x with waitP := x.waitP ++ [(m.shard, m.chunk, sum)] })

/-- A FINAL: written, and kept for the successor unless that is the sender. -/
def State.onFinal (s : State) (r : Run) (x : CollRun) (m : CollMsg) : Except Err (State × Option CollRun) := do
  let d := slot r.words 1
  if !x.gathers || m.shard ≥ x.n || m.chunk ≥ x.chunks r || x.owner m.shard = x.rank then return (s, some x)
  let p := x.span r m.chunk
  let nb := fmtBits d.fmt / 8
  let bs := m.data.take (p.2 * nb)
  let s ← s.putElems r.who d (x.dstAt m.shard + p.1) ((List.range p.2).map fun i => ofBytes ((bs.drop (i * nb)).take nb))
  return (s, some { x with
    doneF := (x.doneF ++ [(m.shard, m.chunk)]).eraseDups
    fwdF := if x.mc || x.succ = x.owner m.shard then x.fwdF else x.fwdF ++ [(m.shard, m.chunk, bs)] })

/-- One message of the running operation. -/
def State.collMsg (s : State) (r : Run) (x : CollRun) (src : W16) (m : CollMsg) : Except Err (State × Option CollRun) :=
  let from' := (x.ranks.findIdx? fun h => h = src).getD 0
  match m.kind with
  | 1 => s.onPartial r x m
  | 2 => s.onFinal r x m
  | 3 => s.onGrant r x from' m
  | 4 => .ok (s, some { x with token := some (m.pass, m.nf) })
  | 5 => .ok (s.collAbort r x (fld m.count 31 24) (fld m.count 15 0) [if from' = x.pred then x.succ else x.pred], none)
  | _ => .ok (s, some x)

/-- The messages that wait at a running operation, in order. -/
def State.collDrain (s : State) (r : Run) : List (W16 × List Byte) → CollRun → Except Err (State × Option CollRun)
  | [], x => .ok (s, some x)
  | p :: ps, x => do
    match (← s.collMsg r x p.1 (parseColl p.2)) with
    | (t, some y) => t.collDrain r ps y
    | (t, none) => return (t, none)

/-- A running collective goes on: its waiting messages, then what it may send. It waits for its context's banks (R461). -/
def State.collOn (s : State) (id : CmdId) : State :=
  match s.run? id with
  | none => s
  | some r => match r.coll with
    | none => s
    | some x =>
      if r.res.isSome || !x.begun || s.bankWait r then s
      else s.orFail r do
        match (← s.collDrain r x.inbox { x with inbox := [] }) with
        | (t, some y) => t.pump r y
        | (t, none) => return t

/-! ### The start (R311, R312, R320) -/

/-- The local values that go to the destination at once: the own shard of a gather, the root's source, and everything
where N = 1 (R310, R314). -/
def State.collLocal (s : State) (r : Run) (x : CollRun) : Except Err (State × CollRun) :=
  let d := slot r.words 1
  let me := if x.op = 4 then x.root else x.rank
  if (x.reduces && x.n > 1) || x.owner me ≠ x.rank then .ok (s, x)
  else (List.range (x.chunks r)).foldlM (fun (a : State × CollRun) c => do
    let (vs, t, y) ← a.1.ownChunk r a.2 me c
    let t ← t.putElems r.who d (x.dstAt me + (x.span r c).1) (vs.map (fromAcc d.fmt))
    return (t, y)) (s, x)

/-- The COLLECTIVE's local values go to their places, and its initial GRANTs leave; the ports toward the members that it sends to swap
their counter banks (R412). -/
def State.collStart (s : State) (r : Run) (x : CollRun) : State :=
  let peers := if x.mc then x.others else [x.pred, x.succ].filter fun k => k ≠ x.rank
  let s := s.swapPorts r ((List.range (min 256 (x.chunks r))).map (x.group + ·)) (peers.map fun k => (x.ranks.getD k 0).toNat)
  s.orFail r do
    let (s, x) ← s.collLocal r x
    let s := if x.n ≤ 1 then s else (if x.mc then x.others else [x.pred]).foldl (fun s k => s.collTo x k 0 (x.grantMsg 4)) s
    return (s.modRun r.id fun t => { t with coll := some { x with begun := true } }).collOn r.id

/-! ### Arrival and timeout (R312, R321) -/

/-- A message of a KIND arrives: it goes to the running operation that it names, waits for one not yet started, or is
discarded and counted. -/
def State.collArrive (s : State) (kind : Nat) (src : W16) (p : List Byte) : State :=
  let m := parseColl p
  if m.kind ≠ kind then s
  else
    let g := s.grp m.group
    let ranks := s.grpRanks g.words
    let stale (s : State) : State := s.bump pgColl 0x190 1
    if !bit (wd g.words 0) 31 || fld (wd g.words 0) 23 16 ≠ m.gen || !ranks.contains src then stale s
    else
      let hit (r : Run) : Bool := r.res.isNone && match r.coll with | some x => x.group = m.group && x.opseq = m.opseq | none => false
      match s.runs.find? hit with
      | some r =>
        (s.modRun r.id fun t => { t with coll := t.coll.map fun x => { x with inbox := x.inbox ++ [(src, p)], lastMsg := s.now } }).collOn r.id
      | none =>
        if sub32 m.opseq g.opseq < 2 ^ 31 then s.setGrp m.group { g with early := g.early ++ [(src, p)] } else stale s

/-- The member whose message or credit a running operation awaits (R321): the successor, where something waits for its
credit or GRANT; a member whose GRANT a multicast needs; else the sender of what is missing, or the predecessor. -/
def CollRun.awaited (x : CollRun) (r : Run) : Nat :=
  let unsentP := x.reduces && x.sentP.length < (x.n - 1) * x.chunks r
  let own := (x.reduces && (List.range (x.chunks r)).any fun c => !x.sentP.contains (x.pred, c)) || !x.waitP.isEmpty
  let finals := x.gathers && x.owner (if x.op = 4 then x.root else x.rank) = x.rank && x.sentF.length < x.chunks r
  if x.credits = 0 && own && unsentP then x.succ
  else match (if finals then x.others.find? fun k => !x.granted.contains k && (x.mc || k = x.succ) else none) with
  | some k => k
  | none =>
    if !x.fwdF.isEmpty then x.succ
    else if x.mc then match x.missing r with
      | p :: _ => if p.1 = x.rank then x.pred else x.owner p.1
      | [] => x.pred
    else x.pred

/-- When the last message of a running COLLECTIVE arrived, or it started. -/
def Run.heardAt (r : Run) : Nat := match r.coll with | some x => x.lastMsg | none => 0
/-- The running operation of a group that has heard nothing for the longest time has received no message for TMO: the time is brought to
that point (R321). -/
def State.memberLate (s : State) (g : Nat) : State :=
  let hit (r : Run) : Bool := r.res.isNone && match r.coll with | some x => x.group = g && x.n > 1 | none => false
  match bestOf (fun (a b : Run) => a.heardAt < b.heardAt) (s.runs.filter hit) with
  | none => s
  | some r => match r.coll with
    | none => s
    | some x =>
      let s := s.passTo (x.lastMsg + 1000 * fld (wd (s.grp g).words 2) 9 0)
      s.collAbort r x 1 (x.ranks.getD (x.awaited r) 0).toNat x.sides

/-! ### The commands -/

def isColl (w : List W32) : Bool := opcodeOf w = 0x40

/-- COLLECTIVE. -/
def execCollective (id : CmdId) (s : State) : Host.Outcome State Fault Refusal :=
  .next (s.onHub id isColl fun r => match r.coll with
    | some x => if x.begun then s.collOn id else s.collStart r x
    | none => s)
/-- GRP_WRITE. -/
def execGrpWrite (s : State) : Host.Outcome State Fault Refusal := .next (s.onPage pgColl State.grpPut)
/-- GRP_READ. -/
def execGrpRead (s : State) : Host.Outcome State Fault Refusal := .next (s.onPage pgColl State.grpGet)
/-- GRANT. -/
def execGrant (src : W16) (payload : List Byte) (s : State) : Host.Outcome State Fault Refusal := .next (s.collArrive 3 src payload)
/-- PARTIAL. -/
def execPartialChunk (src : W16) (payload : List Byte) (s : State) : Host.Outcome State Fault Refusal := .next (s.collArrive 1 src payload)
/-- FINAL. -/
def execFinalChunk (src : W16) (payload : List Byte) (s : State) : Host.Outcome State Fault Refusal := .next (s.collArrive 2 src payload)
/-- TOKEN. -/
def execToken (src : W16) (payload : List Byte) (s : State) : Host.Outcome State Fault Refusal := .next (s.collArrive 4 src payload)
/-- ABORT. -/
def execAbort (src : W16) (payload : List Byte) (s : State) : Host.Outcome State Fault Refusal := .next (s.collArrive 5 src payload)
/-- MEMBER_TIMEOUT. -/
def execMemberTimeout (group : Fin 256) (s : State) : Host.Outcome State Fault Refusal := .next (s.memberLate group.val)
/-- NF_REC_CLEAR. -/
def execNfRecClear (value : W32) (s : State) : Host.Outcome State Fault Refusal := .next (s.onPage pgColl fun s => s.nfClear value)

end Sys2Proof.Machine
end

