-- ==== Sys2Proof/Machine/Flits.lean ====
section
/-! DEFINITION. A Chaver flit arrives (R260 to R264, R270, R277, R279, R282, R400): checks, acknowledgement, flow control,
forwarding, and the delivery of messages. -/

namespace Sys2Proof.Machine
open Host

/-! ### The sender's side of a received flit (R263, R270) -/

/-- Acknowledged flits leave the replay buffer; the oldest one left starts a new count of NAKs (R263). -/
def State.takeAck (s : State) (p : Nat) (f : Flit) : State :=
  if !f.ackV then s
  else
    let left := unacked (s.port p).replay f.ackSeq
    if left.length = (s.port p).replay.length then s else s.modPort p fun r => { r with replay := left, naks := 0 }

/-- A NAK of the oldest flit, unless it was sent again within the last round trip (R263). -/
def State.takeNak (s : State) (p : Nat) (f : Flit) : State :=
  let r := s.port p
  match r.replay with
  | [] => s
  | x :: _ => if f.nak && (r.naks = 0 || s.now ≥ x.at_ + cdiv r.trtt 1000) then s.nakked p else s

/-- The XOFF state of the receiver (R270): a channel set on again has its head flits eligible from now. -/
def State.takeXoff (s : State) (p : Nat) (f : Flit) : State :=
  let old := (s.port p).xoffRx
  let s := s.modPort p fun r => { r with xoffRx := f.xoff }
  (s.carried p).foldl (fun s n => s.renew n fun v => old.getLsbD v && !f.xoff.getLsbD v) s

/-- The LSEQ that a port with nothing unacknowledged sends next follows the receiver's acknowledgement, so that the two ends agree after
flits were discarded on the way (R262; log entry 96). -/
def State.takeLseq (s : State) (p : Nat) (f : Flit) : State :=
  if f.ackV && (s.port p).replay.isEmpty then s.modPort p fun r => { r with next := f.ackSeq + 1 } else s

/-- What every accepted flit says of the other direction (R262, R263, R270). Acknowledgements count at a port that is up: before, the
replay buffer waits, and a port that is not up sends no data flit (R267). -/
def State.takeState (s : State) (p : Nat) (f : Flit) : State :=
  let s := s.modPort p fun r => { r with lastRx := s.now }
  (if (s.port p).st = .up then ((s.takeAck p f).takeLseq p f).takeNak p f else s.takeLseq p f).takeXoff p f

/-! ### Delivery -/

/-- The key of the message that a flit belongs to: source, destination, class, KEY. -/
def Flit.msgKey (f : Flit) : Nat := ((f.src.toNat * 65536 + f.dst.toNat) * 8 + f.cls) * 256 + f.key.toNat

/-- A complete message of this hive (R268): MFM requests (expert inbox writes are such stores, R108) and responses, and collective
messages. The messages of class 4 the manual does not describe (log entry 72). -/
def State.deliver (s : State) (cls : Nat) (src : W16) (bs : List Byte) : State :=
  match cls with
  | 0 | 3 => s.mfmArrive src bs
  | 1 => s.mfmResponse src bs
  | 2 => s.collArrive (parseColl bs).kind src bs
  | _ => s

/-- A flit for this hive joins its message; the last one completes it. -/
def State.consume (s : State) (f : Flit) : State :=
  let bs := Tab.get [] s.fab.part f.msgKey ++ f.payload
  if f.type = 1 then (s.modFab fun b => { b with part := Tab.set [] b.part f.msgKey [] }).deliver f.cls f.src bs
  else s.modFab fun b => { b with part := Tab.set [] b.part f.msgKey bs }

/-! ### Routing (R277, R279, R282) -/

/-- A transit flit is the first of its message, and the transit messages under way after it. -/
def State.noteTransit (s : State) (f : Flit) : Bool × State :=
  let k := f.msgKey
  (!s.fab.mid.contains k, s.modFab fun b => { b with mid := (b.mid.filter fun x => x ≠ k) ++ if f.type = 1 then [] else [k] })

/-- A flit in the receive buffer of port `p` is consumed, forwarded with HOPS raised and its VCD set, or dropped; `pool` says where it lies. A multicast
flit that passes is also consumed here. -/
def State.flitRoute (s : State) (p : Nat) (pool : Bool) (f : Flit) : State :=
  let via := some (p, f.vc, pool)
  let role := s.cpRole p
  let g := { f with hops := satAdd 7 f.hops 1 }
  match s.routeOf g (role = 7) with
  | .here => (s.release via).consume f
  | .out n =>
    let (first, s) := s.noteTransit f
    let same := 1 ≤ role && role ≤ 6 && (role - 1) / 2 = n / 8
    let s := s.enqueue n ⟨{ g with vcd := s.vcdOn n same f.vcd }, s.now, s.now, via, first⟩
    if f.mc then s.consume f else s
  | r => (s.release via).drop r

/-! ### Reception (R263, R270, R400) -/

/-- The CRC of a flit holds (R261). -/
def flitCrcOk (b : List Byte) : Bool := b.length = 256 && ofBytes (b.drop 252) = (crc32 (b.take 252)).toNat

/-- A flit that is not accepted: later ones are discarded until it comes again (R263). -/
def State.flitFailed (s : State) (p : Nat) : State := s.modPort p fun r => { r with failing := true }

/-- The count of data flits under the current key that a flit's LSEQ extends to (R400). -/
def PortRec.countOf (r : PortRec) (f : Flit) : Int := (r.rxCount : Int) + sext 16 (f.lseq - r.rxLast - 1).toNat
/-- The payload of a data flit: opened with the link key where the link is secure (R400). -/
def PortRec.opened (r : PortRec) (b : List Byte) (f : Flit) : Option (List Byte) :=
  match r.rxKey with
  | some k => (Config.gcmOpen k (linkIv k (r.countOf f).toNat) (b.take 16) ((b.drop 16).take 220) ((b.drop 236).take 16)).map fun t =>
      t.take (min 220 f.len.toNat)
  | none => some f.payload
/-- The tag of a data flit fails at a port that is up (R402). One sent under an earlier key has come before. -/
def PortRec.tagBad (r : PortRec) (b : List Byte) (f : Flit) : Bool :=
  r.st = .up && f.isData && 0 ≤ r.countOf f && (r.opened b f).isNone

/-- A data flit at a port that is up: in order and with space, it is accepted. -/
def State.takeData (s : State) (p : Nat) (b : List Byte) (f : Flit) : State :=
  let r := s.port p
  if r.st ≠ .up || r.stopFor.isSome || f.tc.toNat > 5 then s
  else if f.lseq ≠ r.rxLast + 1 then (if (r.rxLast - f.lseq).toNat < 2 ^ 15 then s else s.flitFailed p)
  else if !r.fits f.vc then s.flitFailed p
  else match r.opened b f with
  | none => s.flitFailed p
  | some t =>
    let pool := r.inPool f.vc
    let s := s.modPort p fun r => { r.hold f.vc pool with rxLast := f.lseq, failing := false, rxCount := r.rxCount + 1 }
    s.flitRoute p pool { f with payload := t }

/-- A link-local flit (R262, R266, R272, R273). Only a port that is up takes handover and join flits (R267), and they need TC 4 buffer
space. A join marker keeps it until it leaves the buffer (JOIN_MARKER). -/
def State.takeLocal (s : State) (p : Nat) (f : Flit) : State :=
  let b0 := (f.payload.getD 0 0).toNat
  let r := s.port p
  if f.type = 3 then s.identity p (ofBytes (f.payload.take 2)) (f.payload.getD 2 0).toNat
  else if r.st ≠ .up || !r.fits 8 then s
  else match f.type.toNat with
  | 6 => s.modPort p fun r => { r.hold 8 (r.inPool 8) with marks := r.marks ++ [(b0 % 32, r.rxLast, r.inPool 8)] }
  | 4 => s.takeoverAsked p (b0 % 32)
  | 5 => s.takeoverReply (b0 % 32) (BitVec.ofNat 16 (ofBytes ((f.payload.drop 2).take 2)))
  | 7 => s.joinReply (b0 % 32)
  | _ => s

/-- What the checks of a port's flit correct: codewords by the FEC, a flit by its retry (R322; log entry 87). -/
def State.countLink (s : State) (p corrected : Nat) (failed : Bool) : State := s.countErrors (unitPort p) (corrected + b2n failed)

/-- A flit arrives at a port; `bad` codewords that the FEC could not correct have ended with it (R260, R287). One whose CRC or whose tag
fails is discarded with all it says (R263, R402). -/
def State.flitReceive (s : State) (p : Nat) (b : List Byte) (fecOk : Bool) (corrected bad : Nat) : State :=
  let st := (s.port p).st
  if st = .off || st = .down || st = .training then s
  else
    let s := (s.bump (pgPort p) 0x120 corrected).bump (pgPort p) 0x124 bad
    let f := parseFlit b
    let whole := fecOk && flitCrcOk b
    let forged := whole && (s.port p).tagBad b f
    let s := s.countLink p corrected (!whole || forged)
    let s := if forged then s.modPort p fun r => { r with authFail := satAdd 16 r.authFail 1 } else s
    let s := if !whole || forged then s.flitFailed p
      else
        let s := s.takeState p f
        if f.isData then s.takeData p b f else s.takeLocal p f
    s.setXoff p

/-- CHAVER_FLIT_RECEIVE. -/
def execChaverFlitReceive (port : Fin 32) (flit : List Byte) (fecOk : Bool) (fec : FecCount) (s : State) :
    Host.Outcome State Fault Refusal := .next (let t : State := s.flitReceive port.val flit fecOk fec.corrected fec.bad; t.notify s)

end Sys2Proof.Machine
end

