-- ==== Sys2Proof/Machine/Teardown.lean ====
section
/-! DEFINITION. TEARDOWN (R15, R18), the zeroing that follows it (R403), and the function resets (R389). -/

namespace Sys2Proof.Machine
open Host

/-- A command that is past its indivisible step: the swap of a SPEC_COMMIT (R123), or the commit-word write of a STEP_COMMIT (R334).
It completes normally (R18). -/
def Run.pastStep (r : Run) : Bool := (opcodeOf r.words = 0x61 && r.res.isSome) || (opcodeOf r.words = 0x71 && r.phase = 3)

/-- The running commands that a TEARDOWN stops (R18): hub and store-die commands, and B-class cell commands, whose work has
not ended or which wait for acknowledgements, and which are not past an indivisible step. -/
def State.stops (s : State) (c : Nat) (r : Run) : Bool :=
  r.id.ctx.val = c && (!isCellOp (opcodeOf r.words) || (s.cx c).isB) && (r.res.isNone || s.fabHeld r) && !r.pastStep

/-- A command stopped by a TEARDOWN: a running COLLECTIVE sends ABORT first; its requests are abandoned (R18, R200). -/
def State.stopRun (s : State) (r : Run) : State :=
  let s := match r.coll with
    | some x => if r.res.isNone && x.n > 1 then x.sides.foldl (fun (s : State) k => s.collTo x k 0 (x.abortMsg 1 s.hive)) s else s
    | none => s
  let s := if r.res.isNone then s.cutRun r.id St.tornDown 0
    else (s.spoilOut r).modRun r.id fun t => { t with res := some (St.tornDown, 0), fabSince := none }
  s.forget r.id

/-- Fetched descriptors that have not started end at once, each with its record (R18). -/
def State.endFetched (s : State) (c q : Nat) : State :=
  (s.qu c q).fetched.foldl (fun s f => s.report c q f.words (seqOf f.words) St.tornDown 0 0 true fun t => t)
    (s.modQu c q fun r => { r with fetched := [], noRoom := none })

/-- The counters that the context owns, and no other context that is not `FREE`, are set to 0 (R59). -/
def State.zeroCounters (s : State) (c : Nat) : State :=
  let mine (k : Nat) : Bool := (s.cx c).owns k && !(s.ctx.any fun p => p.1 ≠ c && p.2.st ≠ .free && p.2.owns k)
  { s with evt := s.evt.filter fun p => !mine p.1 }

/-- A context enters `ZEROING` (R15, R18): its commands end, its recipe is unbound (R137), its step closes (R334). -/
def State.tearDown (s : State) (c : Nat) : State :=
  let s := (s.modCx c fun r => { r with st := .zeroing, recipe := none }).unpick fun id => id.ctx.val = c
  let s := (s.runs.filter (s.stops c)).foldl State.stopRun s
  let s := (List.range 4).foldl (fun s q => s.endFetched c q) s
  ((s.closeStep c).zeroCounters c).noteWaits

/-- TEARDOWN needs a context that is `OPEN`, `QUIESCING` or `QUIESCED` (R15). -/
def State.mayTear (s : State) (c : Nat) : Bool :=
  (s.cx c).st = .opened || (s.cx c).st = .quiescing || (s.cx c).st = .quiesced

/-- A write of 0x6 to `CTX_CMD`. -/
def State.ctxTear (s : State) : State :=
  let c := s.ctxIndex
  if s.mayTear c then (s.tearDown c).serveWaiting.ctxResult Rs.ok else s.ctxResult Rs.ctxBusy

/-- No command of the context runs any more: its queues are disabled, its epochs aborted, its streams closed (R18, R126). -/
def State.queuesOff (s : State) (c : Nat) : State :=
  if (s.cx c).st ≠ .zeroing || (s.cx c).drained || !(s.runsOf c).isEmpty then s
  else
    let s := (List.range 4).foldl (fun s q => s.modQu c q fun r =>
      { r with st := .disabled, cfg := putFld r.cfg 31 31 0, fetched := [], rel := [], noRoom := none }) s
    let s := (s.cx c).epochs.foldl (fun s e => s.abortEpoch c e) s
    let s := (s.streamsOf c).foldl (fun s n => s.setStm n {}) s
    let s := s.modFab fun f => { f with reqs := f.reqs.filter fun m => !(m.ctx = c && (m.op = 2 || !m.sent)) }
    (s.zeroCounters c).noteWaits.modCx c fun r => { r with drained := true }

/-- A context leaves every cell: its banks zeroed, its state and its save slots cleared (R403). -/
def State.leaveCells (s : State) (c : Nat) : State :=
  let banks := s.cells.flatMap fun p => (p.2.res.filter fun x => x.ctx = c).flatMap fun x => x.map.map fun b => (p.1, b)
  let s := s.modMem fun m => banks.foldl (fun m x => m.zeroBank x.1 x.2) m
  { s with cells := s.cells.map fun p =>
      let r := p.2
      (p.1, { r with
        cur := if r.cur = some c then none else r.cur
        acc := if r.cur = some c then {} else r.acc
        holder := if r.holder = some c then none else r.holder
        res := r.res.filter fun x => x.ctx ≠ c
        spilled := r.spilled.filter fun x => x.1 ≠ c
        saved := Tab.set {} r.saved c {} }) }

/-- The memories without what belonged to a context: direct pages, KV pages and the pages its table maps with W (R403). -/
def MemRec.without (m : MemRec) (c : Nat) (written : List Nat) : MemRec :=
  let m := ((m.directOwner.filter fun p => p.2 = some c).map (·.1)).foldl MemRec.freeDirect m
  let kv := (m.pool.filter fun p => p.2 = .taken c).map (·.1)
  let m := (kv ++ written).foldl (fun m p => m.zeroPage none p) m
  kv.foldl (fun m p => { m with pool := Tab.set .notPool m.pool p (if m.isRetired p then .notPool else .free) }) m

/-- The zeroing, through partition 63 (R12), ends: the context is `FREE`; its `CTX_ERR` stays (R433). -/
def State.zeroed (s : State) (c : Nat) : State :=
  if (s.cx c).st ≠ .zeroing || !(s.cx c).drained || s.starved ownPart c then s
  else
    let written := ((s.mapped c).filter (·.2)).map (·.1)
    ((s.leaveCells c).modMem fun m => m.without c written).setCx c { err := (s.cx c).err }

/-! ### Function resets (R389) -/

/-- TEARDOWN of every context that satisfies `f` and may be torn down (R18, R389). -/
def State.tearAll (s : State) (f : CtxRec → Bool) : State :=
  s.ctx.foldl (fun (t : State) p => if f p.2 && t.mayTear p.1 then t.tearDown p.1 else t) s

/-- The MSI-X masks and pending bits of the functions reset are clear again (log entry 69). -/
def State.unmaskMsix (s : State) (f : Nat → Bool) : State :=
  { s with
    boot := { s.boot with msixMask := s.boot.msixMask.filter fun n => !f n }
    msixPend := s.msixPend.filter fun p => !f p.1 }
/-- A Function Level Reset of a VF. -/
def State.vfReset (s : State) (fn : Nat) : State :=
  if fn = 0 then s else (s.tearAll fun c => c.owner = fn).unmaskMsix fun f => f = fn
/-- A PF0 reset: every context, and every VF is disabled. -/
def State.pfReset (s : State) (lost : Bool) : State :=
  let t := ((s.tearAll fun _ => true).unmaskMsix fun _ => true).modBoot fun b => { b with vfs := false, hp0 := b.hp0 && !lost }
  t.noteReady s

/-! ### The commands -/

/-- TEARDOWN. -/
def execTeardown (s : State) : Host.Outcome State Fault Refusal := .next (s.onPage pgCtx State.ctxTear)
/-- TEARDOWN_QUEUES_DISABLED. -/
def execTeardownQueuesDisabled (ctx : Fin 4096) (s : State) : Host.Outcome State Fault Refusal := .next (s.queuesOff ctx.val)
/-- FUNCTION_LEVEL_RESET. -/
def execFunctionLevelReset (fn : Fin 256) (s : State) : Host.Outcome State Fault Refusal := .next (s.vfReset fn.val)
/-- PF0_RESET. -/
def execPf0Reset (linkLost : Bool) (s : State) : Host.Outcome State Fault Refusal := .next (s.pfReset linkLost)

end Sys2Proof.Machine
end

