-- ==== Sys2Proof/Machine/Lasers.lean ====
section
/-! DEFINITION. The comb sources and the external inlets (R247 to R252), and what the loss of the host link does (R389). -/

namespace Sys2Proof.Machine
open Host

/-! ### Comb sources (R247 to R251) -/

/-- The source whose role a source plays: for a spare in use, the one it replaced. -/
def State.roleOf (s : State) (n : Nat) : Nat := if (s.source n).st = .spareInUse then (s.source n).partner else n

/-- The transmit bundles that a fabric source feeds (R225, R247). -/
def fedBundles (role : Nat) : List (Nat × Nat) :=
  if isFabricSrc role then (List.range 17).flatMap fun dp =>
    ((List.range (bundlesOf dp)).filter fun b => fabricSource dp b = role).map fun b => (dp, b)
  else []
/-- The bundles and ports that a role's light feeds lose it (R250): bundles are masked and retrain, die ports are checked, a Chaver port
goes down, the scouts lose their lines (R247, R251), and HP0 goes down, with what the loss of its link does (R389). -/
def State.lightLost (s : State) (role : Nat) : State :=
  let s := s.modSrc role fun r => { r with masked := true }
  let s := match srcPort role with | some p => s.portDown p 0xA | none => s
  let s := if isScoutSrc role || role = 63 then s.scoutsOff else s
  let s := (fedBundles role).foldl (fun s x => (s.modBundle x.1 false x.2 fun y => { y with dark := true }).toTrain x.1 x.2) s
  let t := if role = 70 && s.boot.hp0 then s.pfReset true else s
  let t := if isFabricSrc role then (List.range 17).foldl State.checkDp t else t
  t.noteReady s

/-- A source is retired; that is logged and flushed at once (R421, R422). -/
def State.outSrc (s : State) (n : Nat) : State :=
  ((s.modSrc n fun r => { r with st := .retired, subst := none }).logEvent 0x26 (unitLaser (n / 9)) n 0).askWrite .flush
/-- No replacement is left: the source is retired, and its lanes masked (R248, R251). -/
def State.retireSrc (s : State) (n : Nat) : State :=
  let role := s.roleOf n
  ((s.outSrc n).lightLost role).errSet pgLaser 3

/-- The record of an inlet. -/
def State.inlet (s : State) (e : Nat) : ElRec := if e = 0 then s.base.el0 else s.base.el1
def State.setInlet (s : State) (e : Nat) (r : ElRec) : State := s.modBase fun b => if e = 0 then { b with el0 := r } else { b with el1 := r }
/-- An inlet is enabled, and its light is good (R252). -/
def State.inletGood (s : State) (e : Nat) : Bool := (s.inlet e).st = .ready && bit (s.rd pgLaser 0x120) e
/-- An inlet that may replace a source: good, and meant for no other. -/
def State.inletFree (s : State) (e : Nat) : Bool :=
  s.inletGood e && !(s.base.src.any fun p => p.2.subst = some (0x7E + e))

/-- The substitute that a source can have now: its group's spare, unless that is in use or warms for a lower-numbered
source; else an inlet, for a source of the main grid (R249, R251). -/
def State.substFor (s : State) (n : Nat) : Option Nat :=
  let sp := srcSpare n
  let st := (s.source sp).st
  let taken := s.base.src.any fun p => p.1 < n && p.2.subst = some sp
  if !isSpare n && (st = .spareIdle || st = .spareArmed || st = .spareWarm) && !taken then some sp
  else if isScoutSrc (s.roleOf n) then none
  else if s.inletFree 0 then some 0x7E else if s.inletFree 1 then some 0x7F else none

/-- A source needs replacement (R248, R251): its substitute is chosen; a spare is warmed, an inlet is ready at once. A
scout source without a substitute loses its lines. -/
def State.needReplacement (s : State) (n : Nat) : State :=
  if (s.source n).subst.isSome then s
  else match s.substFor n with
  | some x =>
    if x < 108 then
      let s := s.modBase fun b => { b with src := b.src.map fun p => if p.2.subst = some x then (p.1, { p.2 with subst := none, warm := false }) else p }
      (s.modSrc n fun r => { r with subst := some x, warm := false }).modSrc x fun r => { r with st := .spareWarm }
    else s.modSrc n fun r => { r with subst := some x, warm := true }
  | none => if isScoutSrc (s.roleOf n) then (s.modSrc (s.roleOf n) fun r => { r with masked := true }).scoutsOff else s

/-- A margin averaged over 1 ms (R248), in 0.01 dB; the life log keeps its daily mean (R420). -/
def State.monitor (s : State) (n : Nat) (m : Int) : State :=
  let r := s.source n
  let s := s.modSrc n fun r => { r with margin := m, goodAt := if m ≥ -50 then some (r.goodAt.getD s.now) else none }
  let s := if s.logOn && r.st ≠ .off then s.modLog fun l =>
      { l with laser := Tab.set (0, 0) l.laser n ((Tab.get (0, 0) l.laser n).1 + m, (Tab.get (0, 0) l.laser n).2 + 1) } else s
  if !r.bears then s
  else
    let s := if m ≤ -100 && r.st = .active then
        let s := (s.modSrc n fun r => { r with st := .armed }).errSet pgLaser 0
        if (s.source (srcSpare n)).st = .spareIdle then s.modSrc (srcSpare n) fun r => { r with st := .spareArmed } else s
      else s
    let s := if m ≤ -200 then s.needReplacement n else s
    if m ≤ -350 && (s.source n).subst.isNone then s.retireSrc n else s

/-- Arming clears after 10 s at −0.5 dB or better. -/
def State.disarm (s : State) (n : Nat) : State :=
  let r := s.source n
  if r.st ≠ .armed || r.subst.isSome then s
  else match r.goodAt with
  | none => s
  | some t =>
    let s := (s.passTo (t + 10000000)).modSrc n fun r => { r with st := .active }
    let sp := srcSpare n
    if (s.source sp).st = .spareArmed && !((List.range 8).any fun m => (s.source (n / 9 * 9 + m)).st = .armed) then
      s.modSrc sp fun r => { r with st := .spareIdle } else s

/-- The warming spare is at its temperature, and its lines are locked. -/
def State.warmDone (s : State) (sp : Nat) : State :=
  if (s.source sp).st ≠ .spareWarm then s
  else s.base.src.foldl (fun s p => if p.2.subst = some sp then s.modSrc p.1 fun r => { r with warm := true } else s) s

/-- A bundle that a source feeds is under retrain (R249). -/
def State.retraining (s : State) (role : Nat) : Bool :=
  (fedBundles role).any fun x => (s.dieTx x.1 x.2).training || (s.diePort x.1).st = .disputed

/-- A role has light again: its masked bundles return at the retrain that follows, or at once where no pair runs on them (R250). -/
def State.lightBack (s : State) (role : Nat) : State :=
  let s := s.modSrc role fun r => { r with masked := false }
  (fedBundles role).foldl (fun s x =>
    if !(s.bundle x.1 false x.2).dark then s
    else if (s.hearers x.1 x.2).isEmpty then s.modBundle x.1 false x.2 fun y => { y with dark := false }
    else s.toTrain x.1 x.2) s

/-- The substitute of a source is switched in (R249): the source is replaced and turned off. The switch waits for a retrain; an inlet that
is no longer good is not used (R252), and another substitute is sought. -/
def State.switchSrc (s : State) (n : Nat) : State :=
  let r := s.source n
  match r.subst with
  | none => s
  | some x =>
    if !r.warm || s.retraining (s.roleOf n) then s
    else if x ≥ 108 && !s.inletGood (x - 0x7E) then (s.modSrc n fun r => { r with subst := none, warm := false }).needReplacement n
    else
      let role := s.roleOf n
      let s := (s.modSrc n fun r => { r with st := .replaced, partner := x, subst := none, warm := false }).lightBack role
      if x < 108 then
        ((s.modSrc x fun r => { r with st := .spareInUse, partner := role }).errSet pgLaser 1).logEvent 0x25 (unitLaser (n / 9)) n x
      else
        ((s.setInlet (x - 0x7E) { s.inlet (x - 0x7E) with st := .inUse, subst := role }).errSet pgLaser 2).logEvent 0x27
          (unitLaser (n / 9)) n x

/-- A source fails abruptly (R250): its lanes are masked at once; replacement proceeds as under R248. -/
def State.abruptFail (s : State) (n : Nat) : State :=
  if !(s.source n).bears then s
  else
    let s := (s.lightLost (s.roleOf n)).needReplacement n
    if (s.source n).subst.isNone then s.retireSrc n else s

/-- The light at an inlet lies within the table of R252. -/
def goodLight (l : InletLight) : Bool :=
  l.lines = 16 && -15 ≤ l.freqErr && l.freqErr ≤ 15 && 800 ≤ l.powMin && l.powMax ≤ 1300 && l.powMax - l.powMin ≤ 200 && l.rin ≤ -145
/-- An inlet goes to a state without use: where it was in use, the source that it replaced loses its light and needs another substitute. -/
def State.inletOut (s : State) (e : Nat) (r : ElRec) : State :=
  let t := s.setInlet e r
  if (s.inlet e).st = .inUse then (t.lightLost (s.inlet e).subst).needReplacement (s.inlet e).subst else t
/-- The check of an inlet (R252): within the table it is ready; outside it is bad and never used; one not enabled is not used. -/
def State.checkInlet (s : State) (e : Nat) (l : InletLight) : State :=
  let r := s.inlet e
  if !bit (s.rd pgLaser 0x120) e then s.inletOut e ⟨.dark, 0, l.powMean⟩
  else if goodLight l then s.setInlet e { r with st := if r.st = .inUse then .inUse else .ready, power := l.powMean }
  else s.inletOut e ⟨.bad, 0, l.powMean⟩
/-- A write of `EL_CFG` (R252, R255): an inlet that is no longer enabled is no longer used. -/
def State.writeEl (s : State) (v : W32) : State :=
  let s := s.storeReg pgLaser 0x120 v
  let t := (List.range 2).foldl (fun (s : State) e => if bit v e then s else s.inletOut e { s.inlet e with st := .dark, subst := 0 }) s
  t.noteReady s

/-! ### The commands -/

/-- LASER_MONITOR. -/
def execLaserMonitor (src : Fin 108) (margin : Int) (s : State) : Host.Outcome State Fault Refusal := .next (let t : State := s.monitor src.val margin; t.notify s)
/-- ARMING_CLEAR. -/
def execArmingClear (src : Fin 108) (s : State) : Host.Outcome State Fault Refusal := .next (s.disarm src.val)
/-- SPARE_WARM_DONE. -/
def execSpareWarmDone (spare : Fin 108) (s : State) : Host.Outcome State Fault Refusal := .next (s.warmDone spare.val)
/-- SPARE_SWITCH. -/
def execSpareSwitch (src : Fin 108) (s : State) : Host.Outcome State Fault Refusal := .next (let t : State := s.switchSrc src.val; t.notify s)
/-- SOURCE_ABRUPT_FAIL. -/
def execSourceAbruptFail (src : Fin 108) (s : State) : Host.Outcome State Fault Refusal := .next (let t : State := s.abruptFail src.val; t.notify s)
/-- INLET_CHECK. -/
def execInletCheck (el : Fin 2) (light : InletLight) (s : State) : Host.Outcome State Fault Refusal := .next (let t : State := s.checkInlet el.val light; t.notify s)

end Sys2Proof.Machine
end

