-- ==== Sys2Proof/Machine/Persist.lean ====
section
/-! DEFINITION. Persistent writes (R358, R359): the hold-up check, their start, their refusal and what they leave; the
life-log flush (R422, R423); the measurements (R393). -/

namespace Sys2Proof.Machine
open Host

/-! ### The hold-up check (R358) -/

/-- 2 × 10^7 times the usable energy in 0.1 J: CAP in 0.1 mF, VHOLD in 10 mV, 20 V being 2,000 units. -/
def holdScaled (cap vhold : Nat) : Nat := cap * (vhold * vhold - 2000 * 2000)
/-- `HOLD_ENERGY.ENERGY` in 0.1 J, rounded to the nearest as the worked case of R374 shows. -/
def holdEnergy (cap vhold : Nat) : Nat := min 0xFFFF ((holdScaled cap vhold + 10000000) / 20000000)
/-- `HOLD_CFG.CAP`. -/
def State.holdCap (s : State) : Nat := fld (s.rd pgPower 0x108) 31 16
/-- VHOLD is measured. -/
def State.measureHold (s : State) (v : W16) : State := s.modPower fun p => { p with vhold := v }

/-- The energy that a persistent write needs, in 0.1 J (R359). -/
def PWrite.needs : PWrite → Nat
  | .flush => 15
  | .pointer _ => 15
  | .hard _ _ => 40
  | .bank _ _ => 60
  | .kek _ _ => 5
  | .svn _ => 5

/-- The check of a write. -/
def State.holdEnough (s : State) (w : PWrite) : Bool := w.needs * 20000000 ≤ holdScaled s.holdCap s.power.vhold.toNat

/-! ### Measurements (R393) -/

def measFuses (minSvn : Nat) : BitVec 384 :=
  Config.sha384 (minSvn * 2 ^ 386 + (match Config.ownerAnchor with | some a => 2 ^ 385 + a.toNat * 2 | none => 0) + b2n Config.autoRestart)
/-- `UC_REV_A` or `UC_REV_B`: 0 for a bank that failed verification (R387). -/
def Sec.ucRev (x : Sec) (b : Bool) : W32 :=
  if b then (if x.validB then x.bankB.rev else 0) else if x.validA then x.bankA.rev else 0
def Sec.image (x : Sec) (b : Bool) : BankImage := if b then x.bankB else x.bankA
def Sec.valid (x : Sec) (b : Bool) : Bool := if b then x.validB else x.validA
def Sec.setValid (x : Sec) (b v : Bool) : Sec := if b then { x with validB := v } else { x with validA := v }
/-- A microcode bank verifies (R392). -/
def Sec.verify (x : Sec) (b : Bool) : Bool :=
  let i := x.image b
  Config.ecdsaVerify Config.microcodeKey (Config.sha384 i.content) i.sig && i.svn ≥ x.minSvn

def measBank (x : Sec) : BitVec 384 :=
  Config.sha384 (b2n x.active + 2 * b2n x.fallback + (x.ucRev false).toNat * 4 + (x.ucRev true).toNat * 2 ^ 34)
/-- The code of a debug state (R407). -/
def DbgSt.code : DbgSt → Nat | .locked => 0 | .challenged => 1 | .unlocked => 2
def measDebug (x : Sec) : BitVec 384 := Config.sha384 (x.dbg.code * 16 + x.scope.toNat)
/-- A measurement recorded. -/
def Sec.setMeas (x : Sec) (i : Nat) (v : BitVec 384) : Sec := { x with meas := Tab.set 0 x.meas i v }
/-- Measurements 2 and 4, at boot and at activation. -/
def Sec.measureBank (x : Sec) : Sec := (x.setMeas 2 (Config.sha384 (x.image x.active).content)).setMeas 4 (measBank x)
/-- Measurement 5. -/
def Sec.measureDebug (x : Sec) : Sec := x.setMeas 5 (measDebug x)

/-! ### The flush (R422, R423) -/

/-- The waiting events written to the ring: the oldest record is overwritten when it is full (R421). -/
def LogImage.append (g : LogImage) (es : List LogEvent) : LogImage :=
  es.foldl (fun (g : LogImage) e =>
    { g with ring := Tab.set none g.ring (g.events.toNat % 65536) (some e), events := g.events + 1 }) g

/-- A flush: every section is written, then FLUSH_COUNT; the retirements, the pending list and the lane remaps are kept (R221, R224). -/
def State.flushLog (s : State) : State :=
  let s := s.modLog fun l =>
    let g := { l.acc.append l.wait with flushes := l.acc.flushes + 1 }
    { l with mram := g, acc := g, wait := [], pending := false, lost := false, lastAt := some s.now }
  s.modMem fun m => { m with retiredNew := [], remapsNew := [], rows := m.rows.map fun p => (p.1, { p.2 with kept := p.2.soft }) }

/-! ### Answers inside an SPDM session (R394) -/

def State.session (s : State) (k : Nat) : Option Session := Tab.get none s.sec.sessions k
def State.setSession (s : State) (k : Nat) (v : Option Session) : State := s.modSec fun x => { x with sessions := Tab.set none x.sessions k v }
/-- A message inside a session leaves, protected (DSP0277). -/
def State.tell (s : State) (k : Nat) (x : Session) (code : Byte) (payload : List Nat) : State :=
  (s.setSession k (some { x with sent := x.sent + 1 })).emit (.secured x.via k (Config.spdmSeal x.key x.sent code payload))

/-! ### What a write leaves, and its refusal -/

/-- The outcome of one row of a HARD_GO: the first failure is kept, the model's choice (log entry 95); BUSY ends with the last row (R223). -/
def State.goResult (s : State) (row : Nat) (go : Bool) (st : Nat) : State :=
  let n := rowStack row / 2
  if !go then s
  else
    let v := s.rd (pgSd n) 0x118
    let first := if fld v 7 0 = 0 then st else fld v 7 0
    s.wr (pgSd n) 0x118 (BitVec.ofNat 32 (first + b2n (s.power.goes n) * 2 ^ 31))

/-- A row is hard-repaired: it leaves the pending list, and its bank's budget is charged (R218, R223). -/
def State.hardDone (s : State) (row : Nat) : State :=
  let bank := rowBank row
  let s := s.modMem fun m => { m.modRow row fun r => { r with soft := false, broken := false, hard := r.hard + 1 } with
    budget := Tab.set 0 m.budget bank (Tab.get 0 m.budget bank + 1) }
  (s.logEvent 0x31 (unitStack (rowStack row)) bank (rowNumber row)).askWrite .flush

/-- The active-bank pointer is in MRAM: an activation goes on, a cancelled one is over (R386). -/
def State.pointerDone (s : State) (b : Bool) : State :=
  let s := s.modSec fun x => { x with pointer := b }
  match s.sec.uc with
  | .pointer => s.modSec fun x => { x with uc := .waiting }
  | .undo => if b = s.sec.active then (s.modSec fun x => { x with uc := .idle }).result pgDevice 0x124 Rs.ok else s
  | _ => s

/-- The PLDM TransferResult (a bank that is written is then verified, which gives the VerifyResult) and the SPDM vendor-defined response of a write's requester (R397, R445). -/
def State.answer (s : State) (w : PWrite) (st : Nat) : State :=
  match w with
  | .bank _ _ => s.emit (.pldmResult false (if st = 0 then 0 else 0x80))
  | .svn _ => s.emit (.pldmResult false (if st = 0 then 0 else 0x80))
  | .kek id _ => (List.range 4).foldl (fun s k => match s.session k with
    | some x => if x.id = id then s.tell k x 0x7E [st] else s
    | none => s) s
  | _ => s

/-- A persistent write has ended; the pointer's is a life-log flush (R386, R422). -/
def State.writeDone (s : State) (w : PWrite) : State :=
  let s := s.modPower fun p => { p with running := none }
  match w with
  | .flush => s.flushLog
  | .hard row go => (s.hardDone row).goResult row go Rs.ok
  | .bank b image =>
    let s := (s.modSec fun x =>
      let x := ({ x with bankA := if b then x.bankA else image, bankB := if b then image else x.bankB } : Sec)
      x.setValid b (x.verify b)).answer w Rs.ok
    s.emit (.pldmResult true (if s.sec.valid b then 0 else 0x80))
  | .pointer b => s.flushLog.pointerDone b
  | .kek _ k => (s.modSec fun x => { x with sealedKek := some k }).answer w Rs.ok
  | .svn n => (s.modSec fun x => ({ x with minSvn := max x.minSvn n } : Sec).setMeas 3 (measFuses (max x.minSvn n))).answer w Rs.ok

/-- The check refuses a write (R359). -/
def State.writeRefused (s : State) (w : PWrite) : State :=
  match w with
  | .flush => s.modLog fun l => { l with refused := satAdd 16 l.refused 1, pending := true }
  | .hard row go => s.goResult row go Rs.holdupLow
  | .pointer _ => ((s.modLog fun l => { l with refused := satAdd 16 l.refused 1, pending := true }).modSec fun x =>
      { x with uc := if x.uc = .undo then .waiting else .idle }).result pgDevice 0x124 Rs.holdupLow
  | _ => s.answer w Rs.holdupLow

/-- A hard repair that cannot begin: its stack is out of service, or its bank's budget is used up; in the second case a
row that had been hard-repaired before takes its page with it (R218, R223). -/
def State.hardUnfit (s : State) (row : Nat) (go : Bool) : Option State :=
  if !s.stackUp (rowStack row) || !(s.mem.row row).soft then some (s.goResult row go Rs.ok)
  else if s.mem.budgetLeft (rowBank row) = 0 then
    let s := if (s.mem.row row).hard ≠ 0 then s.retirePage (row / 64) 2 else s
    some (s.goResult row go Rs.noBudget)
  else none

/-- A life-log flush: a plain one, or one that writes the active-bank pointer too (R386, R422; log entry 88). -/
def PWrite.isFlush : PWrite → Bool
  | .flush => true
  | .pointer _ => true
  | _ => false
/-- Flushes run at least 1 s apart (R422). -/
def State.flushSoon (s : State) (w : PWrite) : Bool :=
  w.isFlush && match s.log.lastAt with | some t => s.now < t + 1000000 | none => false

/-- The next persistent write takes its check and starts (R355, R358, R359): one at a time, in request order, none while
the supply is not `PWR_OK`. -/
def State.startWrite (s : State) (v : W16) : State :=
  match s.power.running, s.power.writes with
  | none, w :: rest =>
    if s.power.supply ≠ .ok || s.flushSoon w then s
    else
      let s := (s.measureHold v).modPower fun p => { p with writes := rest }
      if !s.holdEnough w then s.writeRefused w
      else
        let go (s : State) : State := s.modPower fun p => { p with running := some w }
        match w with
        | .hard row g => match s.hardUnfit row g with | some t => t | none => go s
        | _ => go s
  | _, _ => s

end Sys2Proof.Machine
end

