-- ==== Sys2Proof/Machine/Reset.lean ====
section
/-! DEFINITION. The resets and their scopes (R375, R376, R390): full, hub, main-power and thermal; the hive fence (R325). -/

namespace Sys2Proof.Machine
open Host

/-! ### What a reset keeps (R375, R376) -/

/-- A reset by its cause (R381) counted in the life log (R420). -/
def LogImage.countReset (g : LogImage) (cause : Nat) : LogImage :=
  { g with resets := Tab.set 0 g.resets cause (Tab.get 0 g.resets cause + 1) }

/-- The life log after a reset: a full reset loses what was not flushed (R422). -/
def LifeLog.kept (l : LifeLog) (full : Bool) (cause : Nat) : LifeLog :=
  let l := if full then { mram := l.mram, acc := l.mram, ctrl := l.ctrl } else l
  if bit l.ctrl 31 then { l with acc := l.acc.countReset cause } else l

/-- The memories after a reset: `RETIRED_PAGES`, the pending list, the lane remaps and the banks' budgets (R376); after a full reset,
what MRAM holds of the lists (R221, R224). Host memory is not the F48's. -/
def MemRec.kept (m : MemRec) (full : Bool) : MemRec :=
  { retired := if full then m.retired.filter fun e => !m.retiredNew.contains e else m.retired
    retiredNew := if full then [] else m.retiredNew
    rows := m.rows.filterMap fun p =>
      let soft := if full then p.2.kept else p.2.soft
      if soft || p.2.kept || p.2.hard ≠ 0 || p.2.broken then some (p.1, { p.2 with soft := soft, errs := [] }) else none
    remaps := if full then m.remaps.filter fun x => !m.remapsNew.contains x else m.remaps
    remapsNew := if full then [] else m.remapsNew
    budget := m.budget
    host := m.host }

/-- What is measured and in progress on the supply and in the VIN_AUX domain; hard repairs that had not started are not
requested again before the next training. A full reset ends what management measured, but for the excursion of VIN_AUX that made it. -/
def Power.kept (p : Power) (full : Bool) : Power :=
  { vinMain := p.vinMain, aux := p.aux, auxEnd := p.auxEnd
    dip := if full then none else p.dip, brown := if full then none else p.brown, overV := if full then none else p.overV
    tripped := p.tripped, coolAt := if full then none else p.coolAt
    supply := if full then .ok else p.supply, riseAt := if full then none else p.riseAt
    vhold := if full then 0 else p.vhold
    writes := if full then [] else p.writes.filter fun w => match w with | .hard _ _ => false | .pointer _ => false | _ => true
    running := p.running
    sensors := if full then [] else p.sensors
    peaks := if full then [] else p.peaks }

/-- The security root: fuses, MRAM and SPI NOR after a full reset; after others also its session state, measurements and
verified banks. A debug unlock ends, the key slots are empty, and the sealed KEK is the KEK (R397, R398, R405). -/
def Sec.kept (x : Sec) (full : Bool) : Sec :=
  if full then { sealedKek := x.sealedKek, minSvn := x.minSvn, bankA := x.bankA, bankB := x.bankB, pointer := x.pointer }
  else ({ x with keys := [], wrap := [], kek := x.sealedKek, dbg := .locked, nonce := 0, fresh := false, dbgResult := 0, token := [], scope := 0, dataDue := false, ownerKey := none,
                 uc := .idle } : Sec).measureDebug

/-- Pins; after others than a full reset, management stays ready. -/
def Boot.kept (b : Boot) (full : Bool) (cause : Nat) : Boot :=
  { resetN := b.resetN, perstN := b.perstN, pwrGood := b.pwrGood, mgmt := b.mgmt && !full, cause := BitVec.ofNat 4 cause
    jtag := if full then 1 else b.jtag, scan := if full then 0 else b.scan }

/-- The block after a reset of the given cause. Every context, stream, queue, counter, cell and port starts afresh (R376).
A write that runs from the VIN_AUX domain, or that passed its check, completes (R359). -/
def State.afterReset (s : State) (cause : Nat) : State :=
  let full := cause = 1
  let s := match s.power.running with
    | some w => if full || (match w with | .hard _ _ => true | _ => false) then s.writeDone w else s
    | none => s
  { (State.reset : State) with
    pending := s.pending
    clock := { s.clock with epoch := s.clock.now }
    regs := if full then [] else s.regs.filter fun p => p.1 ≥ i3cKey 0
    phys := s.phys.map fun p => (p.1, { p.2 with retired := false })
    mem := s.mem.kept full
    power := s.power.kept full
    sec := s.sec.kept full
    log := s.log.kept full cause
    boot := s.boot.kept full cause
    out := s.out
    free := s.free }

/-- The canonical form of the physical cells after a reset: a cell with no mark is not listed. -/
def tidyPhys (t : Tab PhysCell) : Tab PhysCell := t.filter fun p => p.2 ≠ {}

/-- A full reset (R353), a hub reset (R375), a thermal trip's loss of work (R363). -/
def State.resetNow (s : State) (cause : Nat) : State :=
  let s := s.afterReset cause
  { s with phys := tidyPhys s.phys, power := { s.power with resetDue := false } }

/-- A main-power reset waits for a persistent write that is running (R357). -/
def State.mainReset (s : State) : State :=
  if s.power.running.isSome then s.modPower fun p => { p with resetDue := true } else s.resetNow 4

/-- The running persistent write ends; a main-power reset that waited for it follows (R357). -/
def State.endWrite (s : State) : State :=
  match s.power.running with
  | none => s
  | some w =>
    let s := s.writeDone w
    if s.power.resetDue then s.resetNow 4 else s

/-! ### The hive fence (R325) -/

/-- The hive is fenced: running commands end without records, their outputs unspecified; nothing starts; the transmitters
are off; the event is logged. A die reset ends (R390). -/
def State.fenceHive (s : State) (code : Nat) : State :=
  if s.fenced || !s.boot.hub then s
  else
    let s := s.runs.foldl (fun (s : State) r => if r.res.isNone then s.spoilOut r else s) s
    let s := s.runs.foldl (fun (s : State) r => s.removeRun r) s
    let s := s.unpick fun _ => true
    let s : State := { s with fenced := true, mech := BitVec.ofNat 8 code }
    ((s.cutPorts .down 0xC).modBoot fun b => { b with die := none, dieWait := none }).logEvent 0x50 unitHub code 0

end Sys2Proof.Machine
end

