-- ==== Sys2Proof/Machine/Boot.lean ====
section
/-! DEFINITION. The power-on order (R377 to R385), LOCK and the reserve pairs (R27, R381), die resets (R388, R390), and the
rows that start and end a reset (R375). -/

namespace Sys2Proof.Machine
open Host

/-! ### Reset pins (R375) -/

/-- A reset input goes low: a hub reset, and the hub stays in reset. -/
def State.assertPin (s : State) (p : ResetPin) : State :=
  match p with
  | .resetN => if !s.boot.resetN then s else (s.modBoot fun b => { b with resetN := false }).resetNow 2
  | .perstN => if !s.boot.perstN then s else (s.modBoot fun b => { b with perstN := false }).resetNow 3
/-- A reset input goes high. -/
def State.releasePin (s : State) (p : ResetPin) : State :=
  s.modBoot fun b => match p with | .resetN => { b with resetN := true } | .perstN => { b with perstN := true }

/-! ### Steps 1 to 3 -/

/-- The bank to boot: the one the pointer names, else the other (R385). -/
def Sec.boots (x : Sec) : Sec :=
  if x.valid x.pointer then { x with active := x.pointer, fallback := false }
  else { x with active := !x.pointer, fallback := x.valid (!x.pointer) }

/-- A VIN_AUX excursion is in force: VIN_AUX has not risen to 3.05 V again (R353). -/
def Power.auxLow (p : Power) : Bool := p.aux.isSome && p.auxEnd.isNone

/-- The life log is read from MRAM: an entry with an uncorrectable word is discarded, and LOG_ECC is set (R322; log entry 97). -/
def State.readLog (s : State) : State :=
  let bad (p : Nat × Option LogEvent) : Bool := Config.mramBad s.free p.1
  if !s.log.mram.ring.any bad then s
  else
    let cut (g : LogImage) : LogImage := { g with ring := g.ring.filter fun p => !bad p }
    (s.draw.modLog fun l => { l with mram := cut l.mram, acc := cut l.acc }).errSet pgLog 0

/-- Step 1, once VIN_AUX is in range: management and security. The active bank is verified, and the other where that fails (R385); the
sealed KEK is loaded (R397); the measurements are recorded (R393); the life log is read (R322); a VIN_AUX reset found is logged (R421). -/
def State.bootMgmt (s : State) : State :=
  if s.boot.mgmt || s.power.auxLow then s
  else
    let t := s.modSec fun x =>
      let p := x.verify x.pointer
      let x := (x.setValid x.pointer p).setValid (!x.pointer) (!p && x.verify (!x.pointer))
      let x := { x.boots with kek := x.sealedKek }
      (((x.setMeas 1 (Config.sha384 Config.romImage)).setMeas 3 (measFuses x.minSvn)).measureBank).measureDebug
    let t := (t.modBoot fun b => { b with mgmt := true }).readLog
    let t := match t.power.aux with
      | some e => (t.modPower fun p => { p with aux := none, auxEnd := none }).logEvent 0x04 unitHub e.extreme (t.power.auxEnd.getD t.now - e.since)
      | none => t
    t.noteReady s

/-- The codes of the instruction register: BYPASS is all ones, as IEEE 1149.1 has it; the others are the model's (log entry 98). -/
def jtagExtest : BitVec 5 := 0
def jtagId : BitVec 5 := 1
def jtagSample : BitVec 5 := 2
def jtagClamp : BitVec 5 := 4
def jtagHighz : BitVec 5 := 5
def jtagBypass : BitVec 5 := 31

/-- EXTEST or CLAMP is in force: the VIN_MAIN regulators are held off (R453). -/
def Boot.boardTest (b : Boot) : Bool := b.jtag = jtagExtest || b.jtag = jtagClamp

/-- Whether step 2 may run: its start condition (R377), the pin that a PERST_N reset waits for, no board test in force. -/
def State.mayPower (s : State) : Bool :=
  s.boot.mgmt && !s.boot.boardTest && s.boot.pwrGood && s.power.vinMain ≥ 10600 && s.boot.resetN && (s.boot.cause ≠ 3 || s.boot.perstN) && !s.boot.rails
/-- The island rails return; THERMTRIP_N is deasserted (R364). -/
def State.railsUp (s : State) : State :=
  (s.modBoot fun b => { b with rails := true }).modPower fun p => { p with tripped := false, coolAt := none }

/-- Step 2. After a trip, rails stay off until every sensor has been below 80 °C for 30 s, and without a reset only
AUTO_RESTART brings them back (R364). -/
def State.regulatorUp (s : State) : State :=
  if !s.mayPower then s
  else if !s.power.tripped then s.railsUp
  else match s.power.coolAt with
    | some t => if s.boot.cause ≠ 5 && s.now ≥ t + 30000000 then s.railsUp else s
    | none => s

/-- Every sensor has been below 80 °C for 30 s: the time is brought there, and the F48 restarts from step 2, where the fuse
is set (R364). -/
def State.autoRestart (s : State) : State :=
  match s.power.coolAt with
  | none => s
  | some t =>
    if !s.power.tripped then s
    else
      let s := s.passTo (t + 30000000)
      if s.boot.cause = 5 && !Config.autoRestart then s else if s.mayPower then s.railsUp else s

/-- A key generated afresh (R396): a free value. -/
def freshKey (free salt : Nat) : BitVec 512 := Config.sessionKey salt free ++ Config.sessionKey (salt + 1) free

/-- Step 3a: the hub starts on the bank that the pointer names, with fresh keys of its own (R396); a pair that fails its
self-test fences the hive (R384). -/
def State.startHub (s : State) (pass : Bool) : State :=
  if s.boot.hub || !s.boot.rails || !s.boot.perstN || !s.boot.resetN || !(s.sec.validA || s.sec.validB) then s
  else
    let t := (s.draw.modSec fun x =>
      { x.boots with tableKey := freshKey s.free 0, dedupKey := freshKey s.free 2 }.measureBank).modBoot fun b => { b with hub := true }
    let t := { t with clock := { t.clock with epoch := t.now } }
    let t := t.noteReady s
    if pass then t else t.fenceHive 1

/-- Step 3b: the HP0 source lights and the host link trains; without a valid bank it stays down (R385). -/
def State.trainHost (s : State) (up : Bool) : State :=
  if s.boot.hp0Ended || !s.boot.rails || !s.boot.perstN || !(s.sec.validA || s.sec.validB) then s
  else
    let s := s.modBoot fun b => { b with hp0Ended := true, hp0 := up }
    if up then s.modSrc 70 fun r => { r with st := .active } else s.event pgDevice

/-- Step 3c has ended for every source of group 7, which lights first; HP0's has a step of its own (R377). -/
def State.group7Over (s : State) : Bool := (List.range 9).all fun m => m = 7 || Tab.get false s.boot.srcEnded (63 + m)
/-- Light of a source that locks late: its bundles join by retrain, its port trains (R377). -/
def State.joinLight (s : State) (n : Nat) : State :=
  let s := s.lightBack n
  match srcPort n with
  | some p => if (s.port p).st = .off || (s.port p).st = .down then s.train p else s
  | none => s
/-- Step 3c for one source; one that does not light fails at once (R250, R383), and an unlit spare is retired. -/
def State.lightSource (s : State) (n : Nat) (lit : Bool) : State :=
  if !s.boot.hub || Tab.get false s.boot.srcEnded n || (n / 9 ≠ 7 && !s.group7Over) then s
  else
    let t := (s.modBoot fun b => { b with srcEnded := Tab.set false b.srcEnded n true }).modSrc n fun r =>
      { r with st := if lit && isSpare n then .spareIdle else .active }
    if lit then (t.joinLight n).noteReady s
    else if isSpare n then ((t.outSrc n).event pgLaser).noteReady s
    else ((t.abruptFail n).event pgLaser).noteReady s

/-! ### Steps 4 to 6 -/

/-- A transmit bundle of a die port has light. -/
def State.bundleLit (s : State) (dp b : Nat) : Bool := s.roleLit (fabricSource dp b)
def State.dpLit (s : State) (dp : Nat) : Bool := (List.range (bundlesOf dp)).any (s.bundleLit dp)
/-- The sources of a bundle of each direction are locked (R377): one of the die port's own transmit bundles, and one of another's, which
its receive bundles hear (log entry 9). -/
def State.waysLit (s : State) (dp : Nat) : Bool := s.dpLit dp && (List.range 17).any fun d => d ≠ dp && s.dpLit d
/-- Step 3c has ended for every fabric source. -/
def State.fabricEnded (s : State) : Bool := (List.range 67).all fun n => isSpare n || Tab.get false s.boot.srcEnded n
/-- Step 4 may run for a die port: first training, or the training of a die reset; without light once no source is left to wait for, so
that it ends (R383). -/
def State.mayTrain (s : State) (dp : Nat) : Bool :=
  s.boot.hub && s.boot.rails && (s.waysLit dp || s.fabricEnded) &&
  (!(s.diePort dp).ended || (s.boot.die = some dp && s.boot.dieStep = 0 && (s.diePort dp).st ≠ .disputed))

/-- The page of the block behind a die port. -/
def dpPage (dp : Nat) : Page := if dp < 8 then pgComb dp else if dp < 16 then pgSd (dp - 8) else pgBase
/-- The bundles of a die port as its training leaves them (R235): the lanes that work at both ends. A transmit bundle whose source is not
locked waits for it: it joins by retrain (R377). -/
def State.trainLanes (s : State) (dp : Nat) (tx rx : List W16) : State :=
  (List.range (bundlesOf dp)).foldl (fun (t : State) b =>
    ((t.modBundle dp false b fun x => if s.bundleLit dp b then { x with lost := x.lost ||| ~~~ (tx.getD b 0), dark := false } else { x with dark := true }).modBundle
      dp true b fun x => { x with lost := x.lost ||| ~~~ (rx.getD b 0) }).modTx dp b fun x => { x with training := false }) s

/-- Step 4. A die that a die reset trains again and that reports other lane maps than the hub's record disputes its width (R237). A unit
that fails raises its block's interrupt (R383). -/
def State.trainDie (s : State) (dp : Nat) (tx rx : List W16) : State :=
  if !s.mayTrain dp then s
  else if (s.diePort dp).ended && s.mapsDiffer dp tx rx then (s.modDp dp fun r => { r with st := .disputed }).noteReady s
  else
    let t := s.trainLanes dp tx rx
    let up := s.waysLit dp && t.width dp false ≠ 0 && t.width dp true ≠ 0
    let t := t.modDp dp fun r => { r with st := if up then .up else .down, ended := true }
    let t := if t.boot.die = some dp then t.modBoot fun b => { b with dieStep := if up then 1 else 2 } else t
    (if up then t else t.event (dpPage dp)).noteReady s

/-- The pending rows of a store die at a training (R218, R363): an interrupted repair that took leaves the list; every
other row is to be hard-repaired. -/
def State.trainRows (s : State) (n : Nat) : State :=
  (s.pendingRows n).foldl (fun (s : State) row =>
    if (s.mem.row row).broken && Config.repairTook s.free row then (s.hardDone row).draw
    else
      let s := (s.modMem fun m => m.modRow row fun r => { r with broken := false }).draw
      if s.power.writes.any fun w => match w with | .hard r _ => r = row | _ => false then s else s.askWrite (.hard row false)) s

/-- The lanes remapped as a stack trains: those known are reapplied, new ones recorded in the life log (R224, R421). -/
def State.remapLanes (s : State) (st : Nat) (lanes : List (BitVec 12)) : State :=
  lanes.foldl (fun (s : State) l =>
    if s.mem.remaps.contains (st, l.toNat) then s
    else (s.modMem fun m => { m with remaps := m.remaps ++ [(st, l.toNat)], remapsNew := m.remapsNew ++ [(st, l.toNat)] }).logEvent 0x33
      (unitStack st) (st * 2 ^ 14) l.toNat) s

/-- Step 5: a store die is ready with the stacks that train; the others stay absent (R202, R383). -/
def State.readyDie (s : State) (n : Nat) (s0 s1 : Bool) (lanes0 lanes1 : List (BitVec 12)) : State :=
  let first := !s.boot.sdEnded.getLsbD n
  if !((s.diePort (8 + n)).st = .up && (first || (s.boot.die = some (8 + n) && s.boot.dieStep = 1))) then s
  else
    let t := s.modBoot fun b => { b with
      sdReady := b.sdReady ||| BitVec.ofNat 8 (2 ^ n)
      sdEnded := b.sdEnded ||| BitVec.ofNat 8 (2 ^ n)
      hbmUp := (b.hbmUp &&& ~~~ (BitVec.ofNat 16 (3 * 2 ^ (2 * n)))) ||| BitVec.ofNat 16 ((b2n s0 + 2 * b2n s1) * 2 ^ (2 * n))
      dieStep := if b.die = some (8 + n) then 2 else b.dieStep }
    let t := if s0 && s1 then t else t.event (pgSd n)
    let t := if s0 then t.remapLanes (2 * n) lanes0 else t
    let t := if s1 then t.remapLanes (2 * n + 1) lanes1 else t
    let t := t.trainRows n
    let t := (List.range 4).foldl (fun (t : State) i => t.train (4 * n + i)) t
    t.bar4Wake.noteReady s

/-- Step 6: the `DEGRADED` marks of a comb's cells (R179) and its logical numbers, afresh from its BIST (R339): cells 0 to 15 take their own numbers, then the
failed ones are retired in ascending order. -/
def State.bist (s : State) (c : Nat) (pass : BitVec 17) (deg : List W64) : State :=
  let first := !s.boot.combEnded.getLsbD c
  if !((s.diePort c).st = .up && (first || (s.boot.die = some c && s.boot.dieStep = 1))) then s
  else
    let t := (List.range 17).foldl (fun (t : State) p =>
      t.modPhys (c * 17 + p) fun r => { r with retired := p = 16 && !pass.getLsbD 16 }) s
    let t := (List.range 17).foldl (fun (t : State) p => t.markBanks (c * 17 + p) (deg.getD p 0)) t
    let mhz := 50 * fld (s.rd pgPower 0x104) 4 0
    let t := (List.range 16).foldl (fun (t : State) p => (t.setCell (c * 16 + p) { phys := some p, mhz := mhz }).wipeCell (c * 16 + p)) t
    let t := if pass.getLsbD 16 then t else (t.logEvent 0x20 (unitPhys (c * 17 + 16)) 16 0).askWrite .flush
    let t := (List.range 16).foldl (fun (t : State) p => if pass.getLsbD p then t else t.retireCell c p) t
    let t := (List.range 16).foldl (fun (t : State) p => t.modCell (c * 16 + p) fun r => { r with ready := r.phys.isSome, takeover := false }) t
    let t := t.modBoot fun b => { b with
      combEnded := b.combEnded ||| BitVec.ofNat 8 (2 ^ c)
      dieStep := if b.die = some c then 2 else b.dieStep }
    let t := if pass.toNat = 2 ^ 17 - 1 then t else t.event (pgComb c)
    t.noteReady s

/-- `RST_STATUS.DONE`: steps 1 to 6 have ended for every unit (R383). -/
def State.done (s : State) : Bool :=
  s.boot.mgmt && s.boot.rails && s.boot.hub && s.boot.hp0Ended &&
  (List.range 108).all (fun n => n = 70 || Tab.get false s.boot.srcEnded n) &&
  (List.range 17).all (fun d => (s.diePort d).ended) &&
  (List.range 8).all (fun n => s.sdOver n) &&
  (List.range 8).all fun c => s.boot.combEnded.getLsbD c || (s.diePort c).st = .down

/-! ### LOCK and the reserve pairs (R27, R381) -/

/-- A B-class context holds pinned banks on a cell: they are resident there (R27; log entry 29). -/
def State.pinnedB (s : State) (cell : Nat) : Bool :=
  s.ctx.any fun p => p.2.st ≠ .free && p.2.isB && p.2.pin && (s.bankMap p.1 cell).isSome

/-- The comb with the most free cells among those that satisfy `f`. -/
def mostFree (free : List (List Nat)) (f : Nat → Bool) : Option Nat :=
  bestOf (fun a b => (free.getD a []).length > (free.getD b []).length)
    ((List.range free.length).filter fun c => f c && !(free.getD c []).isEmpty)

/-- Pairs of cells of different combs, from the combs with the most cells left, so that as many form as can. -/
def reservePairs : Nat → Nat → List (List Nat) → List Pair
  | 0, _, _ => []
  | k + 1, n, free =>
    match mostFree free fun _ => true with
    | none => []
    | some x => match mostFree free fun c => c ≠ x with
      | none => []
      | some y =>
        let fx := free.getD x []
        let fy := free.getD y []
        ⟨n, fx.headD 0, fy.headD 0, false, false⟩ :: reservePairs k (n + 1) (setAt [] (setAt [] free x (fx.drop 1)) y (fy.drop 1))

/-- LOCK: RWL fields lock, and the reserve forms; a B-class command picked for a cell of it goes back to the ready commands (R27). -/
def State.lockNow (s : State) : State :=
  if s.boot.locked then s
  else
    let free := (List.range 8).map fun c => (combCells c).filter fun i => s.cellReady i && !s.pinnedB i
    let s : State := { s with pairs := reservePairs (fld (s.rd pgCtx 0x200) 4 0) 0 free, boot := { s.boot with locked := true } }
    s.unpick fun id => (s.cx id.ctx.val).isB && s.pairCells.any fun c => (s.cell c).picked = some id

/-! ### Die resets (R388, R390) -/

/-- A hard repair uses the die. -/
def State.writeUses (s : State) (d : Nat) : Bool :=
  match s.power.running with | some (.hard row _) => 8 + rowStack row / 2 = d | _ => false

/-- The direct area of a slice zeroed; its owners get DIRECT_LOST. -/
def State.directGone (s : State) (n : Nat) : State :=
  let s := ((s.mem.directOwner.filter fun p => p.1 / 384 = n).filterMap (·.2)).eraseDups.foldl (fun (s : State) c => s.ctxErr c 9) s
  s.modMem fun m => { m with
    direct := Tab.clear m.direct (n * 2 ^ 26) ((n + 1) * 2 ^ 26)
    directPoison := Tab.clear m.directPoison (n * 2 ^ 24) ((n + 1) * 2 ^ 24) }

/-- A die reset begins. -/
def State.beginDie (s : State) (d : Nat) : State :=
  let t := s.modBoot fun b => { b with die := some d, dieWait := none, dieStep := 0 }
  let t := if d < 8 then (t.modDp d fun r => { r with st := .down }).combOut d (0x400 + d)
    else ((t.storeDieOut (d - 8) (0x700 + (d - 8))).modDp d fun r => { r with st := .training }).directGone (d - 8)
  t.noteReady s

/-- DIE_GO: discarded while a die reset runs or DONE is 0; it waits for a persistent write that uses the die. -/
def State.dieReset (s : State) (d : Nat) : State :=
  if s.boot.die.isSome || s.boot.dieWait.isSome || !s.done then s
  else if s.writeUses d then s.modBoot fun b => { b with dieWait := some d }
  else s.beginDie d

/-- The running persistent write ends; a die reset that waited for it begins (R390). -/
def State.persistDone (s : State) : State :=
  let s := s.endWrite
  match s.boot.dieWait with
  | some d => if s.writeUses d then s else s.beginDie d
  | none => s

/-- The die's steps have ended: DIE_BUSY clears. -/
def State.dieDone (s : State) : State :=
  if s.boot.die.isSome && s.boot.dieStep = 2 then s.modBoot fun b => { b with die := none } else s

/-- A write of `RST_CTRL` (R381): DIE is stored, then LOCK and DIE_GO act. -/
def State.writeRst (s : State) (v : W32) : State :=
  let s := s.storeReg pgDevice 0x110 v
  let s := if bit v 31 then s.lockNow else s
  if bit v 30 then s.dieReset (fld v 3 0) else s

/-! ### The commands -/

/-- RESET_ASSERT. -/
def execResetAssert (pin : ResetPin) (s : State) : Host.Outcome State Fault Refusal :=
  .next (let t := s.assertPin pin; t.notify s)
/-- RESET_RELEASE. -/
def execResetRelease (pin : ResetPin) (s : State) : Host.Outcome State Fault Refusal := .next (s.releasePin pin)
/-- MGMT_BOOT. -/
def execMgmtBoot (s : State) : Host.Outcome State Fault Refusal := .next s.bootMgmt
/-- REGULATOR_UP. -/
def execRegulatorUp (s : State) : Host.Outcome State Fault Refusal := .next s.regulatorUp
/-- HUB_START. -/
def execHubStart (selfTest : Bool) (s : State) : Host.Outcome State Fault Refusal :=
  .next (let t := s.startHub selfTest; t.notify s)
/-- HOST_LINK_TRAIN. -/
def execHostLinkTrain (up : Bool) (s : State) : Host.Outcome State Fault Refusal := .next (s.trainHost up)
/-- SOURCE_LIGHT. -/
def execSourceLight (src : Fin 108) (lit : Bool) (s : State) : Host.Outcome State Fault Refusal :=
  .next (let t := s.lightSource src.val lit; t.notify s)
/-- DIE_PORT_TRAIN. -/
def execDiePortTrain (dp : Fin 17) (tx rx : List W16) (s : State) : Host.Outcome State Fault Refusal :=
  .next (let t := s.trainDie dp.val tx rx; t.notify s)
/-- STORE_DIE_READY. -/
def execStoreDieReady (sd : Fin 8) (stack0 stack1 : StackTest) (s : State) : Host.Outcome State Fault Refusal :=
  .next (let t := (s.readyDie sd.val stack0.up stack1.up stack0.lanes stack1.lanes).serveWaiting; t.notify s)
/-- COMB_BIST. -/
def execCombBist (comb : Fin 8) (test : CombTest) (s : State) : Host.Outcome State Fault Refusal :=
  .next (let t := s.bist comb.val test.pass test.degraded; t.notify s)
/-- LOCK: a write of `RST_CTRL` whose LOCK bit is 1. -/
def execLock (value : W32) (s : State) : Host.Outcome State Fault Refusal :=
  .next (if bit value 31 then s.onPage pgDevice fun s => let t := s.writeRst value; t.notify s else s)
/-- DIE_GO: a write of `RST_CTRL` whose DIE_GO bit is 1. -/
def execDieGo (value : W32) (s : State) : Host.Outcome State Fault Refusal :=
  .next (if bit value 30 then s.onPage pgDevice fun s => let t := s.writeRst value; t.notify s else s)
/-- DIE_RESET_DONE. -/
def execDieResetDone (s : State) : Host.Outcome State Fault Refusal := .next s.dieDone
/-- PERSISTENT_WRITE_START. -/
def execPersistentWriteStart (vhold : W16) (s : State) : Host.Outcome State Fault Refusal := .next (s.startWrite vhold)
/-- PERSISTENT_WRITE_DONE. -/
def execPersistentWriteDone (s : State) : Host.Outcome State Fault Refusal := .next (let t := s.persistDone; t.notify s)
/-- AUTO_RESTART. -/
def execAutoRestart (s : State) : Host.Outcome State Fault Refusal := .next s.autoRestart

end Sys2Proof.Machine
end

