-- ==== Sys2Proof/Machine/Power.lean ====
section
/-! DEFINITION. Supply supervision (R353 to R358), thermal levels, clocks and trips (R360 to R364, R372), and the sensor
cross-check (R365 to R368). -/

namespace Sys2Proof.Machine
open Host

/-! ### Supply (R353 to R357) -/

def Excursion.low (e : Excursion) (mv : Nat) : Excursion := { e with extreme := min e.extreme mv }
def Excursion.high (e : Excursion) (mv : Nat) : Excursion := { e with extreme := max e.extreme mv }

/-- VIN_MAIN measured, in mV. The excursions in force take their extremes; in `PWR_RESUME` the 1 ms runs while VIN_MAIN is at 11.5 V or
above, and starts again when it has been below (R355); the board asserts PWR_GOOD while VIN_MAIN lies in its operating range (R351,
R449). -/
def State.vin (s : State) (mv : Nat) : State :=
  (s.modPower fun p => { p with
    vinMain := mv
    riseAt := if p.supply = .resume then (if mv ≥ 11500 then some (p.riseAt.getD s.now) else none) else p.riseAt
    dip := p.dip.map (·.low mv), brown := p.brown.map (·.low mv), overV := p.overV.map (·.high mv) }).modBoot
    fun b => { b with pwrGood := b.pwrGood || (10800 ≤ mv && mv ≤ 13200) }

/-- VIN_MAIN below 11.2 V (R354): `PWR_WARN`; load is shed at once, whatever the slew governor holds (R246); persistent writes that have not
started are held. -/
def State.warn (s : State) (mv : Nat) : State :=
  let s := s.vin mv
  if s.power.supply = .warn then s
  else (s.modPower fun p => { p with supply := .warn, riseAt := none, dip := some (p.dip.getD ⟨s.now, mv⟩) }).pace true |>.event pgPower

/-- A report of VIN_MAIN (R353, R354). -/
def State.vinWarning (s : State) (mv : Nat) : State := if mv ≥ 11200 then s.vin mv else s.warn mv

/-- VIN_MAIN at 11.5 V (R355): `PWR_RESUME`. -/
def State.vinRecover (s : State) (mv : Nat) : State :=
  let s := s.vinWarning mv
  if mv < 11500 then s
  else if s.power.supply ≠ .warn then s else s.modPower fun p => { p with supply := .resume, riseAt := some s.now }

/-- The time that a running command has spent in suspension since the supply left `PWR_OK` (R356). -/
def State.inShed (s : State) (r : Run) : Nat := match s.power.dip with | some e => s.now - max r.start e.since | none => 0

/-- 1 ms at 11.5 V or above (R355): `PWR_OK`; the excursion is logged; command limits advance again (R356). -/
def State.supplyOk (s : State) : State :=
  match s.power.riseAt with
  | none => s
  | some t =>
    if s.power.supply ≠ .resume then s
    else
      let s := s.passTo (t + 1000)
      let add (r : Run) : Run := { r with suspended := if r.suspEnded then r.suspended else min 2000 (r.suspended + s.inShed r) }
      let s := { s with runs := s.runs.map add }
      let s := match s.power.dip with | some e => s.logEvent 0x01 unitHub e.extreme (s.now - e.since) | none => s
      s.modPower fun p => { p with supply := .ok, riseAt := none, dip := none }

/-- A command has spent 2 ms in suspension: its limit advances again (R356). -/
def State.suspendOver (s : State) (id : CmdId) : State :=
  match s.run? id with
  | none => s
  | some r => match s.power.dip with
    | none => s
    | some e =>
      if r.suspEnded || s.power.supply = .ok then s
      else (s.passTo (max r.start e.since + (2000 - r.suspended))).modRun id fun r => { r with suspended := 2000, suspEnded := true }

/-- VIN_MAIN below 10.2 V: a main-power reset (R357). -/
def State.brownout (s : State) (mv : Nat) : State :=
  let s := s.vinWarning mv
  if mv ≥ 10200 then s
  else if s.power.brown.isSome then s
  else (s.modPower fun p => { p with brown := some ⟨s.now, mv⟩ }).mainReset

/-- VIN_MAIN at 10.6 V: the brownout is over and logged; step 2 may run (R357, R377). -/
def State.vinRestore (s : State) (mv : Nat) : State :=
  let s := s.vinWarning mv
  if mv < 10600 then s
  else match s.power.brown with
    | none => s
    | some e => (s.modPower fun p => { p with brown := none }).logEvent 0x02 unitHub e.extreme (s.now - e.since)

/-- VIN_AUX measured (R353): the fall below 2.95 V is a full reset, and one excursion lasts until VIN_AUX has risen to 3.05 V. -/
def State.auxReset (s : State) (mv : Nat) : State :=
  if s.power.auxLow then s.modPower fun p => { p with aux := p.aux.map (·.low mv), auxEnd := if mv ≥ 3050 then some s.now else none }
  else if mv ≥ 2950 then s
  else (s.modPower fun p => { p with aux := some ⟨s.now, mv⟩, auxEnd := none }).resetNow 1

/-- VIN_MAIN above 13.4 V, logged once it is below 13.2 V again (R353). -/
def State.overVoltage (s : State) (mv : Nat) : State :=
  let s := s.vinWarning mv
  match s.power.overV with
  | none => if mv > 13400 then s.modPower fun p => { p with overV := some ⟨s.now, mv⟩ } else s
  | some e => if mv < 13200 then (s.modPower fun p => { p with overV := none }).logEvent 0x03 unitHub e.extreme (s.now - e.since) else s

/-- PWR_GOOD goes low: a main-power reset while VIN_MAIN powers the F48 (R449): the island rails, or after a trip the 1.8 V rail (R363). -/
def State.powerBad (s : State) : State :=
  if !s.boot.pwrGood then s
  else
    let on := s.boot.rails || s.power.tripped
    let s := s.modBoot fun b => { b with pwrGood := false }
    if on then s.mainReset else s

/-! ### Thermal domains (R360, R365, R420) -/

/-- The sensors of a thermal domain: comb × 3 + layer, 24 + store die, 32 the hub, 33 the base, 34 + stack. -/
def domSensors (d : Nat) : List Nat :=
  if d < 24 then
    let c := d / 3 * 40
    match d % 3 with
    | 0 => (List.range 8).map (c + 32 + ·)
    | 1 => (List.range 16).map (c + 16 + ·)
    | _ => (List.range 16).map (c + ·)
  else if d < 32 then (List.range 4).map (320 + 4 * (d - 24) + ·)
  else if d = 32 then (List.range 4).map (352 + ·)
  else if d = 33 then (List.range 32).map (356 + ·)
  else [388 + (d - 34)]

/-- The domain of a sensor. -/
def sensorDom (x : Nat) : Nat :=
  if x < 320 then x / 40 * 3 + (if x % 40 < 16 then 2 else if x % 40 < 32 then 1 else 0)
  else if x < 352 then 24 + (x - 320) / 4 else if x < 356 then 32 else if x < 388 then 33 else 34 + (x - 388)

/-- Warning, its clear value, throttle, its clear value and shut-down of a domain, in °C (R360). -/
def thresholds (d : Nat) : List Nat :=
  if d < 24 then (match d % 3 with | 0 => [100, 95, 110, 105, 125] | 1 => [90, 85, 100, 95, 112] | _ => [95, 90, 105, 100, 118])
  else if d < 33 then [95, 90, 105, 100, 118] else if d = 33 then [75, 70, 85, 80, 95] else [85, 80, 95, 90, 105]

/-- A threshold in units of 0.25 °C. -/
def thr (d i : Nat) : Int := ((4 * (thresholds d).getD i 0 : Nat) : Int)

/-- The unit that a domain belongs to (R342). -/
def domUnit (d : Nat) : Nat :=
  if d < 24 then unitComb (d / 3) else if d < 32 then unitSd (d - 24) else if d < 34 then unitHub else unitStack (d - 34)

def State.sensor (s : State) (x : Nat) : Sensor := Tab.get {} s.power.sensors x
def State.modSensor (s : State) (x : Nat) (f : Sensor → Sensor) : State :=
  s.modPower fun p => { p with sensors := Tab.set {} p.sensors x (f (s.sensor x)) }
/-- The control value of a sensor (R367). -/
def Sensor.control (r : Sensor) : Int := if r.suspect then max r.reading r.model else r.reading
def State.control (s : State) (x : Nat) : Int := (s.sensor x).control
/-- The temperature of a domain: the highest control value among its sensors. -/
def State.domTemp (s : State) (d : Nat) : Int :=
  match (domSensors d).map s.control with
  | [] => 0
  | v :: vs => vs.foldl max v
/-- A signed value in 32 bits. -/
def int32 (v : Int) : Nat := (v % 4294967296).toNat
/-- The hottest sensor of a domain. -/
def State.hottest (s : State) (d : Nat) : Nat := ((domSensors d).find? fun x => s.control x = s.domTemp d).getD 0
/-- The level of a domain. -/
def State.level (s : State) (d : Nat) : Nat := Tab.get 0 s.power.levels d

/-- A level after a temperature: it is entered at its threshold and left below its clear value. -/
def nextLevel (d cur : Nat) (t : Int) : Nat :=
  if t ≥ thr d 2 || (cur = 2 && t ≥ thr d 3) then 2
  else if t ≥ thr d 0 || (cur ≥ 1 && t ≥ thr d 1) then 1
  else 0

/-- The level of a domain evaluated (R361): warning raises the power page's interrupt and is logged, under a TYPE that the manual does not
give (log entry 36); throttle entry is logged; a throttled base turns every scout off. -/
def State.evalLevel (s : State) (d : Nat) : State :=
  let cur := s.level d
  let new := nextLevel d cur (s.domTemp d)
  let s := s.modPower fun p => { p with levels := Tab.set 0 p.levels d new }
  let note (s : State) (type : Byte) : State := s.logEvent type (domUnit d) (s.hottest d) (int32 (s.domTemp d))
  let s := if cur = 0 && new ≥ 1 then note (s.event pgPower) Config.warnType else s
  if cur < 2 && new = 2 then
    let s := note s 0x10
    if d = 33 then s.scoutsOff else s
  else s

/-! ### Clocks (R362, R366, R372) -/

/-- The domains whose throttle steps a comb's cell clock: its three layers, the hub and the base (R361). -/
def clockDoms (c : Nat) : List Nat := [3 * c, 3 * c + 1, 3 * c + 2, 32, 33]
def State.cellClk (s : State) : Nat := 50 * fld (s.rd pgPower 0x104) 4 0
/-- A comb's clock ceiling. -/
def State.ceiling (s : State) (c : Nat) : Nat := Tab.get 1500 s.power.combMhz c
def State.setCeiling (s : State) (c v : Nat) : State := s.modPower fun p => { p with combMhz := Tab.set 1500 p.combMhz c v }

/-- Some layer of a comb has no sensor in `SENSOR_OK` (R366). -/
def State.layerDead (s : State) (c : Nat) : Bool := (List.range 3).any fun l => (domSensors (3 * c + l)).all fun x => (s.sensor x).suspect
/-- LAYER_LOST: the comb's clock is set to 0.6 GHz. -/
def State.layerLost (s : State) (c : Nat) : State := if s.layerDead c then (s.errSet (pgComb c) 1).setCeiling c 600 else s

/-- What a comb's power changes by with a step of 50 MHz at a clock, in 0.25 W: its power is proportional to its clock (log entry 86). -/
def State.stepPower (s : State) (c mhz : Nat) : Nat := 4 * (s.samples c).headD 0 * 50 / mhz

/-- The 1 ms step of a comb's cell clock (R362); a step that the slew governor does not let on waits (R246). -/
def State.clockStep (s : State) (c : Nat) : State :=
  let ds := (clockDoms c).filter fun d => s.level d = 2
  let clk := s.cellClk
  let now := min (s.ceiling c) clk
  if s.layerDead c then s.layerLost c
  else if ds.any fun d => s.domTemp d ≥ thr d 2 then
    if now ≤ 600 then s.setCeiling c 600
    else if s.stepPower c now > s.downRoom c then s else (s.noteFall c (s.stepPower c now)).setCeiling c (max 600 (now - 50))
  else if !ds.isEmpty then s
  else if now + 50 > clk then s.setCeiling c 1500
  else if s.stepPower c now > s.upRoom c then s
  else (s.noteRise c (s.stepPower c now)).setCeiling c (if now + 50 ≥ clk then 1500 else now + 50)

/-- A write of `PWR_CTRL`: a cell takes CELL_CLK at its next command boundary, an idle one at once, as far as the slew governor admits a rise
(R372). -/
def State.writePwr (s : State) (v : W32) : State :=
  let s := s.storeReg pgPower 0x104 v
  s.cells.foldl (fun s p => if p.2.run.isNone then s.takeClock p.1 else s) s

/-! ### Trips (R363, R368) -/

/-- A sensor or control value has reached shut-down: THERMTRIP_N is asserted and the rails are removed, a hard repair is abandoned, work is
lost as at a main-power reset, and the trip is logged and flushed (R363, R422). The sensors work with the rails off too. -/
def State.trip (s : State) (x : Nat) : State :=
  if s.power.tripped then s
  else
    let s := match s.power.running with
      | some (.hard row _) => (s.modMem fun m => m.modRow row fun r => { r with broken := true }).modPower fun p => { p with running := none }
      | _ => s
    let s := (s.logEvent 0x11 (domUnit (sensorDom x)) x (int32 (s.control x))).resetNow 5
    (s.modPower fun p => { p with tripped := true, coolAt := none }).askWrite .flush

/-- Since when every sensor has been below 80 °C (R364). -/
def State.noteCool (s : State) : State :=
  let cool := (List.range 404).all fun x => (s.sensor x).reading < 320
  s.modPower fun p => { p with coolAt := if cool then some (p.coolAt.getD s.now) else none }

/-- A trip comparator fires (R363). -/
def State.tripFires (s : State) (x : Nat) (reading : Int) : State :=
  if reading < thr (sensorDom x) 4 then s
  else (((s.modSensor x fun r => { r with reading := reading }).noteCool).trip x).noteCool

/-! ### The cross-check (R366, R367) -/

/-- The place of a comb sensor in its layer's grid, in half steps. -/
def place (x : Nat) : Int × Int :=
  let n := x % 40
  if n < 32 then (2 * ((n % 4 : Nat) : Int), 2 * ((n % 16 / 4 : Nat) : Int)) else (4 * ((n % 2 : Nat) : Int) + 1, 2 * (((n - 32) / 2 : Nat) : Int))
def distance (x y : Nat) : Nat := let a := place x; let b := place y; ((a.1 - b.1) ^ 2 + (a.2 - b.2) ^ 2).toNat
/-- The reading that an estimate takes for a sensor: its own, or that of the nearest sensor of its layer that is `SENSOR_OK`. -/
def State.input (s : State) (x : Nat) : Int :=
  if !(s.sensor x).suspect then (s.sensor x).reading
  else match bestOf (fun a b => distance x a < distance x b) ((domSensors (sensorDom x)).filter fun y => !(s.sensor y).suspect) with
    | some y => (s.sensor y).reading
    | none => (s.sensor x).reading

/-- A quotient rounded to the nearest. -/
def nearest (a : Int) (b : Nat) : Int := (2 * a + b) / (2 * b)

/-- The model estimate of a comb sensor in 0.25 °C (R366), from the powers in mW and the fuses in 1/65536. -/
def State.estimate (s : State) (power : List Nat) (x : Nat) : Int :=
  let c := x / 40
  let n := x % 40
  let a := Config.thermA c
  let k := Config.thermK c
  let t (y : Nat) : Int := s.input (40 * c + y)
  let p (i : Nat) : Int := power.getD (16 * c + i) 0
  if n < 16 then nearest (t (16 + n) * 65536000 - 2 * k * p n) 65536000
  else if n < 32 then
    let i := n - 16
    nearest (1000 * (a * t i + (65536 - (a : Int)) * t (32 + i / 2)) + 4 * k * p i) 65536000
  else
    let b := n - 32
    nearest ((t (16 + 2 * b) + t (17 + 2 * b)) * 65536000 + 8 * Config.thermKb c * (p (2 * b) + p (2 * b + 1))) 131072000

/-- The grid neighbours of a comb sensor: the sensors of its layer next to it in a row or a column. -/
def neighbours (x : Nat) : List Nat :=
  (domSensors (sensorDom x)).filter fun y =>
    let a := place x
    let b := place y
    let step : Int := if x % 40 < 32 then 2 else 4
    (a.2 = b.2 && (a.1 - b.1).natAbs = step.natAbs) || (a.1 = b.1 && (a.2 - b.2).natAbs = 2)
/-- Twice the median of a list. -/
def median2 (l : List Int) : Int :=
  let m := sortBy l (· ≤ ·)
  m.getD ((m.length - 1) / 2) 0 + m.getD (m.length / 2) 0

def apart (a b : Int) : Nat := (a - b).natAbs
/-- A condition's stamp: since when it holds. -/
def since (now : Nat) (on : Bool) (old : Option Nat) : Option Nat := if on then some (old.getD now) else none

/-- A comb sensor after an estimate: since when it deviates or agrees. -/
def State.checkSensor (s : State) (power : List Nat) (x : Nat) : Sensor :=
  let r := s.sensor x
  let m := s.estimate power x
  let nb := median2 ((neighbours x).map fun y => (s.sensor y).reading)
  { r with
    model := m
    devAt := since s.now (apart r.reading m > 24) r.devAt
    nbAt := since s.now (apart (2 * r.reading) nb > 80) r.nbAt
    okAt := since s.now (r.suspect && apart r.reading m ≤ 12) r.okAt }

/-- The control values of the last hour that no later one has exceeded (R343). -/
def State.notePeak (s : State) (x : Nat) : State :=
  let v := s.control x
  let keep := (Tab.get [] s.power.peaks x).filter fun q => q.2 > v && s.now < q.1 + 3600000000
  s.modPower fun p => { p with peaks := Tab.set [] p.peaks x (keep ++ [(s.now, v)]) }

/-- Readings and estimates of the 1 ms cross-check: every sensor takes its reading, every comb sensor its estimate and stamps (R366, R367). -/
def State.readSensors (s : State) (readings : List Int) (power : List Nat) : State :=
  let s := (List.range 404).foldl (fun (s : State) x => s.modSensor x fun r => { r with reading := readings.getD x 0 }) s
  let new := (List.range 320).map fun x => s.checkSensor power x
  let s := (List.range 320).foldl (fun (s : State) x => s.modSensor x fun _ => new.getD x {}) s
  let s := (List.range 404).foldl State.notePeak s
  ((List.range 8).foldl State.layerLost s).noteCool

/-- The first sensor whose control value is at shut-down trips (R368). -/
def State.tripFirst (s : State) : State :=
  match (List.range 404).find? fun x => s.control x ≥ thr (sensorDom x) 4 with
  | some x => (s.trip x).noteCool
  | none => s

/-- The 1 ms cross-check: readings, estimates, control values; a control value at shut-down trips (R366 to R368). -/
def State.crossCheck (s : State) (readings : List Int) (power : List Nat) : State := (s.readSensors readings power).tripFirst

/-- 10 ms of deviation without a break (R367). -/
def State.suspect (s : State) (x : Nat) : State :=
  let r := s.sensor x
  let first := match r.devAt, r.nbAt with | some a, some b => some (min a b) | some a, none => some a | none, b => b
  match first with
  | none => s
  | some t =>
    if r.suspect then s
    else
      let s := (s.passTo (t + 10000)).modSensor x fun r => { r with suspect := true, okAt := none }
      ((s.event pgPower).logEvent 0x12 (domUnit (sensorDom x)) x (apart r.reading r.model)).layerLost (x / 40)

/-- 10 s within 3 °C of the estimate (R367); the change is logged, under a TYPE that the manual does not give (log entry 36). -/
def State.recover (s : State) (x : Nat) : State :=
  let r := s.sensor x
  match r.okAt with
  | none => s
  | some t =>
    if !r.suspect then s
    else (((s.passTo (t + 10000000)).modSensor x fun r => { r with suspect := false, okAt := none, devAt := none, nbAt := none }).event pgPower).logEvent
      Config.sensorOkType (domUnit (sensorDom x)) x (apart r.reading r.model)

/-! ### The commands -/

/-- VIN_MAIN_WARNING. -/
def execVinMainWarning (mv : Nat) (s : State) : Host.Outcome State Fault Refusal := .next (let t := s.vinWarning mv; t.notify s)
/-- VIN_MAIN_RECOVER. -/
def execVinMainRecover (mv : Nat) (s : State) : Host.Outcome State Fault Refusal := .next (let t := s.vinRecover mv; t.notify s)
/-- PWR_OK_TIMER. -/
def execPwrOkTimer (s : State) : Host.Outcome State Fault Refusal := .next (let t := s.supplyOk; t.notify s)
/-- LIMIT_SUSPEND_EXPIRE. -/
def execLimitSuspendExpire (id : CmdId) (s : State) : Host.Outcome State Fault Refusal := .next (s.suspendOver id)
/-- BROWNOUT. -/
def execBrownout (mv : Nat) (s : State) : Host.Outcome State Fault Refusal := .next (let t := s.brownout mv; t.notify s)
/-- VIN_MAIN_RESTORE. -/
def execVinMainRestore (mv : Nat) (s : State) : Host.Outcome State Fault Refusal := .next (let t := s.vinRestore mv; t.notify s)
/-- VIN_AUX_RESET. -/
def execVinAuxReset (mv : Nat) (s : State) : Host.Outcome State Fault Refusal := .next (s.auxReset mv)
/-- OVER_VOLTAGE. -/
def execOverVoltage (mv : Nat) (s : State) : Host.Outcome State Fault Refusal := .next (let t := s.overVoltage mv; t.notify s)
/-- PWR_GOOD_LOW. -/
def execPwrGoodLow (s : State) : Host.Outcome State Fault Refusal := .next (let t := s.powerBad; t.notify s)
/-- HOLDUP_CHECK. -/
def execHoldupCheck (vhold : W16) (s : State) : Host.Outcome State Fault Refusal := .next (s.measureHold vhold)
/-- THERMAL_LEVEL. -/
def execThermalLevel (dom : Fin 50) (s : State) : Host.Outcome State Fault Refusal := .next (s.evalLevel dom.val)
/-- CLOCK_STEP. -/
def execClockStep (comb : Fin 8) (s : State) : Host.Outcome State Fault Refusal := .next (s.clockStep comb.val)
/-- THERMAL_TRIP. -/
def execThermalTrip (sensor : Fin 404) (reading : Int) (s : State) : Host.Outcome State Fault Refusal :=
  .next (let t := s.tripFires sensor.val reading; t.notify s)
/-- SENSOR_CROSS_CHECK. -/
def execSensorCrossCheck (readings : List Int) (power : List Nat) (s : State) : Host.Outcome State Fault Refusal :=
  .next (let t := s.crossCheck readings power; t.notify s)
/-- SENSOR_SUSPECT. -/
def execSensorSuspect (sensor : Fin 320) (s : State) : Host.Outcome State Fault Refusal := .next (s.suspect sensor.val)
/-- SENSOR_RECOVER. -/
def execSensorRecover (sensor : Fin 320) (s : State) : Host.Outcome State Fault Refusal := .next (s.recover sensor.val)
/-- CELL_CLK_WRITE. -/
def execCellClkWrite (value : W32) (s : State) : Host.Outcome State Fault Refusal := .next (s.onPage pgPower fun s => s.writePwr value)

end Sys2Proof.Machine
end

