-- ==== Sys2Proof/Machine/Health.lean ====
section
/-! DEFINITION. The safety monitor: hive fences (R322 to R325), clock islands (R323), pairs rebuilt and replaced (R328,
R341), the health score and `PROBATION` (R342 to R345). -/

namespace Sys2Proof.Machine
open Host

/-! ### Clock islands (R323, code 0x0B) -/

/-- An island loses its clock: it is held, and the commands that its unit runs end. -/
def State.islandLost (s : State) (i : Island) : State :=
  match i with
  | .cell c => if (s.cell c.val).phys.isNone then s
    else (s.modCell c.val fun r => { r with held := true }).cutCell c.val (0x500 + c.val)
  | .sd n => (s.modBase fun b => { b with sdHeld := b.sdHeld ||| BitVec.ofNat 8 (2 ^ n.val) }).cutWhere (fun r => (s.agentDies r).contains n.val) (0x700 + n.val)

/-- The island relocks and its unit serves again. -/
def State.islandBack (s : State) (i : Island) : State :=
  match i with
  | .cell c => s.modCell c.val fun r => { r with held := false }
  | .sd n => s.modBase fun b => { b with sdHeld := b.sdHeld &&& ~~~ (BitVec.ofNat 8 (2 ^ n.val)) }

/-! ### Pairs (R328, R341) -/

/-- BIST of one cell of a mismatched pair ends: it is in service again, its partition zeroed (R177) and its marks rebuilt (R179), or it
is retired. Its zeroed banks stay mapped, with no SPAD_LOST (log entry 83). -/
def State.bistOver (s : State) (c : Nat) (pass : Bool) (deg : W64) : State :=
  let s := s.modCell c fun r => { r with bist := false }
  match (s.cell c).phys with
  | some p => if pass then (s.wipeCell c).markBanks (c / 16 * 17 + p) deg else s.retireCell (c / 16) p
  | none => s

/-- The BIST of both cells of a mismatched pair ends (R328). -/
def State.rebuild (s : State) (a b : Nat) (passA passB : Bool) (degA degB : W64) : State :=
  if a = b || !(s.cell a).bist || !(s.cell b).bist then s
  else let t := (s.bistOver a passA degA).bistOver b passB degB; t.noteReady s

/-- The pinned quotas of every S-class context, and those already held on the cell, fit in 64 banks (R341). -/
def State.quotaFits (s : State) (cell : Nat) : Bool :=
  (s.ctx.map fun p => if p.2.st ≠ .free && p.2.pin && (p.2.isS || p.2.inMask cell) then p.2.banks else 0).sum ≤ 64

/-- The cell that a pair still has. -/
def Pair.kept (p : Pair) : Option Nat := if !p.lostA then some p.a else if !p.lostB then some p.b else none

/-- A cell that may replace a lost one of a pair (R341). -/
def State.suitable (s : State) (p : Pair) (x : Nat) : Bool :=
  s.cellReady x && !(s.cell x).bist && !s.pairCells.contains x && (match p.kept with | some k => k / 16 ≠ x / 16 | none => true) &&
    !s.pinnedB x && s.quotaFits x

/-- A pair with its first lost cell replaced. -/
def Pair.take (p : Pair) (x : Nat) : Pair := if p.lostA then { p with a := x, lostA := false } else { p with b := x, lostB := false }

/-- A lost cell of a reserve pair is replaced, at the new cell's command boundary; a B-class pick on it is undone (R27). With
no suitable cell the pair is dropped. -/
def State.replaceCell (s : State) (n : Nat) (cell : Option Nat) : State :=
  match s.pairs.find? fun p => p.n = n && (p.lostA || p.lostB) with
  | none => s
  | some p =>
    match cell with
    | some x =>
      if !s.suitable p x || !s.atBoundary x then s
      else
        let s := { s with pairs := s.pairs.map fun (q : Pair) => if q.n = n then q.take x else q }
        s.unpick fun id => (s.cell x).picked = some id && (s.cx id.ctx.val).isB
    | none =>
      if (List.range 128).any fun x => s.suitable p x then s
      else { s with pairs := s.pairs.filter fun (q : Pair) => q.n ≠ n }

/-! ### The health score (R342, R343) -/

/-- Corrected errors of a unit in the last 24 h; a comb's are also those of its cells. -/
def State.errCount (s : State) (u : Nat) : Nat :=
  let n (v : Nat) : Nat := ((s.unit v).errs.filter fun t => s.now < t + 86400000000).length
  if 0x90 ≤ u && u < 0x98 then n u + ((List.range 17).map fun i => n ((u - 0x90) * 17 + i)).sum else n u

/-- ⌊100 × log2(r / 10)⌋ for r = n / 24 errors an hour, from 0 to 400. -/
def errPenalty (n : Nat) : Nat :=
  if n ≤ 240 then 0 else (List.range 401).foldl (fun best k => if 2 ^ k * 240 ^ 100 ≤ n ^ 100 then k else best) 0

/-- The margin of the light that plays the role of source `n`, in 0.01 dB; a role without a comb source has none. -/
def State.marginOf (s : State) (n : Nat) : Option Int :=
  match (s.source n).st with
  | .active => some (s.source n).margin
  | .armed => some (s.source n).margin
  | .spareInUse => some (s.source n).margin
  | .replaced => if (s.source n).partner < 108 then some (s.source (s.source n).partner).margin else none
  | _ => none

/-- The sources that feed a unit (R225, R247). -/
def feeding (u : Nat) : List Nat :=
  if 0xB0 ≤ u && u < 0xC1 then ((List.range (bundlesOf (u - 0xB0))).map fun b => fabricSource (u - 0xB0) b).eraseDups
  else if 0xC8 ≤ u && u < 0xD4 then (List.range 9).map fun m => (u - 0xC8) * 9 + m
  else if 0xE0 ≤ u && u < 0x100 then (List.range 108).filter fun n => srcPort n = some (u - 0xE0)
  else if 0x100 ≤ u && u < 0x10C then [63, 67, 68, 69]
  else []

def State.laserPenalty (s : State) (u : Nat) : Nat :=
  ((feeding u).filterMap s.marginOf).foldl (fun best m => max best (min 500 (2 * (-100 - m)).toNat)) 0

def ringPenalty (p : Nat) : Nat := min 300 (10 * (p - 20))

/-- Spare vias used in the worst bundle of a physical cell or a comb. -/
def State.viaPenalty (s : State) (u : Nat) : Nat :=
  let worst (p : Nat) : Nat := ((s.physCell p).vias.map (·.2)).foldl max 0
  let n := if u < 0x88 then worst u else if 0x90 ≤ u && u < 0x98 then ((List.range 17).map fun i => worst ((u - 0x90) * 17 + i)).foldl max 0 else 0
  min 300 (100 * (n - 1))

def State.repairPenalty (s : State) (u : Nat) : Nat :=
  if 0xA0 ≤ u && u < 0xB0 then
    ((s.mem.budget.range ((u - 0xA0) * 2 ^ 14) ((u - 0xA0 + 1) * 2 ^ 14)).map fun p =>
      300 * p.2 / Config.repairBudget (p.1 / 2 ^ 14) (p.1 / 2 ^ 8 % 64) (p.1 % 2 ^ 8)).foldl max 0
  else 0

/-- The sensors of a unit: a cell's are those above and below its position, the spare's and a comb's all of the comb. -/
def unitSensors (u : Nat) : List Nat :=
  if u < 0x88 then
    let c := u / 17 * 40
    let i := u % 17
    if i < 16 then [c + i, c + 16 + i, c + 32 + i / 2] else (List.range 40).map (c + ·)
  else if 0x90 ≤ u && u < 0x98 then (List.range 40).map ((u - 0x90) * 40 + ·)
  else if 0x98 ≤ u && u < 0xA0 then domSensors (24 + (u - 0x98))
  else if 0xA0 ≤ u && u < 0xB0 then domSensors (34 + (u - 0xA0))
  else if u = 0x110 then domSensors 32
  else []

/-- 20 × (20 − m) for the least margin m to shut-down of the last hour, at most 400. -/
def State.heatPenalty (s : State) (u : Nat) : Nat :=
  ((unitSensors u).map fun x =>
    (((Tab.get [] s.power.peaks x).filter fun q => s.now < q.1 + 3600000000).map fun q =>
      min 400 (5 * (80 - (thr (sensorDom x) 4 - q.2))).toNat).foldl max 0).foldl max 0

def State.calPenalty (s : State) (u : Nat) : Nat := if 0x100 ≤ u && u < 0x10C then 150 * (s.scoutRec (u - 0x100)).fails else 0

/-- The heater power of a unit's rings above commissioning, in %. -/
def heatOf (heat : List (Nat × Nat)) (u : Nat) : Nat := ((heat.find? fun p => p.1 = u).map (·.2)).getD 0

/-- The seven penalties of a unit in the order of R348's WORST codes; inputs that R342 does not apply are 0. -/
def State.penalties (s : State) (heat : List (Nat × Nat)) (u : Nat) : List Nat :=
  let laser := (0xC8 ≤ u && u < 0xD4)
  let rings := (0xB0 ≤ u && u < 0xC1) || (0xE0 ≤ u && u < 0x10C)
  let errs := !laser && !(0x100 ≤ u && u < 0x10C)
  [if errs then errPenalty (s.errCount u) else 0, s.laserPenalty u, if rings then ringPenalty (heatOf heat u) else 0,
    s.viaPenalty u, s.repairPenalty u, s.heatPenalty u, s.calPenalty u]

/-- The code of the largest penalty, the lowest among equals; 0 for none. -/
def worstOf (ps : List Nat) : Nat :=
  let m := ps.foldl max 0
  if m = 0 then 0 else 1 + ps.findIdx fun x => x = m

/-! ### PROBATION (R344) -/

/-- The signal of an entry: the HEALTH interrupt and a PLDM event. -/
def State.signalUnit (s : State) (u : Nat) : State :=
  ((s.event pgSafe).pldm (0x100 + u) 1).modUnit u fun r => { r with signal := some s.now, defer := false }

/-- A unit enters `PROBATION`: it is signalled at once, or when 10 min have passed since its last signal. -/
def State.enterProbation (s : State) (u : Nat) : State :=
  let s := s.modUnit u fun r => { r with st := .probation }
  match (s.unit u).signal with
  | some t => if s.now < t + 600000000 then s.modUnit u fun r => { r with defer := true } else s.signalUnit u
  | none => s.signalUnit u

/-- A unit's score. -/
def State.scoreUnit (s : State) (heat : List (Nat × Nat)) (u : Nat) : State :=
  let ps := s.penalties heat u
  let score := 1000 - ps.sum
  let enter := fld (s.rd pgSafe 0x110) 9 0
  let s := s.modUnit u fun r => { r with
    score := score
    worst := worstOf ps
    highAt := if score ≥ enter + 100 then some (r.highAt.getD s.now) else none
    errs := r.errs.filter fun t => s.now < t + 86400000000 }
  if score < enter && (s.unit u).st ≠ .probation then s.enterProbation u else s

/-- The 60 s round: every unit, then the hive's score, the lowest among units in service. -/
def State.scoreAll (s : State) (heat : List (Nat × Nat)) : State :=
  if !s.boot.hub then s
  else
    let s := unitCodes.foldl (fun (s : State) u => s.scoreUnit heat u) s
    s.wr pgSafe 0x11C (BitVec.ofNat 32 (((unitCodes.filter fun u => s.removed u = 0).map fun u => (s.unit u).score).foldl min 1000))

/-- A held-back signal falls due. -/
def State.deferredSignal (s : State) (u : Nat) : State :=
  let r := s.unit u
  match r.signal with
  | none => s
  | some t =>
    if !r.defer then s
    else
      let s := s.passTo (t + 600000000)
      if r.st = .probation then s.signalUnit u else s.modUnit u fun r => { r with defer := false }

/-- 1 h at or above PROB_ENTER + 100. -/
def State.exitProbation (s : State) (u : Nat) : State :=
  let r := s.unit u
  match r.highAt with
  | none => s
  | some t => if r.st ≠ .probation then s else (s.passTo (t + 3600000000)).modUnit u fun r => { r with st := .ok }

/-! ### The commands -/

/-- LOCKSTEP_MISMATCH. -/
def execLockstepMismatch (s : State) : Host.Outcome State Fault Refusal := .next (let t := s.fenceHive 0x01; t.notify s)
/-- HEARTBEAT_LOSS. -/
def execHeartbeatLoss (s : State) : Host.Outcome State Fault Refusal := .next (let t := s.fenceHive 0x02; t.notify s)
/-- HUB_TABLE_ECC. -/
def execHubTableEcc (s : State) : Host.Outcome State Fault Refusal := .next (let t := s.fenceHive 0x03; t.notify s)
/-- REFCLK_LOSS. -/
def execRefclkLoss (s : State) : Host.Outcome State Fault Refusal := .next (let t := s.fenceHive 0x0A; t.notify s)
/-- ISLAND_CLOCK_LOSS. -/
def execIslandClockLoss (island : Island) (s : State) : Host.Outcome State Fault Refusal := .next (s.islandLost island)
/-- ISLAND_RELOCK. -/
def execIslandRelock (island : Island) (s : State) : Host.Outcome State Fault Refusal := .next (s.islandBack island)
/-- TWIN_PAIR_REBUILD. -/
def execTwinPairRebuild (a b : Fin 128) (testA testB : CellTest) (s : State) : Host.Outcome State Fault Refusal :=
  .next (let t := s.rebuild a.val b.val testA.pass testB.pass testA.degraded testB.degraded; t.notify s)
/-- RESERVE_PAIR_REPLACE. -/
def execReservePairReplace (pair : Fin 16) (cell : Option (Fin 128)) (s : State) : Host.Outcome State Fault Refusal :=
  .next (let t := s.replaceCell pair.val (cell.map (·.val)); t.notify s)
/-- HEALTH_SCORE. -/
def execHealthScore (heat : List (Nat × Nat)) (s : State) : Host.Outcome State Fault Refusal := .next (s.scoreAll heat)
/-- PROBATION_SIGNAL_DEFERRED. -/
def execProbationSignalDeferred (unit : Fin 273) (s : State) : Host.Outcome State Fault Refusal := .next (s.deferredSignal unit.val)
/-- PROBATION_EXIT. -/
def execProbationExit (unit : Fin 273) (s : State) : Host.Outcome State Fault Refusal :=
  .next (let t := s.exitProbation unit.val; t.notify s)

end Sys2Proof.Machine
end

