-- ==== Sys2Proof/Machine/Security.lean ====
section
/-! DEFINITION. Security: key slots (R396 to R399), the SPDM responder (R393, R394, R397), link keys (R400 to R402), debug
unlock (R404, R405), MIN_SVN (R392), microcode banks (R386, R387, R445), and the resets of functions (R389). -/

namespace Sys2Proof.Machine
open Host

/-! ### Key slots (R398) -/

def State.keySel (s : State) : Nat := fld (s.rd pgSec 0x100) 11 0
/-- A slot is `KEY_IN_USE` while a context that is not `FREE` names it. -/
def State.keyInUse (s : State) (k : Nat) : Bool := s.ctx.any fun p => p.2.st ≠ .free && p.2.keySlot = k
def State.setKey (s : State) (k : Nat) (v : KeyTag) : State := s.modSec fun x => { x with keys := Tab.set none x.keys k v }
def State.keyResult (s : State) (st : Nat) : State := s.result pgSec 0x108 st

/-- LOAD, whatever its outcome, zeroes the wrap registers. -/
def State.loadKey (s : State) : State :=
  let ws := (List.range 18).map fun i => Tab.get 0 s.sec.wrap i
  let k := s.keySel
  let t := s.modSec fun x => { x with wrap := [] }
  if s.keyInUse k then t.keyResult Rs.keyInUse
  else match s.sec.kek with
    | none => t.keyResult Rs.noKek
    | some kek => match Config.keyUnwrap kek ws with
      | none => t.keyResult Rs.badWrap
      | some v => if v.toNat / 2 ^ 256 = v.toNat % 2 ^ 256 then t.keyResult Rs.badWrap else (t.setKey k (some v)).keyResult Rs.ok

def State.clearKey (s : State) : State :=
  if s.keyInUse s.keySel then s.keyResult Rs.keyInUse else (s.setKey s.keySel none).keyResult Rs.ok

/-! ### SPDM (R393, R394, R397) -/

/-- The responder answers on I3C once management is ready, and on HP0 while its link is up. -/
def State.answers (s : State) (via : Transport) : Bool := s.boot.mgmt && (via = .i3c || s.boot.hp0)
def State.conn (s : State) (via : Transport) : SpdmSt := match via with | .hp0 => s.sec.spdmHp0 | .i3c => s.sec.spdmI3c
def State.setConn (s : State) (via : Transport) (c : SpdmSt) : State :=
  s.modSec fun x => match via with | .hp0 => { x with spdmHp0 := c } | .i3c => { x with spdmI3c := c }
/-- An ERROR response (code 0x7F) with its SPDM error code (PRESUMED, DSP0274). -/
def State.spdmError (s : State) (via : Transport) (e : Nat) : State := s.emit (.spdm via 0x7F [e])

/-- A request that needs the connection at a point: an earlier one is an unexpected request. -/
def State.onSpdm (s : State) (via : Transport) (need : SpdmSt) (f : State → State) : State :=
  if !s.answers via then s else if s.conn via = need then f s else s.spdmError via 0x04

def State.getVersion (s : State) (via : Transport) : State :=
  if !s.answers via then s else (s.setConn via .version).emit (.spdm via 0x04 [0x12])
/-- The capabilities of a responder as R394's table gives them, by the bits of DSP0274 (PRESUMED, log entry 7): certificates, challenge,
signed measurements, encryption and MAC of messages, key exchange, heartbeat and key update. PSK, mutual authentication, SET_CERTIFICATE
and GET_CSR are not among them. -/
def spdmCaps : Nat := 0x62D6
def State.getCaps (s : State) (via : Transport) : State :=
  s.onSpdm via .version fun s => (s.setConn via .capabilities).emit (.spdm via 0x61 [spdmCaps])
/-- The algorithms of R394's table, by the bits of DSP0274 (PRESUMED, log entry 7): ECDSA P-384, SHA-384, secp384r1, AES-256-GCM. -/
def spdmAlgs : List Nat := [0x80, 0x2, 0x10, 0x2]
def State.negotiate (s : State) (via : Transport) (offered : Bool) : State :=
  s.onSpdm via .capabilities fun s => if offered then (s.setConn via .algorithms).emit (.spdm via 0x63 spdmAlgs) else s.spdmError via 0x01
def State.digests (s : State) (via : Transport) : State :=
  s.onSpdm via .algorithms fun s => s.emit (.spdm via 0x01 [1, (Config.sha384 Config.certChain).toNat])
/-- Only slot 0 holds a certificate. -/
def State.certificate (s : State) (via : Transport) (slot : Nat) : State :=
  s.onSpdm via .algorithms fun s => if slot = 0 then s.emit (.spdm via 0x02 [Config.certChain]) else s.spdmError via 0x01
def State.challengeAuth (s : State) (via : Transport) (slot : Nat) (nonce : BitVec 256) : State :=
  s.onSpdm via .algorithms fun s =>
    if slot = 0 then s.emit (.spdm via 0x03 [Config.deviceSign (Config.sha384 nonce.toNat)]) else s.spdmError via 0x01

/-- The measurements asked for: one index, or all five. -/
def Sec.measured (x : Sec) (index : Option (Fin 256)) : Option (List Nat) :=
  let one (i : Nat) : Nat := (Tab.get 0 x.meas i).toNat
  match index with
  | none => some ((List.range 5).map fun i => one (i + 1))
  | some i => if 1 ≤ i.val && i.val ≤ 5 then some [one i.val] else none
def State.measurements (s : State) (via : Transport) (index : Option (Fin 256)) (nonce : BitVec 256) : State :=
  s.onSpdm via .algorithms fun s => match s.sec.measured index with
    | some l => s.emit (.spdm via 0x60 (l ++ [Config.deviceSign (Config.sha384 (l.foldl (fun a m => a * 2 ^ 384 + m) nonce.toNat))]))
    | none => s.spdmError via 0x01

/-- KEY_EXCHANGE: at most four sessions, over both transports. -/
def State.exchange (s : State) (via : Transport) (slot : Nat) (share : BitVec 768) : State :=
  s.onSpdm via .algorithms fun s =>
    if slot ≠ 0 then s.spdmError via 0x01
    else match (List.range 4).find? fun k => (s.session k).isNone with
      | none => s.spdmError via 0x0A
      | some k => (s.draw.setSession k (some ⟨false, Config.sessionKey share.toNat s.free, via, s.free, 0⟩)).emit
          (.spdm via 0x64 [k, Config.deviceSign (Config.sha384 share.toNat)])

/-- A request inside a session whose handshake is complete. -/
def State.inSession (s : State) (k : Nat) (f : Session → State) : State :=
  match s.session k with
  | some x => if x.ready && s.answers x.via then f x else s
  | none => s

/-- FINISH completes a handshake; one whose verify data fail ends the session. -/
def State.finishSession (s : State) (k : Nat) (ok : Bool) : State :=
  match s.session k with
  | none => s
  | some x =>
    if x.ready || !s.answers x.via then s
    else if ok then s.tell k { x with ready := true } 0x65 []
    else (s.setSession k none).spdmError x.via 0x06

def State.updateKey (s : State) (k : Nat) : State :=
  s.inSession k fun x => s.draw.tell k { x with key := Config.sessionKey x.key.toNat s.free, sent := 0 } 0x69 []
def State.heartbeat (s : State) (k : Nat) : State := s.inSession k fun x => s.tell k x 0x68 []
def State.endSession (s : State) (k : Nat) : State := s.inSession k fun x => (s.tell k x 0x6C []).setSession k none

/-- SET_KEK (R397): the KEK takes effect at once; with PERSIST a key-store write seals it, and its outcome is the response. -/
def State.setKek (s : State) (k : Nat) (kek : BitVec 256) (persist : Bool) : State :=
  s.inSession k fun x =>
    let s := s.modSec fun y => { y with kek := some kek }
    if persist then s.askWrite (.kek x.id kek) else s.tell k x 0x7E [Rs.ok]

/-- A vendor-defined request that carries an owner public key (R404). -/
def State.ownerKey (s : State) (via : Transport) (key : BitVec 768) : State :=
  s.onSpdm via .algorithms fun s => (s.modSec fun x => { x with ownerKey := some key }).emit (.spdm via 0x7E [Rs.ok])

/-! ### Link keys (R401, R402) -/

/-- Fresh keys for both directions of a link: free values. -/
def State.rekeyLink (s : State) (p : Nat) : State :=
  s.draw.modPort p fun r => { r with
    link := .secure
    txKey := some (Config.sessionKey (2 * p) s.free)
    rxKey := some (Config.sessionKey (2 * p + 1) s.free)
    txCount := 0
    rxCount := 0
    keyAt := s.now }

/-- The exchange ends: the port enters `CP_UP` with fresh keys, or `CP_DOWN` with cause CRYPTO. -/
def State.linkKeyed (s : State) (p : Nat) (x : LinkPeer) : State :=
  if (s.port p).link ≠ .keying then s
  else if !x.chainOk || x.dataOpen || !x.enc then s.portDown p 0xD
  else (s.rekeyLink p).enterUp p

/-- 100 ms without completion. -/
def State.keyingLate (s : State) (p : Nat) : State :=
  if (s.port p).link ≠ .keying then s else (s.passTo ((s.port p).keyAt + 100000)).portDown p 0xD

/-- The rotation of a link key: after ROTATE seconds, or before 2^32 flits have been sent under it. -/
def State.rotateLink (s : State) (p : Nat) : State :=
  let r := s.port p
  if r.link ≠ .secure then s
  else
    let full := r.txCount + 1 ≥ 2 ^ 32 || r.rxCount + 1 ≥ 2 ^ 32
    let s := if full then s else s.passTo (r.keyAt + 1000000 * fld (s.reg (linkKeyAt p)) 11 0)
    s.rekeyLink p

/-! ### Debug unlock (R404, R405) -/

/-- CHALLENGE: a fresh nonce. Scopes already unlocked stay so. -/
def State.challenge (s : State) : State :=
  s.draw.modSec fun x => { x with
    nonce := Config.sessionKey 8 s.free
    fresh := true
    dbg := if x.dbg = .unlocked then .unlocked else .challenged }

/-- The token's bytes. -/
def Sec.tokenBytes (x : Sec) : List Byte := wordsToBytes ((List.range 38).map fun i => Tab.get 0 x.token i)

/-- The token is accepted (R404). -/
def Sec.tokenGood (x : Sec) : Bool :=
  let b := x.tokenBytes
  let at_ (i n : Nat) : Nat := ofBytes ((b.drop i).take n)
  let key : Option Nat := if at_ 4 1 = 0 then some Config.tokenKey
    else if at_ 4 1 = 1 then (match x.ownerKey, Config.ownerAnchor with
      | some k, some a => if Config.sha384 k.toNat = a then some k.toNat else none
      | _, _ => none)
    else none
  x.fresh && at_ 0 4 = 0x44425431 && at_ 6 2 = 0 && at_ 8 16 = Config.deviceId.toNat && at_ 24 32 = x.nonce.toNat &&
    match key with
    | some k => Config.ecdsaVerify k (Config.sha384 (at_ 0 56)) (at_ 56 96)
    | none => false

/-- The scopes of the token. -/
def Sec.tokenScope (x : Sec) : BitVec 4 := BitVec.ofNat 4 (ofBytes ((x.tokenBytes.drop 5).take 1))

/-- DATA unlocks once every context is torn down and `FREE`, and every key slot is clear (R405). -/
def State.unlockData (s : State) : State :=
  if s.sec.dataDue && s.ctx.all fun p => p.2.st = .free then
    s.modSec fun x => ({ x with dataDue := false, keys := [], scope := x.scope ||| 8 } : Sec).measureDebug
  else s

/-- SUBMIT. Every scope of the token but DATA unlocks; for DATA, every context is torn down and every key slot cleared first. -/
def State.submit (s : State) : State :=
  if !s.sec.tokenGood then
    s.modSec fun x => { x with fresh := false, dbgResult := BitVec.ofNat 8 Rs.badToken, dbg := if x.dbg = .challenged then .locked else x.dbg }
  else
    let scope := s.sec.tokenScope
    let s := if scope.getLsbD 3 then (s.tearAll fun _ => true).modSec fun x => { x with keys := [], dataDue := true } else s
    (s.modSec fun x => ({ x with fresh := false, dbgResult := 0, dbg := .unlocked, scope := x.scope ||| (scope &&& 7) } : Sec).measureDebug).unlockData

/-- RELOCK; the IEEE 1500 wrapper no longer holds a stack out of service (R224). -/
def State.relock (s : State) : State :=
  let s := s.modSec fun x => ({ x with fresh := false, dbg := .locked, scope := 0, dataDue := false } : Sec).measureDebug
  (List.range 8).foldl (fun (s : State) n => ((s.wr (pgSd n) 0x140 0).wr (pgSd n) 0x144 0).stacksOut n false) s

/-! ### Microcode (R386, R392, R445) -/

/-- ACTIVATE: the inactive bank is verified, then the pointer is to be written. -/
def State.activate (s : State) : State :=
  if s.sec.uc ≠ .idle then s
  else
    let b := !s.sec.active
    let ok := s.sec.verify b
    let s := s.modSec fun x => x.setValid b ok
    if !ok then s.result pgDevice 0x124 Rs.badSignature
    else (s.modSec fun x => { x with uc := .pointer }).askWrite (.pointer b)

/-- CANCEL: a pointer write that has not started is dropped; else the pointer is written back. -/
def State.cancel (s : State) : State :=
  let isPtr (w : PWrite) : Bool := match w with | .pointer _ => true | _ => false
  match s.sec.uc with
  | .pointer =>
    if s.power.running.any isPtr then (s.modSec fun x => { x with uc := .undo }).askWrite (.pointer s.sec.active)
    else ((s.modPower fun p => { p with writes := p.writes.filter fun w => !isPtr w }).modSec fun x => { x with uc := .idle }).result pgDevice 0x124 Rs.ok
  | .waiting => (s.modSec fun x => { x with uc := .undo }).askWrite (.pointer s.sec.active)
  | _ => s

/-- Step 3: no context has an open step; every sequencer switches; the measurements follow, and the activation is logged. A bank that does
not verify never comes into use (R2, R392): one that a write asked for before the activation has replaced since gives the pointer back. -/
def State.switchMicrocode (s : State) : State :=
  if s.sec.uc ≠ .waiting || s.ctx.any fun p => p.2.step.st = .opened then s
  else if !s.sec.verify s.sec.pointer then
    ((s.modSec fun x => { x with uc := .idle }).result pgDevice 0x124 Rs.badSignature).askWrite (.pointer s.sec.active)
  else
    let s := s.modSec fun x => ({ x with active := x.pointer, fallback := false, uc := .idle } : Sec).measureBank
    ((s.result pgDevice 0x124 Rs.ok).logEvent 0x51 unitHub (s.sec.ucRev s.sec.active).toNat 0).askWrite .flush

/-- A bank image has the size of a bank, 4 MiB (R452). -/
def bankFits (i : BankImage) : Bool := i.content.log2 < 2 ^ 25

/-- UpdateComponent (R445): only the inactive bank; where no bank verified, either (R385); none while an activation has verified that bank
and runs (R386), and no image beyond a bank's size (R452). -/
def State.updateBank (s : State) (b : Bool) (image : BankImage) : State :=
  if !s.boot.mgmt then s
  else if s.sec.uc ≠ .idle || !bankFits image then s.emit (.pldmResult false 0x80)
  else if (s.sec.validA || s.sec.validB) && b = s.sec.active then s.emit (.pldmResult false 0x80)
  else s.askWrite (.bank b image)

/-- A signed request that raises MIN_SVN (R392): a key-store write. -/
def State.raiseSvn (s : State) (n sig : Nat) : State :=
  if !s.boot.mgmt then s
  else if n ≤ s.sec.minSvn || !Config.ecdsaVerify Config.microcodeKey (Config.sha384 n) sig then s.emit (.pldmResult true 0x80)
  else s.askWrite (.svn n)

/-! ### The commands -/

/-- ZEROING_DONE; the last one of those that DATA waits for unlocks it. -/
def execZeroingDone (ctx : Fin 4096) (s : State) : Host.Outcome State Fault Refusal := .next (s.zeroed ctx.val).unlockData
/-- KEY_LOAD. -/
def execKeyLoad (s : State) : Host.Outcome State Fault Refusal := .next (s.onPage pgSec State.loadKey)
/-- KEY_CLEAR. -/
def execKeyClear (s : State) : Host.Outcome State Fault Refusal := .next (s.onPage pgSec State.clearKey)
/-- SET_KEK. -/
def execSetKek (session : Fin 4) (kek : BitVec 256) (persist : Bool) (s : State) : Host.Outcome State Fault Refusal :=
  .next (s.setKek session.val kek persist)
/-- GET_VERSION. -/
def execGetVersion (via : Transport) (s : State) : Host.Outcome State Fault Refusal := .next (s.getVersion via)
/-- GET_CAPABILITIES. -/
def execGetCapabilities (via : Transport) (s : State) : Host.Outcome State Fault Refusal := .next (s.getCaps via)
/-- NEGOTIATE_ALGORITHMS. -/
def execNegotiateAlgorithms (via : Transport) (offered : Bool) (s : State) : Host.Outcome State Fault Refusal := .next (s.negotiate via offered)
/-- GET_DIGESTS. -/
def execGetDigests (via : Transport) (s : State) : Host.Outcome State Fault Refusal := .next (s.digests via)
/-- GET_CERTIFICATE. -/
def execGetCertificate (via : Transport) (slot : Fin 8) (s : State) : Host.Outcome State Fault Refusal := .next (s.certificate via slot.val)
/-- CHALLENGE. -/
def execChallenge (via : Transport) (slot : Fin 8) (nonce : BitVec 256) (s : State) : Host.Outcome State Fault Refusal :=
  .next (s.challengeAuth via slot.val nonce)
/-- GET_MEASUREMENTS. -/
def execGetMeasurements (via : Transport) (index : Option (Fin 256)) (nonce : BitVec 256) (s : State) : Host.Outcome State Fault Refusal :=
  .next (s.measurements via index nonce)
/-- KEY_EXCHANGE. -/
def execKeyExchange (via : Transport) (slot : Fin 8) (share : BitVec 768) (s : State) : Host.Outcome State Fault Refusal :=
  .next (s.exchange via slot.val share)
/-- FINISH. -/
def execFinish (session : Fin 4) (verifyOk : Bool) (s : State) : Host.Outcome State Fault Refusal := .next (s.finishSession session.val verifyOk)
/-- KEY_UPDATE. -/
def execKeyUpdate (session : Fin 4) (s : State) : Host.Outcome State Fault Refusal := .next (s.updateKey session.val)
/-- HEARTBEAT. -/
def execHeartbeat (session : Fin 4) (s : State) : Host.Outcome State Fault Refusal := .next (s.heartbeat session.val)
/-- END_SESSION. -/
def execEndSession (session : Fin 4) (s : State) : Host.Outcome State Fault Refusal := .next (s.endSession session.val)
/-- VENDOR_DEFINED_REQUEST. -/
def execVendorDefinedRequest (via : Transport) (ownerKey : BitVec 768) (s : State) : Host.Outcome State Fault Refusal :=
  .next (s.ownerKey via ownerKey)
/-- LINK_KEY_EXCHANGE. -/
def execLinkKeyExchange (port : Fin 32) (peer : LinkPeer) (s : State) : Host.Outcome State Fault Refusal :=
  .next (let t := s.linkKeyed port.val peer; t.notify s)
/-- LINK_KEY_EXCHANGE_TIMEOUT. -/
def execLinkKeyExchangeTimeout (port : Fin 32) (s : State) : Host.Outcome State Fault Refusal :=
  .next (let t := s.keyingLate port.val; t.notify s)
/-- LINK_KEY_ROTATE. -/
def execLinkKeyRotate (port : Fin 32) (s : State) : Host.Outcome State Fault Refusal := .next (s.rotateLink port.val)
/-- DBG_CHALLENGE. -/
def execDbgChallenge (s : State) : Host.Outcome State Fault Refusal := .next (s.onPage pgSec State.challenge)
/-- SUBMIT. -/
def execSubmit (s : State) : Host.Outcome State Fault Refusal := .next (s.onPage pgSec State.submit)
/-- RELOCK. -/
def execRelock (s : State) : Host.Outcome State Fault Refusal := .next (s.onPage pgSec State.relock)
/-- ACTIVATE. -/
def execActivate (s : State) : Host.Outcome State Fault Refusal := .next (s.onPage pgDevice State.activate)
/-- CANCEL. -/
def execCancel (s : State) : Host.Outcome State Fault Refusal := .next (s.onPage pgDevice State.cancel)
/-- MICROCODE_SWITCH. -/
def execMicrocodeSwitch (s : State) : Host.Outcome State Fault Refusal := .next s.switchMicrocode
/-- UPDATE_COMPONENT. -/
def execUpdateComponent (bankB : Bool) (image : BankImage) (s : State) : Host.Outcome State Fault Refusal := .next (s.updateBank bankB image)
/-- ACTIVATE_FIRMWARE: the ACTIVATE of R386, from the management endpoint. -/
def execActivateFirmware (s : State) : Host.Outcome State Fault Refusal := .next (if s.boot.mgmt then s.activate else s)
/-- MIN_SVN_RAISE. -/
def execMinSvnRaise (svn : Nat) (sig : Nat) (s : State) : Host.Outcome State Fault Refusal := .next (s.raiseSvn svn sig)

end Sys2Proof.Machine
end

