-- ==== Sys2Proof/Machine/Counters.lean ====
section
/-! DEFINITION. The counter window and its snapshot (R409, R414 to R416); the life log: its image in MRAM (R420), `LOG_CTRL`
(R424, R425), the flush on request and by period (R422), and the minute of accumulation (R420). -/

namespace Sys2Proof.Machine
open Host

/-! ### The counter window (R414 to R416) -/

/-- `BLK_CAPS.NENG`: the counted engines of a page (R409). -/
def Page.engines (p : Page) : Nat :=
  match p.kind with | .comb => 64 | .sd => if p.n < 6 then 5 else 3 | .port => 1 | _ => 0

/-- The engine and the view that `CNT_SEL` of a page selects (R415). -/
def State.cntEngine (s : State) (p : Page) : Nat := fld (s.rd p 0x40) 7 0

/-- A write of `CNT_SEL` (R415, R416): SNAP copies both banks of ENGINE; an ENGINE beyond the page's engines selects nothing
(R428), and a page without engines has no window (R430). -/
def State.cntSelect (s : State) (p : Page) (v : W32) : State :=
  if p.engines = 0 then s
  else
    let s := s.wr p 0x40 (v &&& 0x010000FF)
    if bit v 31 && s.cntEngine p < p.engines then
      { s with cntSnap := Tab.set {} s.cntSnap (p.off / 4096) (Tab.get {} s.cntBanks (bankKey p (s.cntEngine p))) }
    else s

/-- A word of a 48-bit counter: the low 32 bits, or the high 16 (R414). -/
def half (c : BitVec 48) (high : Bool) : W32 := BitVec.ofNat 32 (if high then c.toNat / 2 ^ 32 else c.toNat % 2 ^ 32)

/-- The stalled cycles of all reasons (R414), saturating (R413). -/
def Bank.stalled (b : Bank) : BitVec 48 := satAdd 48 0 (b.stall.map BitVec.toNat).sum

/-- The register of the window at offset `rel`, 0x44 and up, for the bank shown (R414). -/
def Bank.word (b : Bank) (rel : Nat) : W32 :=
  let high := rel % 8 = 4
  if rel = 0x44 then BitVec.ofNat 32 (b2n b.valid * 2 ^ 31 + b2n b.counting * 2 ^ 30 + b.q % 4 * 2 ^ 16 + b.ctx % 4096)
  else if rel = 0x48 then b.seq
  else if rel = 0x4C then b.ids
  else if rel = 0x50 || rel = 0x54 then half b.busy high
  else if rel = 0x58 || rel = 0x5C then half b.idle high
  else if rel = 0x60 || rel = 0x64 then half b.stalled high
  else if 0x68 ≤ rel && rel < 0xA8 then half (b.stall.getD ((rel - 0x68) / 8) 0) high
  else 0

/-- The snapshot of a page that VIEW shows. -/
def State.cntShown (s : State) (p : Page) : Bank :=
  let x := Tab.get {} s.cntSnap (p.off / 4096)
  if bit (s.rd p 0x40) 24 then x.last else x.cur

/-- A read of the counter window. -/
def State.cntWord (s : State) (p : Page) (rel : Nat) : W32 :=
  if p.engines = 0 then 0
  else if rel = 0x40 then s.rd p 0x40
  else if s.cntEngine p < p.engines then (s.cntShown p).word rel
  else 0

/-! ### The life log in MRAM (R420, R421, R425) -/

/-- A word of an event record (R421); a slot that holds none reads 0. -/
def LogEvent.word (e : Option LogEvent) (i : Nat) : W32 :=
  match e with
  | none => 0
  | some e => match i with
    | 0 => BitVec.ofNat 32 (e.type.toNat * 2 ^ 24 + e.unit.toNat)
    | 1 => e.mins
    | 2 => e.data0
    | 3 => e.data1
    | _ => 0

/-- A laser mean as the two bytes of its slot (R420). -/
def s16 (v : Int) : Nat := (v % 65536).toNat

/-- The word of the log at byte offset `o` (R420). -/
def LogImage.word (g : LogImage) (o : Nat) : W32 :=
  if o = 0 then 0x4C494631
  else if o = 4 then g.flushes
  else if o = 8 then g.minutes
  else if o = 12 then g.events
  else if o < 0x24 then Tab.get 0 g.resets (o / 4 - 3)
  else if o < 0x100 then 0
  else if o < 0x1A00 then Tab.get 0 g.temps ((o - 0x100) / 4)
  else if o < 0x219E0 then Tab.get 0 g.errors ((o - 0x1A00) / 4)
  else if o < 0x21A00 then 0
  else if o < 0xF9A00 then
    let i := (o - 0x21A00) / 2
    BitVec.ofNat 32 (s16 (Tab.get 0 g.laser i) + s16 (Tab.get 0 g.laser (i + 1)) * 65536)
  else if o < 0x2F9A00 then LogEvent.word (Tab.get none g.ring ((o - 0xF9A00) / 32)) (o % 32 / 4)
  else 0

/-- A write of `LOG_CTRL` (R424, R425): EN and PERIOD are kept in MRAM, and FLUSH asks for a flush. -/
def State.writeLog (s : State) (v : W32) : State :=
  let s := s.modLog fun l => { l with ctrl := BitVec.ofNat 32 (b2n (bit v 31) * 2 ^ 31 + clampTo 10 1440 (fld v 10 0)) }
  if bit v 30 then s.askWrite .flush else s

/-- `LOG_CTRL.PERIOD` in µs. -/
def State.logPeriod (s : State) : Nat := fld s.log.ctrl 10 0 * 60000000

/-- PERIOD has passed since the last flush: a flush is requested (R422). -/
def State.periodFlush (s : State) : State :=
  if !s.boot.mgmt then s else (s.passTo (s.log.lastAt.getD 0 + s.logPeriod)).askWrite .flush

/-! ### A power-on minute (R420) -/

/-- The bin of a temperature in 0.25 °C. -/
def tempBin (t : Int) : Nat := if t < 0 then 0 else min 31 (t.toNat / 20 + 1)

/-- The temperature minutes after one more minute: each domain counts at its control value. -/
def State.tempsNow (s : State) : Tab W32 :=
  (List.range 50).foldl (fun (t : Tab W32) d =>
    Tab.set 0 t (d * 32 + tempBin (s.domTemp d)) (Tab.get 0 t (d * 32 + tempBin (s.domTemp d)) + 1)) s.log.acc.temps

/-- The laser trend after the day with a given number ends: the mean margin of every source that was measured. -/
def LifeLog.trend (l : LifeLog) (day : Nat) : Tab Int :=
  l.laser.foldl (fun (t : Tab Int) p => if p.2.2 = 0 then t else Tab.set 0 t (p.1 * 4096 + day % 4096) (p.2.1 / p.2.2)) l.acc.laser

/-- One power-on minute: the minutes and the temperatures count; the 1,440th of a day writes the day's laser means. Nothing
accumulates while EN is 0 (R424). -/
def State.minute (s : State) : State :=
  if !s.boot.mgmt || !s.logOn then s
  else
    let temps := s.tempsNow
    let m := s.log.acc.minutes.toNat + 1
    s.modLog fun l =>
      if m % 1440 = 0 then
        { l with acc := { l.acc with minutes := BitVec.ofNat 32 m, temps := temps, laser := l.trend (m / 1440 - 1) }, laser := [] }
      else { l with acc := { l.acc with minutes := BitVec.ofNat 32 m, temps := temps } }

/-! ### The commands -/

/-- CNT_SNAP: a write of `CNT_SEL` of the page at a BAR0 offset. A fenced hive takes no BAR0 write (R325). -/
def execCntSnap (page : BitVec 26) (value : W32) (s : State) : Host.Outcome State Fault Refusal :=
  .next (match pageOf page.toNat with
    | some (p, _) => if s.fenced then s else s.cntSelect p value
    | none => s)
/-- LOG_FLUSH. -/
def execLogFlush (s : State) : Host.Outcome State Fault Refusal := .next s.periodFlush
/-- FLUSH: a write of `LOG_CTRL` whose FLUSH bit is 1. -/
def execFlush (value : W32) (s : State) : Host.Outcome State Fault Refusal :=
  .next (if bit value 30 then s.onPage pgLog fun s => s.writeLog value else s)
/-- LOG_ENABLE_WRITE. -/
def execLogEnableWrite (value : W32) (s : State) : Host.Outcome State Fault Refusal := .next (s.onPage pgLog fun s => s.writeLog value)
/-- LIFE_LOG_ACCUMULATION. -/
def execLifeLogAccumulation (s : State) : Host.Outcome State Fault Refusal := .next s.minute

end Sys2Proof.Machine
end

