-- ==== Sys2Proof/Machine/Flags.lean ====
section
/-! DEFINITION. What every register of BAR0 reads as: the common registers and their status flags (R430, R431, R349), the
block directory (R436), and for each page the registers whose value the block computes from its state. Every other register
reads as it is stored, and a reserved offset as 0 (R427). -/

namespace Sys2Proof.Machine
open Host

/-- A register value from (value, position) pairs. -/
def packed (l : List (Nat × Nat)) : W32 := BitVec.ofNat 32 (l.map fun p => p.1 * 2 ^ p.2).sum

/-- A set of numbers below `n` as bits. -/
def bitSet (n : Nat) (f : Nat → Bool) : Nat := ((List.range n).map fun i => b2n (f i) * 2 ^ i).sum

/-- A signed value in 16 bits. -/
def int16 (v : Int) : Nat := s16 v

/-- A select register as the reader selects it: the host's, or the I3C one (R446). -/
def State.sel (s : State) (i3c : Bool) (p : Page) (rel : Nat) : W32 := if i3c then s.reg (i3cKey (p.key rel)) else s.rd p rel

/-! ### State codes -/

/-- Context states (R15). -/
def CtxState.code : CtxState → Nat | .free => 0 | .opened => 1 | .quiesced => 2 | .zeroing => 3 | .quiescing => 4
/-- Scout states (R138). -/
def ScoutSt.code : ScoutSt → Nat | .ready => 0 | .cal => 1 | .fenced => 2 | .off => 3
/-- Die-port states (R254). -/
def DpState.code : DpState → Nat | .down => 0 | .training => 1 | .up => 2 | .disputed => 3
/-- Source states (R256). -/
def SrcState.code : SrcState → Nat
  | .active => 0 | .armed => 1 | .replaced => 2 | .retired => 3 | .spareIdle => 8 | .spareArmed => 9 | .spareWarm => 10
  | .spareInUse => 11 | .off => 15
/-- Inlet states (R256). -/
def ElState.code : ElState → Nat | .dark => 0 | .ready => 1 | .inUse => 2 | .bad => 3
/-- Port states (R287). -/
def CpState.code : CpState → Nat | .off => 0 | .training => 1 | .check => 2 | .up => 3 | .miscabled => 4 | .down => 5
/-- Step states (R348). -/
def StepSt.code : StepSt → Nat | .none => 0 | .opened => 1 | .failed => 2
/-- Link-key states (R407). -/
def LinkSt.code : LinkSt → Nat | .clear => 0 | .keying => 1 | .secure => 2

/-! ### The common registers (R430, R431) -/

/-- The units of a block (R342, R349): those of its page; a page that stands for no unit of its own shows the hub. -/
def Page.units (p : Page) : List Nat :=
  match p.kind with
  | .comb => unitComb p.n :: (List.range 17).map fun i => unitPhys (p.n * 17 + i)
  | .sd => [unitSd p.n, unitStack (2 * p.n), unitStack (2 * p.n + 1)]
  | .base => (List.range 17).map unitDp
  | .laser => (List.range 12).map unitLaser
  | .port => [unitPort p.n]
  | .pool => (List.range 12).map unitScout
  | _ => [unitHub]

/-- `BLK_SAFE_STAT`: the lowest-scoring unit of the block, the lowest code among equals (R349). -/
def State.safeStat (s : State) (p : Page) : W32 :=
  match bestOf (fun a b => (s.unit a).score < (s.unit b).score) p.units with
  | some u => packed [(s.unitState u, 30), ((s.unit u).score, 16)]
  | none => 0

/-- `BLK_STATUS` (R431). -/
def State.blkStatus (s : State) (p : Page) : W32 :=
  packed [(b2n ((s.rd p 0x20 &&& ~~~ (s.rd p 0x24)) != 0), 1), (b2n ((s.rd p 0x18 &&& s.rd p 0x1C) != 0), 0)]

/-- A common register (R430). -/
def State.commonWord (s : State) (p : Page) (rel : Nat) : W32 :=
  if rel = 0x00 then packed [(p.kind.row.1, 16), (p.n, 8)]
  else if rel = 0x04 then blkRev p.kind.row.1
  else if rel = 0x08 then packed [(p.engines, 16)]
  else if rel = 0x0C then BitVec.ofNat 32 (s.blkReady p)
  else if rel = 0x14 then s.blkStatus p
  else if rel = 0x28 then 0
  else if rel = 0x2C then s.safeStat p
  else if rel < 0x34 then s.rd p rel
  else if rel < 0x40 then 0
  else s.cntWord p rel

/-! ### The hub's pages -/

/-- The device page (R380, R381, R387, R436). -/
def State.deviceWord (s : State) (rel : Nat) : W32 :=
  let b := s.boot
  if rel = 0x100 then packed [(b2n s.service, 24), (b.sdReady.toNat, 16), (bitSet 8 s.combReady, 8), (b2n b.hp0, 3), (b2n s.baseReady, 2),
    (b2n b.hub, 1), (b2n b.mgmt, 0)]
  else if rel = 0x104 then packed [(bitSet 16 s.stackUp, 0)]
  else if rel = 0x108 then packed [(bitSet 17 fun d => (s.diePort d).st = .up, 0)]
  else if rel = 0x10C then packed [(bitSet 32 fun p => (s.port p).st = .up, 0)]
  else if rel = 0x114 then packed [(b2n s.done, 31), (b2n b.locked, 30), (b2n (b.die.isSome || b.dieWait.isSome), 29), (b.cause.toNat, 0)]
  else if rel = 0x124 then packed [(b2n (s.sec.uc ≠ .idle), 31), (b2n s.sec.active, 30), (b2n s.sec.fallback, 29), (b2n s.sec.validA, 28),
    (b2n s.sec.validB, 27), (fld (s.rd pgDevice 0x124) 7 0, 0)]
  else if rel = 0x128 then s.sec.ucRev false
  else if rel = 0x12C then s.sec.ucRev true
  else if rel = 0x300 then packed [(pages.length, 0)]
  else if rel ≥ 0x400 && rel % 4 = 0 then
    match pages[(rel - 0x400) / 4]? with
    | some p => packed [(p.kind.row.1, 16), (p.off / 4096, 0)]
    | none => 0
  else s.rd pgDevice rel

/-- The context block (R13, R14, R27, R433). -/
def State.ctxWord (s : State) (rel : Nat) : W32 :=
  if rel = 0x108 then s.rd pgCtx rel ||| packed [((s.cx s.ctxIndex).st.code, 8)]
  else if rel = 0x188 then s.rd pgCtx rel ||| packed [(b2n (s.stm s.strIndex).live, 8)]
  else if rel = 0x208 then s.hubTime
  else if 0x240 ≤ rel && rel < 0x280 then
    match s.pairs.find? fun p => p.n = (rel - 0x240) / 4 && s.pairFormed p with
    | some p => packed [(p.b, 8), (p.a, 0)]
    | none => 0
  else if rel = 0x280 then (s.cx s.ctxIndex).err
  else s.rd pgCtx rel

/-- The scout pool (R137, R138); STATE of SKR_RESULT is that of the context selected, as in CTX_RESULT (R14). -/
def State.poolWord (s : State) (rel : Nat) : W32 :=
  if rel = 0x120 then packed [(bitSet 12 fun u => (s.scoutRec u).st = .ready, 0)]
  else if rel = 0x108 then s.rd pgPool rel ||| packed [((s.cx s.skrIndex).st.code, 8)]
  else if 0x180 ≤ rel && rel < 0x1B0 then
    let r := s.scoutRec ((rel - 0x180) / 4)
    packed [(r.losses.toNat, 8), (r.st.code, 0)]
  else s.rd pgPool rel

/-- The memory management block (R185). -/
def State.mmWord (s : State) (rel : Nat) : W32 :=
  if rel = 0x120 then packed [((s.mem.pool.filter fun p => p.2 = .free).length, 0)]
  else if rel = 0x124 then packed [(s.mem.retired.length, 0)]
  else s.rd pgMm rel

/-- The collective block (R307). -/
def State.collWord (s : State) (rel : Nat) : W32 :=
  if rel = 0x194 then packed [(min 8 (s.runs.filter fun r => opcodeOf r.words = 0x40 && !r.refused).length, 0)] else s.rd pgColl rel

/-- `HEALTH_DATA` of a unit code (R348); a code of no unit selects nothing (R428). -/
def State.healthData (s : State) (u : Nat) : W32 :=
  if unitCodes.contains u then packed [(s.unitState u, 30), ((s.unit u).score, 16), ((s.unit u).worst, 0)] else 0

/-- The safety block (R347, R348). -/
def State.safeWord (s : State) (i3c : Bool) (rel : Nat) : W32 :=
  let t := (s.cx (fld (s.rd pgSafe 0x120) 11 0)).step
  if rel = 0x100 then packed [(s.safeState, 30), (s.pairsFormed, 0)]
  else if rel = 0x104 then packed [(s.mech.toNat, 0)]
  else if rel = 0x114 then s.sel i3c pgSafe 0x114
  else if rel = 0x118 then s.healthData (fld (s.sel i3c pgSafe 0x114) 8 0)
  else if rel = 0x124 then packed [(t.st.code, 30), (t.mode.toNat, 28), (t.fail.toNat, 0)]
  else if rel = 0x128 then t.num.setWidth 32
  else if rel = 0x12C then BitVec.ofNat 32 (t.num.toNat / 2 ^ 32)
  else s.rd pgSafe rel

/-- The function map (R440): VF 0 selects nothing. -/
def State.fnWord (s : State) (rel : Nat) : W32 :=
  let x := fld (s.rd pgFn 0x100) 15 0
  if rel = 0x104 then (if x < 256 then 0 else Tab.get 0 s.vfMap x) else s.rd pgFn rel

/-! ### Combs, store dies, base layer and lasers -/

/-- The comb page (R180). -/
def State.combWord (s : State) (c rel : Nat) : W32 :=
  if 0x100 ≤ rel && rel < 0x180 then
    match (s.cell (c * 16 + (rel - 0x100) / 8)).phys with
    | some p => BitVec.ofNat 32 ((s.physCell (c * 17 + p)).degraded.toNat / (if rel % 8 = 4 then 2 ^ 32 else 1))
    | none => 0
  else if rel = 0x184 then
    let x := s.rd (pgComb c) 0x180
    match (s.bankMap (fld x 11 0) (c * 16 + fld x 19 16)).bind fun m => m[fld x 29 24]? with
    | some b => packed [(1, 31), (b, 0)]
    | none => 0
  else s.rd (pgComb c) rel

/-- The IEEE 1500 wrapper answers: STACK is unlocked (R224). -/
def State.t1500On (s : State) : Bool := s.sec.dbg = .unlocked && s.sec.scope.getLsbD 0

/-- The store-die page (R223, R224). -/
def State.sdWord (s : State) (n rel : Nat) : W32 :=
  if rel = 0x11C then packed [((s.pendingRows n).length, 0)]
  else if rel = 0x140 then (if s.t1500On then s.rd (pgSd n) rel else 0)
  else if rel = 0x144 then (if s.t1500On then Config.freeWord s.free 0 else 0)
  else s.rd (pgSd n) rel

/-- The working lanes of a bundle: none while it has no light (R250, R254). -/
def Bundle.working (x : Bundle) : W16 := if x.dark then 0 else ~~~ x.lost
/-- `LANE_MAP` of a bundle (R254); its reset value until the die port's training has ended (R253). -/
def State.laneMap (s : State) (dp b : Nat) (rx : Bool) : W32 :=
  if dp < 17 && b < bundlesOf dp && (s.diePort dp).ended then packed [(s.bundleState dp rx b, 30), ((s.bundle dp rx b).working.toNat, 0)] else 0

/-- `LEDGER_DATA` of a receive bundle (R254). -/
def State.ledgerData (s : State) (dp b : Nat) : W32 :=
  if dp < 17 && b < bundlesOf dp then
    match (s.grantOf dp b).src with
    | some g => packed [(1, 31), (g.1, 16), (g.2, 8)]
    | none => 0
  else 0

/-- `DP_RECORDn` (R254); its reset value until the die port's training has ended (R253). -/
def State.dpRecord (s : State) (d : Nat) : W32 :=
  if !(s.diePort d).ended then 0
  else packed [((s.diePort d).st.code, 30), (s.width d false, 21), (s.width d true, 12), (min 0x7F (s.diePort d).retrains, 5)]

/-- The base arbiter page (R253, R254). The heater power of the rings is a free value (log entry 4). -/
def State.baseWord (s : State) (rel : Nat) : W32 :=
  if rel = 0x104 then packed [(bitSet 8 s.paced, 0)]
  else if rel = 0x114 then s.ledgerData (fld (s.rd pgBase 0x110) 20 16) (fld (s.rd pgBase 0x110) 12 8)
  else if 0x140 ≤ rel && rel < 0x184 then s.dpRecord ((rel - 0x140) / 4)
  else if rel = 0x204 then s.laneMap (fld (s.rd pgBase 0x200) 20 16) (fld (s.rd pgBase 0x200) 12 8) (bit (s.rd pgBase 0x200) 0)
  else if rel = 0x218 then (if s.boot.rails then Config.freeWord s.free 1 &&& 0xFFFFFF else 0)
  else s.rd pgBase rel

/-- `SRC_STATUS` of a source (R256). -/
def State.srcStatus (s : State) (n : Nat) : W32 :=
  let r := s.source n
  if n < 108 then
    packed [(r.st.code, 28), (if r.st = .replaced || r.st = .spareInUse then r.partner % 128 else 0, 20), (int16 r.margin, 0)]
  else 0

/-- `ELn_STATUS` (R256). -/
def State.elStatus (s : State) (e : Nat) : W32 :=
  let r := s.inlet e
  packed [(r.st.code, 30), (if r.st = .inUse then r.subst % 128 else 0, 16), (int16 r.power, 0)]

/-- The laser page (R255, R256). -/
def State.laserWord (s : State) (i3c : Bool) (rel : Nat) : W32 :=
  if rel = 0x100 then s.sel i3c pgLaser 0x100
  else if rel = 0x104 then s.srcStatus (fld (s.sel i3c pgLaser 0x100) 6 0)
  else if rel = 0x124 then s.elStatus 0
  else if rel = 0x128 then s.elStatus 1
  else s.rd pgLaser rel

/-! ### Ports and fabric -/

/-- A port page (R286, R287). CP_OFFSET is the peer's hub time, a free value, minus this hive's, in ns, once a
training has measured T_RTT (log entry 9). -/
def State.portWord (s : State) (p rel : Nat) : W32 :=
  let r := s.port p
  if rel = 0x104 then packed [(r.st.code, 29), (r.cause.toNat, 24), (r.trains.toNat, 8), (s.substOf p, 0)]
  else if rel = 0x10C then r.seen
  else if rel = 0x110 then packed [(min 0xFFFF (r.trtt - 300), 16), (min 0xFF (r.headroom / 4096), 8)]
  else if rel = 0x114 then (if r.trtt = 0 then 0 else Config.peerClock p s.now - BitVec.ofNat 32 ((s.now - s.clock.epoch) * 1000))
  else s.rd (pgPort p) rel

/-- `RT_DATA`: the entry and the copy that `RT_SEL` selects (R278, R287). -/
def State.rtData (s : State) : W32 :=
  let x := s.rd pgFab 0x110
  let i := fld x 11 0
  if bit x 16 then (if i < 16 then Tab.get 0 (if bit x 17 then s.fab.colAct else s.fab.colSh) i else 0)
  else (Tab.get 0 (if bit x 17 then s.fab.hiveAct else s.fab.hiveSh) i).setWidth 32

/-- The fabric page (R286, R287, R302). -/
def State.fabWord (s : State) (rel : Nat) : W32 :=
  if rel = 0x114 then s.rtData
  else if rel = 0x11C then packed [(b2n s.fab.held, 31), (b2n s.rtDrained, 30), (b2n s.fab.refused, 29)]
  else if rel = 0x150 then Tab.get 0 s.fab.sched (fld (s.rd pgFab 0x14C) 9 0)
  else s.rd pgFab rel

/-! ### Power, security, life log -/

/-- `THERM_DATA` of a sensor (R374). -/
def State.thermData (s : State) (x : Nat) : W32 :=
  let r := s.sensor x
  if x < 404 then
    packed [(b2n r.suspect, 30), (s.level (sensorDom x), 28), (if x < 320 then min 1023 r.model.toNat else 0, 16), (min 1023 r.reading.toNat, 0)]
  else 0

/-- `THERM_SUMMARY` (R374). -/
def State.thermSummary (s : State) : W32 :=
  packed [(((List.range 50).map s.level).foldl max 0, 30), (bitSet 8 fun c => (List.range 3).any fun l => s.level (3 * c + l) = 2, 16),
    (b2n (s.level 33 = 2), 8), (bitSet 8 fun n => s.level (24 + n) = 2, 0)]

/-- The power page (R373, R374). CAPPED is 1 while the power cap paces (R352). -/
def State.powerWord (s : State) (i3c : Bool) (rel : Nat) : W32 :=
  if rel = 0x100 then packed [(s.power.supply.code, 30), (b2n Config.autoRestart, 29), (b2n (s.boot.hub && s.power.capped), 28),
    (min 0xFFFF s.power.vinMain, 0)]
  else if rel = 0x10C then packed [(s.power.vhold.toNat, 16), (holdEnergy s.holdCap s.power.vhold.toNat, 0)]
  else if rel = 0x120 then s.sel i3c pgPower 0x120
  else if rel = 0x124 then s.thermData (fld (s.sel i3c pgPower 0x120) 8 0)
  else if rel = 0x128 then s.thermSummary
  else s.rd pgPower rel

/-- `KEY_RESULT.STATE` of a slot: 0 `KEY_EMPTY`, 1 `KEY_LOADED`, 2 `KEY_IN_USE` (R398, R407). -/
def State.keyState (s : State) (k : Nat) : Nat := if s.keyInUse k then 2 else if Tab.get none s.sec.keys k = none then 0 else 1

/-- The security page (R406, R407). -/
def State.secWord (s : State) (rel : Nat) : W32 :=
  let l := fld (s.rd pgSec 0x2A0) 4 0
  if rel = 0x108 then s.rd pgSec rel ||| packed [(s.keyState s.keySel, 8)]
  else if rel = 0x110 then packed [(b2n s.sec.kek.isSome, 31), (b2n s.sec.sealedKek.isSome, 30)]
  else if rel = 0x1C4 then packed [(s.sec.dbg.code, 30), (s.sec.dbgResult.toNat, 8), (s.sec.scope.toNat, 0)]
  else if 0x1E0 ≤ rel && rel < 0x200 then BitVec.ofNat 32 (s.sec.nonce.toNat / 2 ^ (8 * (rel - 0x1E0)))
  else if rel = 0x2A4 then s.reg (linkKeyAt l)
  else if rel = 0x2A8 then packed [((s.port l).link.code, 30), ((s.port l).authFail.toNat, 0)]
  else s.rd pgSec rel

/-- A flush runs, or is on its way: requested and not yet refused (R425, R460). -/
def State.flushing (s : State) : Bool := s.power.running.any PWrite.isFlush || s.power.writes.any PWrite.isFlush
/-- The life-log page (R425). -/
def State.logWord (s : State) (i3c : Bool) (rel : Nat) : W32 :=
  if rel = 0x100 then s.log.ctrl
  else if rel = 0x104 then packed [(b2n s.flushing, 31), (b2n s.log.pending, 30), (b2n s.log.lost, 29),
    (s.log.refused.toNat, 0)]
  else if rel = 0x108 then s.poh
  else if rel = 0x110 then s.sel i3c pgLog 0x110
  else if rel = 0x114 then s.log.mram.word (fld (s.sel i3c pgLog 0x110) 23 2 * 4)
  else s.rd pgLog rel

/-! ### A word of BAR0 -/

/-- A block-specific register. -/
def State.blockWord (s : State) (i3c : Bool) (p : Page) (rel : Nat) : W32 :=
  match p.kind with
  | .device => s.deviceWord rel
  | .ctx => s.ctxWord rel
  | .mm => s.mmWord rel
  | .pool => s.poolWord rel
  | .coll => s.collWord rel
  | .safe => s.safeWord i3c rel
  | .trace => s.rd pgTrace rel
  | .fnmap => s.fnWord rel
  | .comb => s.combWord p.n rel
  | .sd => s.sdWord p.n rel
  | .base => s.baseWord rel
  | .laser => s.laserWord i3c rel
  | .port => s.portWord p.n rel
  | .fabric => s.fabWord rel
  | .power => s.powerWord i3c rel
  | .sec => s.secWord rel
  | .log => s.logWord i3c rel

/-- The word at a 4-byte aligned offset of a page: the common registers always, the block-specific ones once the page is ready
(R382). -/
def State.pageWord (s : State) (i3c : Bool) (p : Page) (rel : Nat) : W32 :=
  if rel < 0x100 then s.commonWord p rel else if s.pageReady p then s.blockWord i3c p rel else 0

/-- The word at a BAR0 offset of PF0; where no page lies it is reserved and reads 0 (R427). -/
def State.bar0Word (s : State) (i3c : Bool) (off : Nat) : W32 :=
  match pageOf off with
  | some (p, rel) => s.pageWord i3c p rel
  | none => 0

end Sys2Proof.Machine
end

