-- ==== Sys2Proof/Machine/Registers.lean ====
section
/-! DEFINITION. Register writes that reach BAR0, a doorbell page or the I3C register message: every register of every page
goes to the operation that its own row calls, or is stored (R426 to R431, R446); error injection (R431); BAR0 accesses that
R426 refuses, and reads; the I3C address (R443). -/

namespace Sys2Proof.Machine
open Host

/-! ### Error injection (R431, R432) -/

/-- The listed error bits of a block (R432). -/
def PageKind.errBits : PageKind → Nat
  | .device => 2 | .ctx => 12 | .mm => 1 | .comb => 2 | .sd => 1 | .laser => 4 | .port => 1 | .fabric => 1 | .trace => 1 | .log => 1
  | _ => 0

/-- A write of `BLK_ERR_INJECT`: it acts only while INJECT is unlocked (R404). -/
def State.injectErr (s : State) (p : Page) (v : W32) : State :=
  if s.sec.dbg = .unlocked && s.sec.scope.getLsbD 1 then
    (List.range p.kind.errBits).foldl (fun (s : State) b => if bit v b then s.errSet p b else s) s
  else s

/-! ### Operation registers -/

/-- `CTX_CMD` (R15). An undefined code of an operation register completes with `CTX_BAD_CONFIG` (R428). -/
def State.ctxCmd (s : State) (op : Nat) : State :=
  match op with
  | 1 => s.ctxLoad | 2 => s.ctxRead | 3 => s.ctxUpdate | 4 => s.ctxQuiesce | 5 => s.ctxResume | 6 => s.ctxTear
  | _ => s.ctxResult Rs.badConfig
/-- `STR_CMD` (R20). -/
def State.strCmd (s : State) (op : Nat) : State :=
  match op with
  | 1 => s.strOpen | 2 => s.strRead | 3 => s.strClose
  | _ => s.strResult Rs.badConfig
/-- `MM_CMD` (R187). -/
def State.mmCmd (s : State) (op : Nat) : State :=
  match op with
  | 1 => s.inval | 2 => s.kvlSet | 3 => s.kvlRead | 4 => s.poolAdd | 5 => s.dirAssign | 6 => s.dirRelease | 7 => s.retRead
  | 8 => s.ptWrite | 9 => s.ptRead | 10 => s.ptClear
  | _ => s.mmResult Rs.badConfig
/-- `SKR_CMD` (R137). -/
def State.skrCmd (s : State) (op : Nat) : State :=
  match op with
  | 1 => s.skrSet | 2 => s.skrRead | 3 => s.skrClear
  | _ => s.result pgPool 0x108 Rs.badConfig
/-- `GRP_CMD` (R307). -/
def State.grpCmd (s : State) (op : Nat) : State :=
  match op with
  | 1 => s.grpPut | 2 => s.grpGet
  | _ => s.result pgColl 0x108 Rs.badConfig
/-- `KEY_CMD` (R398). -/
def State.keyCmd (s : State) (op : Nat) : State :=
  match op with
  | 1 => s.loadKey | 2 => s.clearKey
  | _ => s.keyResult Rs.badConfig
/-- `REP_CMD` (R223): discarded while a HARD_GO runs. -/
def State.repCmd (s : State) (n op : Nat) : State :=
  match op with
  | 1 => s.hardGo n | 2 => s.repBudget n
  | _ => if s.power.goes n then s else s.result (pgSd n) 0x118 Rs.badConfig
/-- `UC_CTRL` (R386): while an activation runs, only CANCEL acts. -/
def State.ucCmd (s : State) (op : Nat) : State :=
  match op with
  | 1 => s.activate | 2 => s.cancel
  | _ => if s.sec.uc = .idle then s.result pgDevice 0x124 Rs.badConfig else s
/-- `RT_CMD`, which ignores an undefined code (R281, R428). -/
def State.rtCmd (s : State) (op : Nat) : State :=
  match op with
  | 1 => s.holdOn | 2 => s.swapTables | 3 => s.holdOff | 4 => s.copyTables
  | _ => s
/-- `DOM_CMD`, which ignores an undefined code (R303). -/
def State.domCmd (s : State) (op : Nat) : State :=
  match op with
  | 1 => s.domPut | 2 => s.domGet
  | _ => s
/-- `DBG_CTRL`, which ignores an undefined code (R404, R405). -/
def State.dbgCmd (s : State) (op : Nat) : State :=
  match op with
  | 1 => s.challenge | 2 => s.submit | 4 => s.relock
  | _ => s

/-! ### Data registers -/

/-- `RT_DATA`: the selected entry of the shadow copy, under the entry's fields (R278, R287). -/
def State.writeRoute (s : State) (v : W32) : State :=
  let x := s.rd pgFab 0x110
  let i := fld x 11 0
  if bit x 16 then (if i < 16 then s.modFab fun f => { f with colSh := Tab.set 0 f.colSh i (v &&& 0xC003FFFF) } else s)
  else s.modFab fun f => { f with hiveSh := Tab.set 0 f.hiveSh i ((v &&& 0xF8).setWidth 8) }
/-- `SCHED_DATA` (R287). -/
def State.writeSched (s : State) (v : W32) : State :=
  s.modFab fun f => { f with sched := Tab.set 0 f.sched (fld (s.rd pgFab 0x14C) 9 0) (v &&& 0x8000FFFF) }
/-- `VF_DATA` (R440). -/
def State.writeVf (s : State) (v : W32) : State :=
  let x := fld (s.rd pgFn 0x100) 15 0
  if x < 256 then s else { s with vfMap := Tab.set 0 s.vfMap x (v &&& 0x80000FFF) }
/-- `TR_CTRL` and `TR_VA`: LOG2 and the address change only while EN is 0 (R418). -/
def State.writeTrace (s : State) (rel : Nat) (v : W32) : State :=
  let old := s.rd pgTrace 0x100
  if !bit old 31 then s.storeReg pgTrace rel v
  else if rel = 0x100 then
    let t := s.storeReg pgTrace 0x100 v
    t.wr pgTrace 0x100 (putFld (t.rd pgTrace 0x100) 20 16 (fld old 20 16))
  else if rel = 0x104 || rel = 0x108 then s
  else s.storeReg pgTrace rel v
/-- `LINK_CFG` of the selected port: ENC changes only while the port is not enabled (R401), ROTATE takes the nearest value in
its range. -/
def State.writeLink (s : State) (v : W32) : State :=
  let l := fld (s.rd pgSec 0x2A0) 4 0
  let old := s.reg (linkKeyAt l)
  let enc := if s.cpEn l then fld old 31 31 else fld v 31 31
  s.setReg (linkKeyAt l) (packed [(enc, 31), (clampTo 10 3600 (fld v 11 0), 0)])

/-! ### A page's registers -/

/-- The context block. -/
def State.ctxStore (s : State) (rel : Nat) (v : W32) : State :=
  if rel = 0x104 then s.ctxCmd (fld v 3 0)
  else if rel = 0x184 then s.strCmd (fld v 3 0)
  else if rel = 0x280 then s.modCx s.ctxIndex fun r => { r with err := r.err &&& ~~~ v }
  else s.storeReg pgCtx rel v
/-- The scout pool. -/
def State.poolStore (s : State) (rel : Nat) (v : W32) : State :=
  if rel = 0x104 then s.skrCmd (fld v 1 0) else if rel = 0x138 then s.mmClear v else s.storeReg pgPool rel v
/-- The collective block. -/
def State.collStore (s : State) (rel : Nat) (v : W32) : State :=
  if rel = 0x104 then s.grpCmd (fld v 1 0) else if rel = 0x180 then s.nfClear v else s.storeReg pgColl rel v
/-- A store-die page. -/
def State.sdStore (s : State) (n rel : Nat) (v : W32) : State :=
  if rel = 0x110 then s.repCmd n (fld v 1 0)
  else if rel = 0x140 then s.t1500 n false (some v)
  else if rel = 0x144 then s.t1500 n true (some v)
  else s.storeReg (pgSd n) rel v
/-- A port page. -/
def State.portStore (s : State) (p rel : Nat) (v : W32) : State :=
  if rel = 0x100 then s.setCpCfg p v else if rel = 0x108 then s.setPlan p v else s.storeReg (pgPort p) rel v
/-- The fabric page. -/
def State.fabStore (s : State) (rel : Nat) (v : W32) : State :=
  if rel = 0x104 then s.setFabCtrl v
  else if rel = 0x144 then s.setSchedStart v
  else if rel = 0x114 then s.writeRoute v
  else if rel = 0x118 then s.rtCmd (fld v 2 0)
  else if rel = 0x150 then s.writeSched v
  else if rel = 0x17C then s.domCmd (fld v 1 0)
  else s.storeReg pgFab rel v
/-- The security page. -/
def State.secStore (s : State) (rel : Nat) (v : W32) : State :=
  if rel = 0x104 then s.keyCmd (fld v 1 0)
  else if 0x140 ≤ rel && rel < 0x188 then s.modSec fun x => { x with wrap := Tab.set 0 x.wrap ((rel - 0x140) / 4) v }
  else if rel = 0x1C0 then s.dbgCmd (fld v 2 0)
  else if 0x200 ≤ rel && rel < 0x298 then s.modSec fun x => { x with token := Tab.set 0 x.token ((rel - 0x200) / 4) v }
  else if rel = 0x2A4 then s.writeLink v
  else s.storeReg pgSec rel v

/-- A write of a block-specific register. -/
def State.blockStore (s : State) (p : Page) (rel : Nat) (v : W32) : State :=
  match p.kind with
  | .device => if rel = 0x110 then s.writeRst v else if rel = 0x120 then s.ucCmd (fld v 1 0) else s
  | .ctx => s.ctxStore rel v
  | .mm => if rel = 0x100 then s.mmCmd (fld v 3 0) else (s.storeReg pgMm rel v).serveWaiting.bar4Wake
  | .pool => s.poolStore rel v
  | .coll => s.collStore rel v
  | .safe => s.storeReg pgSafe rel v
  | .trace => s.writeTrace rel v
  | .fnmap => if rel = 0x104 then s.writeVf v else s.storeReg pgFn rel v
  | .comb => s.storeReg p rel v
  | .sd => s.sdStore p.n rel v
  | .base => s.storeReg pgBase rel v
  | .laser => if rel = 0x120 then s.writeEl v else s.storeReg pgLaser rel v
  | .port => s.portStore p.n rel v
  | .fabric => s.fabStore rel v
  | .power => if rel = 0x104 then s.writePwr v else s.storeReg pgPower rel v
  | .sec => s.secStore rel v
  | .log => if rel = 0x100 then s.writeLog v else s.storeReg pgLog rel v

/-- A write of a common register (R430); read-only and reserved ones discard it (R427, R429). -/
def State.commonStore (s : State) (p : Page) (rel : Nat) (v : W32) : State :=
  if rel = 0x28 then s.injectErr p v
  else if rel = 0x40 then s.cntSelect p v
  else if rel < 0x34 then s.storeCommon p rel v
  else s

/-- A 4-byte aligned host write of a register of a page: the common registers at any time, the block-specific ones once the
page is ready (R382), neither while the hive is fenced (R325). -/
def State.pageStore (s : State) (p : Page) (rel : Nat) (v : W32) : State :=
  if s.fenced then s
  else if rel < 0x100 then s.commonStore p rel v
  else s.onPage p fun s => s.blockStore p rel v

/-! ### BAR0 accesses (R426, R440) -/

/-- An access that R426 refuses. -/
def badAccess (off size : Nat) : Bool := size ≠ 4 || off % 4 ≠ 0

/-- BAR0 answers a read of the page at an offset: always, but for a fenced hive, which answers those of the device page and of
the safety block (R325). -/
def State.answersAt (s : State) (off : Nat) : Bool :=
  !s.fenced || (match pageOf off with | some (p, _) => p.kind = .device || p.kind = .safe | none => false)

/-- What a function's BAR0 shows: for a VF, a copy of the start of the device page (R440). -/
def State.fnWordAt (s : State) (fn off : Nat) : W32 :=
  if fn = 0 then s.bar0Word false off else if off < 0x110 then s.bar0Word false off else 0

/-- The function has a BAR0 at the offset: PF0 64 MiB, an enabled VF 64 KiB (R438). -/
def State.hasBar0 (s : State) (fn off : Nat) : Bool := fn = 0 || (s.boot.vfs && off < 0x10000)

/-- A BAR0 access of any size and place. A legal read completes with its word; a legal write is the row REGISTER_WRITE. -/
def State.bar0Access (s : State) (fn off size : Nat) (write : Bool) : State :=
  if !s.hasBar0 fn off || !s.answersAt off then (if write then s else s.emit .unsupported)
  else if badAccess off size then
    let s := s.errSet pgDevice 0
    if write then s else s.emit .unsupported
  else if write then s
  else s.draw.emit (.readDone (toBytes 4 (s.fnWordAt fn off).toNat))

/-- A register write (R426 to R429): a VF's BAR0 is read-only (R440). -/
def State.regWrite (s : State) (target : RegTarget) (v : W32) : State :=
  match target with
  | .bar0 fn off =>
    if off.toNat % 4 ≠ 0 then s.bar0Access fn.val off.toNat 4 true
    else if fn.val ≠ 0 then s
    else match pageOf off.toNat with
      | some (p, rel) => s.pageStore p rel v
      | none => s
  | .doorbell fn page off =>
    if off.toNat < 0x20 || off.toNat % 4 ≠ 0 then s.dbAccess fn.val page.val off.toNat 4 true
    else s.onDb fn.val page.val fun c s => s.dbWrite c off.toNat v

/-! ### Management over I3C (R443, R446) -/

/-- A write by register message: the life-log page, with its own copy of `LOG_SEL`, and the I3C copy of `HEALTH_SEL`. -/
def State.i3cWrite (s : State) (off : Nat) (v : W32) : State :=
  if !s.boot.mgmt then s
  else match pageOf off with
  | some (p, rel) =>
    if rel % 4 ≠ 0 then s
    else if p = pgSafe && rel = 0x114 then s.setReg (i3cKey (p.key rel)) (v &&& 0x1FF)
    else if p ≠ pgLog then s
    else if rel = 0x110 then s.setReg (i3cKey (p.key rel)) (v &&& 0xFFFFFC)
    else if rel = 0x40 then s
    else if rel < 0x100 then s.commonStore pgLog rel v
    else s.blockStore pgLog rel v
  | none => s

/-- A register message (R446): a read of any word of BAR0, or a write. -/
def State.regMessage (s : State) (m : RegMessage) : State :=
  match m with
  | .read off => if !s.boot.mgmt then s else s.draw.emit (.i3cData (if off.toNat % 4 = 0 then s.bar0Word true off.toNat else 0))
  | .write off v => s.i3cWrite off.toNat v

/-- The static address of the management endpoint, at which SETDASA reaches it (R443). -/
def i3cStatic : BitVec 7 := 0x48
/-- The address at which a bus master reaches the endpoint: its dynamic address, or the static one while it has none (R443). -/
def State.i3cAddress (s : State) : BitVec 7 := s.sec.i3cAddr.getD i3cStatic
/-- The endpoint takes a dynamic address if it has none: by ENTDAA, or by SETDASA, which reaches it at its static address (R443). -/
def State.takeAddress (s : State) (how : AddrMethod) (a : BitVec 7) : State :=
  let reached := match how with | .setdasa => s.i3cAddress = i3cStatic | .entdaa => true
  if s.boot.mgmt && reached && s.sec.i3cAddr.isNone then s.modSec fun x => { x with i3cAddr := some a } else s

/-! ### The commands -/

/-- REGISTER_WRITE. -/
def execRegisterWrite (target : RegTarget) (value : W32) (s : State) : Host.Outcome State Fault Refusal :=
  .next (let t := s.regWrite target value; t.notify s)
/-- BAR0_BAD_ACCESS. -/
def execBar0BadAccess (fn : Fin 256) (off : BitVec 26) (size : Nat) (write : Bool) (s : State) : Host.Outcome State Fault Refusal :=
  .next (s.bar0Access fn.val off.toNat size write)
/-- BLK_ERR_INJECT: a write of the register of the page at a BAR0 offset. -/
def execBlkErrInject (page : BitVec 26) (value : W32) (s : State) : Host.Outcome State Fault Refusal :=
  .next (match pageOf page.toNat with
    | some (p, _) => s.pageStore p 0x28 value
    | none => s)
/-- DYNAMIC_ADDRESS_ASSIGN. -/
def execDynamicAddressAssign (how : AddrMethod) (addr : BitVec 7) (s : State) : Host.Outcome State Fault Refusal :=
  .next (s.takeAddress how addr)
/-- REGISTER_MESSAGE. -/
def execRegisterMessage (msg : RegMessage) (s : State) : Host.Outcome State Fault Refusal :=
  .next (let t := s.regMessage msg; t.notify s)

end Sys2Proof.Machine
end

