-- ==== Sys2Proof/Machine/Board.lean ====
section
/-! DEFINITION. Board test over IEEE 1149.1 (R453), PCI Express configuration requests (R378, R438), and DMA reads that fail
(R439). -/

namespace Sys2Proof.Machine
open Host

/-! ### Board test (R453) -/

/-- IDCODE: version, part 0xF048, manufacturer 0x3D1, 1. -/
def idcode : W32 := BitVec.ofNat 32 (Config.stepping.toNat % 16 * 2 ^ 28 + 0xF0487A3)

/-- An instruction comes into force. EXTEST and CLAMP hold the VIN_MAIN regulators off: what they powered is lost as at a
main-power reset, at once; a persistent write that runs goes on from the hold-up energy (R357; log entry 98). -/
def State.setJtag (s : State) (j : BitVec 5) : State :=
  let s := s.modBoot fun b => { b with jtag := j }
  if s.boot.boardTest && s.boot.rails then s.resetNow 4 else s

/-- The boundary register drives the lands. -/
def State.drivePins (s : State) (j : BitVec 5) : State := (s.setJtag j).emit (.pins (some s.boot.scan))

/-- SAMPLE/PRELOAD: the lands are shifted out and the boundary register is loaded. -/
def State.sample (s : State) (lands load : BitVec 46) : State :=
  ((s.setJtag jtagSample).emit (.jtag (lands.setWidth 64))).modBoot fun b => { b with scan := load }

/-! ### Configuration requests (R378, R438) -/

/-- What was written to a configuration register. -/
def State.cfgKept (s : State) (fn reg : Nat) : W32 := Tab.get 0 s.boot.cfg (fn * 4096 + reg)
/-- A configuration register with the bits that R438 fixes: the mask of those bits, and their value. The others are left to PCI Express: a
free value of what was written (log entry 21). -/
def State.cfgMix (s : State) (fn reg : Nat) (mask value : W32) : W32 :=
  (Config.cfgWord fn reg (s.cfgKept fn reg) &&& ~~~ mask) ||| (value &&& mask)
/-- Where BAR4 lies: its base, aligned to its size. -/
def State.bar4Base (s : State) : Nat :=
  ((s.cfgKept 0 0x20).toNat + (s.cfgKept 0 0x24).toNat * 2 ^ 32) / s.bar4Size * s.bar4Size

/-- The bits that R438 fixes in a register of PF0 alone: BAR4 (64-bit, prefetchable), and SR-IOV and Resizable BAR at 0x160 and 0x200. -/
def State.cfgPf (s : State) (reg : Nat) : W32 × W32 :=
  if reg = 0x20 then (0xFFFFFFFF, if s.boot.bar4 = 0 then 0 else BitVec.ofNat 32 (s.bar4Base + 12))
  else if reg = 0x24 then (0xFFFFFFFF, if s.boot.bar4 = 0 then 0 else BitVec.ofNat 32 (s.bar4Base / 2 ^ 32))
  else if reg = 0x168 then (1, if s.boot.vfs then 1 else 0)
  else if reg = 0x16C then (0xFFFFFFFF, 0x00FF00FF)
  else if reg = 0x174 then (0xFFFFFFFF, 0x00010001)
  else if reg = 0x178 then (0xFFFF0000, 0x0F490000)
  else if reg = 0x204 then (0xFFFFFFF0, 0x01FFC000)
  else if reg = 0x208 then (0x00003FE7, BitVec.ofNat 32 (s.boot.bar4 * 256 + 0x24))
  else (0, 0)
/-- The bits that R438 fixes in a register of a function: its identity, its largest payload and its Function Level Reset, its completion
timeout ranges and 10-bit tags, and the size of its MSI-X table with its function mask. -/
def State.cfgFixed (s : State) (fn reg : Nat) : W32 × W32 :=
  if reg = 0 then (0xFFFFFFFF, if fn = 0 then 0x0F481F3A else 0x0F491F3A)
  else if reg = 8 then (0xFFFFFFFF, 0x12000000 ||| (devRev &&& 0xFF))
  else if reg = 0x74 then (0x10000007, 0x10000002)
  else if reg = 0x94 then (0x0003000F, 0x00030003)
  else if reg = 0xB0 then (0x47FF00FF, (if fn = 0 then 0x07FF0011 else 0x000F0011) ||| (if s.boot.msixMask.contains fn then 0x40000000 else 0))
  else if fn = 0 then s.cfgPf reg else (0, 0)
/-- The configuration register at an offset of a function. -/
def State.cfgRead (s : State) (fn reg : Nat) : W32 := s.cfgMix fn reg (s.cfgFixed fn reg).1 (s.cfgFixed fn reg).2

/-- The MSI-X vectors of a function are masked, or unmasked: what is pending then leaves, in order (R441). -/
def State.maskMsix (s : State) (fn : Nat) (on : Bool) : State :=
  if on then s.modBoot fun b => { b with msixMask := b.msixMask.filter (fun f => f ≠ fn) ++ [fn] }
  else
    let mine := s.msixPend.filter fun p => p.1 = fn
    let u : State := { s with msixPend := s.msixPend.filter fun p => p.1 ≠ fn }
    mine.foldl (fun (s : State) p => s.emit (.msix p.1 p.2)) (u.modBoot fun b =>
      { b with msixMask := b.msixMask.filter fun f => f ≠ fn })
/-- The size of BAR4: 0 disables it, 10 to 20 are 1 GiB to 1 TiB; another code changes nothing (log entry 21). -/
def State.sizeBar4 (s : State) (n : Nat) : State :=
  if n = 0 || (10 ≤ n && n ≤ 20) then s.modBoot fun b => { b with bar4 := n } else s

/-- A configuration write; VF Enable of PF0's SR-IOV capability enables or disables every VF, its Resizable BAR control sets the size of
BAR4, and the function mask of MSI-X masks a function's vectors (log entry 21). -/
def State.cfgWrite (s : State) (fn reg : Nat) (v : W32) : State :=
  let s := s.modBoot fun b => { b with cfg := Tab.set 0 b.cfg (fn * 4096 + reg) v }
  if reg = 0xB0 then s.maskMsix fn (bit v 30)
  else if fn = 0 && reg = 0x168 then s.modBoot fun b => { b with vfs := bit v 0 }
  else if fn = 0 && reg = 0x208 then s.sizeBar4 (fld v 13 8)
  else s

/-- A configuration request: HP0 answers with Retry Status from link-up until step 3a is done, and none while its link is
down; a VF exists while it is enabled. -/
def State.cfgRequest (s : State) (fn : Nat) (req : CfgReq) : State :=
  if !s.boot.hp0 then s
  else if !s.boot.hub then s.emit .cfgRetry
  else if fn ≠ 0 && !s.boot.vfs then s.emit .unsupported
  else match req with
  | .read reg => s.emit (.cfgDone (s.cfgRead fn reg.toNat))
  | .write reg v => (s.cfgWrite fn reg.toNat v).emit (.cfgDone 0)

/-! ### DMA reads that fail (R439) -/

/-- A command reads host memory: a COPY with a source in SPACE 4. -/
def readsHost (w : List W32) : Bool := opcodeOf w = 0x20 && ((slot w 1).space = 4 || (slot w 2).space = 4)

/-- A DMA read that a command issued ends in an error or times out: a running command that reads host memory completes with
`CMD_PAGE_FAULT`, DETAIL 0, and so does one whose descriptor came from host memory and has not started (log entry 67). A completion after its
timeout is discarded and logged by AER. -/
def State.dmaFailed (s : State) (id : Option CmdId) : State :=
  match id with
  | none => s.emit .aer
  | some i => match s.run? i with
    | some r => if r.res.isNone && readsHost r.words then s.cutRun i St.pageFault 0 else s
    | none => s.fetchFailed i

/-! ### The commands -/

/-- BYPASS. -/
def execBypass (s : State) : Host.Outcome State Fault Refusal := .next (s.setJtag jtagBypass)
/-- IDCODE. -/
def execIdcode (s : State) : Host.Outcome State Fault Refusal := .next ((s.setJtag jtagId).emit (.jtag (idcode.setWidth 64)))
/-- SAMPLE/PRELOAD. -/
def execSamplePreload (lands load : BitVec 46) (s : State) : Host.Outcome State Fault Refusal := .next (s.sample lands load)
/-- EXTEST. -/
def execExtest (s : State) : Host.Outcome State Fault Refusal := .next (let t := s.drivePins jtagExtest; t.notify s)
/-- CLAMP. -/
def execClamp (s : State) : Host.Outcome State Fault Refusal := .next (let t := s.drivePins jtagClamp; t.notify s)
/-- HIGHZ. -/
def execHighz (s : State) : Host.Outcome State Fault Refusal := .next ((s.setJtag jtagHighz).emit (.pins none))
/-- CONFIGURATION_REQUEST. -/
def execConfigurationRequest (fn : Fin 256) (req : CfgReq) (s : State) : Host.Outcome State Fault Refusal := .next (s.cfgRequest fn.val req)
/-- COMPLETION_TIMEOUT. -/
def execCompletionTimeout (id : Option CmdId) (s : State) : Host.Outcome State Fault Refusal := .next (s.dmaFailed id)

end Sys2Proof.Machine
end

