-- ==== Sys2Proof/Machine/Dispatch.lean ====
section
/-! DEFINITION. One arm per command: a direct call of its meaning. -/

namespace Sys2Proof.Machine
open Host

def exec (i : Instr) (s : State) : Host.Outcome State Fault Refusal :=
  match i with
  | .ctxLoad => Sys2Proof.Machine.execCtxLoad s
  | .ctxRead => Sys2Proof.Machine.execCtxRead s
  | .ctxUpdate => Sys2Proof.Machine.execCtxUpdate s
  | .quiesce => Sys2Proof.Machine.execQuiesce s
  | .quiesceDone ctx => Sys2Proof.Machine.execQuiesceDone ctx s
  | .resume => Sys2Proof.Machine.execResume s
  | .teardown => Sys2Proof.Machine.execTeardown s
  | .teardownQueuesDisabled ctx => Sys2Proof.Machine.execTeardownQueuesDisabled ctx s
  | .zeroingDone ctx => Sys2Proof.Machine.execZeroingDone ctx s
  | .streamOpen => Sys2Proof.Machine.execStreamOpen s
  | .streamRead => Sys2Proof.Machine.execStreamRead s
  | .streamClose => Sys2Proof.Machine.execStreamClose s
  | .doorbell fn page q value => Sys2Proof.Machine.execDoorbell fn page q value s
  | .doorbellPageBadAccess fn page off size write => Sys2Proof.Machine.execDoorbellPageBadAccess fn page off size write s
  | .evtValueWrite fn page value => Sys2Proof.Machine.execEvtValueWrite fn page value s
  | .evtAddWrite fn page value => Sys2Proof.Machine.execEvtAddWrite fn page value s
  | .queueEnable fn page q value => Sys2Proof.Machine.execQueueEnable fn page q value s
  | .queueDisable fn page q value => Sys2Proof.Machine.execQueueDisable fn page q value s
  | .queueDrained ctx q => Sys2Proof.Machine.execQueueDrained ctx q s
  | .restart fn page q => Sys2Proof.Machine.execRestart fn page q s
  | .descriptorFetch ctx q => Sys2Proof.Machine.execDescriptorFetch ctx q s
  | .schedulerPick cell => Sys2Proof.Machine.execSchedulerPick cell s
  | .commandStart ctx q => Sys2Proof.Machine.execCommandStart ctx q s
  | .spill cell ctx => Sys2Proof.Machine.execSpill cell ctx s
  | .refill cell ctx => Sys2Proof.Machine.execRefill cell ctx s
  | .spadNoFitTimeout ctx q => Sys2Proof.Machine.execSpadNoFitTimeout ctx q s
  | .watchdogTimeout id => Sys2Proof.Machine.execWatchdogTimeout id s
  | .commandCompletion id secondary hostOk => Sys2Proof.Machine.execCommandCompletion id secondary hostOk s
  | .matmul id => Sys2Proof.Machine.execMatmul id s
  | .matmulMicroOp id => Sys2Proof.Machine.execMatmulMicroOp id s
  | .tileDrain id => Sys2Proof.Machine.execTileDrain id s
  | .vstream id => Sys2Proof.Machine.execVstream id s
  | .vchain id => Sys2Proof.Machine.execVchain id s
  | .move id => Sys2Proof.Machine.execMove id s
  | .atomic id => Sys2Proof.Machine.execAtomic id s
  | .kvWrite id => Sys2Proof.Machine.execKvWrite id s
  | .route id => Sys2Proof.Machine.execRoute id s
  | .combine id => Sys2Proof.Machine.execCombine id s
  | .scout id unit => Sys2Proof.Machine.execScout id unit s
  | .scoutLockLoss unit => Sys2Proof.Machine.execScoutLockLoss unit s
  | .scoutRelockTimeout unit => Sys2Proof.Machine.execScoutRelockTimeout unit s
  | .scoutReadyTimeout id sd => Sys2Proof.Machine.execScoutReadyTimeout id sd s
  | .gatherKv id => Sys2Proof.Machine.execGatherKv id s
  | .collective id => Sys2Proof.Machine.execCollective id s
  | .fence id => Sys2Proof.Machine.execFence id s
  | .fenceDrainTimeout id => Sys2Proof.Machine.execFenceDrainTimeout id s
  | .eventSignal id => Sys2Proof.Machine.execEventSignal id s
  | .eventWait id => Sys2Proof.Machine.execEventWait id s
  | .eventWaitTimeout id => Sys2Proof.Machine.execEventWaitTimeout id s
  | .timestamp id => Sys2Proof.Machine.execTimestamp id s
  | .specBegin id => Sys2Proof.Machine.execSpecBegin id s
  | .specCommit id => Sys2Proof.Machine.execSpecCommit id s
  | .specAbort id => Sys2Proof.Machine.execSpecAbort id s
  | .stepBegin id => Sys2Proof.Machine.execStepBegin id s
  | .stepCommit id => Sys2Proof.Machine.execStepCommit id s
  | .skrSet => Sys2Proof.Machine.execSkrSet s
  | .skrRead => Sys2Proof.Machine.execSkrRead s
  | .skrClear => Sys2Proof.Machine.execSkrClear s
  | .poolMmClear value => Sys2Proof.Machine.execPoolMmClear value s
  | .scoutCalibration unit => Sys2Proof.Machine.execScoutCalibration unit s
  | .calibrationDone unit gain offset weight tones => Sys2Proof.Machine.execCalibrationDone unit gain offset weight tones s
  | .inval => Sys2Proof.Machine.execInval s
  | .kvlSet => Sys2Proof.Machine.execKvlSet s
  | .kvlRead => Sys2Proof.Machine.execKvlRead s
  | .poolAdd => Sys2Proof.Machine.execPoolAdd s
  | .dirAssign => Sys2Proof.Machine.execDirAssign s
  | .dirRelease => Sys2Proof.Machine.execDirRelease s
  | .retRead => Sys2Proof.Machine.execRetRead s
  | .ptWrite => Sys2Proof.Machine.execPtWrite s
  | .ptRead => Sys2Proof.Machine.execPtRead s
  | .ptClear => Sys2Proof.Machine.execPtClear s
  | .bar4Read off len => Sys2Proof.Machine.execBar4Read off len s
  | .bar4Write off data => Sys2Proof.Machine.execBar4Write off data s
  | .patrolScrub word fault spare => Sys2Proof.Machine.execPatrolScrub word fault spare s
  | .spadScrub cell word fault => Sys2Proof.Machine.execSpadScrub cell word fault s
  | .cacheScrub slice word fault => Sys2Proof.Machine.execCacheScrub slice word fault s
  | .kvPageMigrate stream ppn => Sys2Proof.Machine.execKvPageMigrate stream ppn s
  | .hardGo sd => Sys2Proof.Machine.execHardGo sd s
  | .budget sd => Sys2Proof.Machine.execBudget sd s
  | .t1500Access sd data write => Sys2Proof.Machine.execT1500Access sd data write s
  | .regulatorCycle stack waiting slot => Sys2Proof.Machine.execRegulatorCycle stack waiting slot s
  | .viaFailure bundle => Sys2Proof.Machine.execViaFailure bundle s
  | .queueReport bytes => Sys2Proof.Machine.execQueueReport bytes s
  | .dropFilterRetune dp bundle => Sys2Proof.Machine.execDropFilterRetune dp bundle s
  | .dieFlitReceive dp bundle flit => Sys2Proof.Machine.execDieFlitReceive dp bundle flit s
  | .dieFlitRetry dp bundle => Sys2Proof.Machine.execDieFlitRetry dp bundle s
  | .dieAckTimeout dp bundle => Sys2Proof.Machine.execDieAckTimeout dp bundle s
  | .bundleRetrain dp txb peer rxb failTx failRx => Sys2Proof.Machine.execBundleRetrain dp txb peer rxb failTx failRx s
  | .laneLossOfLight dp bundle lane => Sys2Proof.Machine.execLaneLossOfLight dp bundle lane s
  | .ringRelockTimeout ring => Sys2Proof.Machine.execRingRelockTimeout ring s
  | .widthDisputed dp tx rx => Sys2Proof.Machine.execWidthDisputed dp tx rx s
  | .ringWrongLock ring tone => Sys2Proof.Machine.execRingWrongLock ring tone s
  | .ringLockLoss ring => Sys2Proof.Machine.execRingLockLoss ring s
  | .slewSample power => Sys2Proof.Machine.execSlewSample power s
  | .laserMonitor src margin => Sys2Proof.Machine.execLaserMonitor src margin s
  | .armingClear src => Sys2Proof.Machine.execArmingClear src s
  | .spareWarmDone spare => Sys2Proof.Machine.execSpareWarmDone spare s
  | .spareSwitch src => Sys2Proof.Machine.execSpareSwitch src s
  | .sourceAbruptFail src => Sys2Proof.Machine.execSourceAbruptFail src s
  | .inletCheck el light => Sys2Proof.Machine.execInletCheck el light s
  | .chaverFlitReceive port flit fecOk fec => Sys2Proof.Machine.execChaverFlitReceive port flit fecOk fec s
  | .linkAckTimeout port => Sys2Proof.Machine.execLinkAckTimeout port s
  | .linkTimeout port => Sys2Proof.Machine.execLinkTimeout port s
  | .trainingRetry port => Sys2Proof.Machine.execTrainingRetry port s
  | .portTraining port locked trtt => Sys2Proof.Machine.execPortTraining port locked trtt s
  | .identitySend port => Sys2Proof.Machine.execIdentitySend port s
  | .identityFlit port hive peerPort peerPlan => Sys2Proof.Machine.execIdentityFlit port hive peerPort peerPlan s
  | .noPeerTimeout port => Sys2Proof.Machine.execNoPeerTimeout port s
  | .cpPlanWrite port value => Sys2Proof.Machine.execCpPlanWrite port value s
  | .takeoverRequest port failed => Sys2Proof.Machine.execTakeoverRequest port failed s
  | .takeoverRequestRepeat failed => Sys2Proof.Machine.execTakeoverRequestRepeat failed s
  | .takeoverBufferDrained failed => Sys2Proof.Machine.execTakeoverBufferDrained failed s
  | .takeoverReply failed lseq => Sys2Proof.Machine.execTakeoverReply failed lseq s
  | .joinMarker port returned => Sys2Proof.Machine.execJoinMarker port returned s
  | .joinReply returned => Sys2Proof.Machine.execJoinReply returned s
  | .handoverTimeout port => Sys2Proof.Machine.execHandoverTimeout port s
  | .cpCfgWrite port value => Sys2Proof.Machine.execCpCfgWrite port value s
  | .retrain port value => Sys2Proof.Machine.execRetrain port value s
  | .rtHold => Sys2Proof.Machine.execRtHold s
  | .rtDrained => Sys2Proof.Machine.execRtDrained s
  | .rtSwap => Sys2Proof.Machine.execRtSwap s
  | .rtRelease => Sys2Proof.Machine.execRtRelease s
  | .rtCopy => Sys2Proof.Machine.execRtCopy s
  | .congestionUpdate => Sys2Proof.Machine.execCongestionUpdate s
  | .schedSlotStart slot => Sys2Proof.Machine.execSchedSlotStart slot s
  | .mfmSend tag => Sys2Proof.Machine.execMfmSend tag s
  | .mfmRequest src payload => Sys2Proof.Machine.execMfmRequest src payload s
  | .mfmResponse src payload => Sys2Proof.Machine.execMfmResponse src payload s
  | .mfmRetry tag => Sys2Proof.Machine.execMfmRetry tag s
  | .mfmTimeout tag => Sys2Proof.Machine.execMfmTimeout tag s
  | .atomicStartDelay => Sys2Proof.Machine.execAtomicStartDelay s
  | .domWrite => Sys2Proof.Machine.execDomWrite s
  | .domRead => Sys2Proof.Machine.execDomRead s
  | .grpWrite => Sys2Proof.Machine.execGrpWrite s
  | .grpRead => Sys2Proof.Machine.execGrpRead s
  | .grant src payload => Sys2Proof.Machine.execGrant src payload s
  | .partialChunk src payload => Sys2Proof.Machine.execPartialChunk src payload s
  | .finalChunk src payload => Sys2Proof.Machine.execFinalChunk src payload s
  | .token src payload => Sys2Proof.Machine.execToken src payload s
  | .abort src payload => Sys2Proof.Machine.execAbort src payload s
  | .memberTimeout group => Sys2Proof.Machine.execMemberTimeout group s
  | .nfRecClear value => Sys2Proof.Machine.execNfRecClear value s
  | .lockstepMismatch => Sys2Proof.Machine.execLockstepMismatch s
  | .heartbeatLoss => Sys2Proof.Machine.execHeartbeatLoss s
  | .hubTableEcc => Sys2Proof.Machine.execHubTableEcc s
  | .refclkLoss => Sys2Proof.Machine.execRefclkLoss s
  | .islandClockLoss island => Sys2Proof.Machine.execIslandClockLoss island s
  | .islandRelock island => Sys2Proof.Machine.execIslandRelock island s
  | .twinPairRebuild a b testA testB => Sys2Proof.Machine.execTwinPairRebuild a b testA testB s
  | .spareTakeoverDone comb => Sys2Proof.Machine.execSpareTakeoverDone comb s
  | .reservePairReplace pair cell => Sys2Proof.Machine.execReservePairReplace pair cell s
  | .healthScore heat => Sys2Proof.Machine.execHealthScore heat s
  | .probationSignalDeferred unit => Sys2Proof.Machine.execProbationSignalDeferred unit s
  | .probationExit unit => Sys2Proof.Machine.execProbationExit unit s
  | .vinMainWarning mv => Sys2Proof.Machine.execVinMainWarning mv s
  | .vinMainRecover mv => Sys2Proof.Machine.execVinMainRecover mv s
  | .pwrOkTimer => Sys2Proof.Machine.execPwrOkTimer s
  | .limitSuspendExpire id => Sys2Proof.Machine.execLimitSuspendExpire id s
  | .brownout mv => Sys2Proof.Machine.execBrownout mv s
  | .vinMainRestore mv => Sys2Proof.Machine.execVinMainRestore mv s
  | .vinAuxReset mv => Sys2Proof.Machine.execVinAuxReset mv s
  | .overVoltage mv => Sys2Proof.Machine.execOverVoltage mv s
  | .pwrGoodLow => Sys2Proof.Machine.execPwrGoodLow s
  | .holdupCheck vhold => Sys2Proof.Machine.execHoldupCheck vhold s
  | .persistentWriteStart vhold => Sys2Proof.Machine.execPersistentWriteStart vhold s
  | .persistentWriteDone => Sys2Proof.Machine.execPersistentWriteDone s
  | .thermalLevel dom => Sys2Proof.Machine.execThermalLevel dom s
  | .clockStep comb => Sys2Proof.Machine.execClockStep comb s
  | .thermalTrip sensor reading => Sys2Proof.Machine.execThermalTrip sensor reading s
  | .autoRestart => Sys2Proof.Machine.execAutoRestart s
  | .sensorCrossCheck readings power => Sys2Proof.Machine.execSensorCrossCheck readings power s
  | .sensorSuspect sensor => Sys2Proof.Machine.execSensorSuspect sensor s
  | .sensorRecover sensor => Sys2Proof.Machine.execSensorRecover sensor s
  | .cellClkWrite value => Sys2Proof.Machine.execCellClkWrite value s
  | .resetAssert pin => Sys2Proof.Machine.execResetAssert pin s
  | .resetRelease pin => Sys2Proof.Machine.execResetRelease pin s
  | .mgmtBoot => Sys2Proof.Machine.execMgmtBoot s
  | .regulatorUp => Sys2Proof.Machine.execRegulatorUp s
  | .hubStart selfTest => Sys2Proof.Machine.execHubStart selfTest s
  | .hostLinkTrain up => Sys2Proof.Machine.execHostLinkTrain up s
  | .sourceLight src lit => Sys2Proof.Machine.execSourceLight src lit s
  | .diePortTrain dp tx rx => Sys2Proof.Machine.execDiePortTrain dp tx rx s
  | .storeDieReady sd stack0 stack1 => Sys2Proof.Machine.execStoreDieReady sd stack0 stack1 s
  | .combBist comb test => Sys2Proof.Machine.execCombBist comb test s
  | .lock value => Sys2Proof.Machine.execLock value s
  | .dieGo value => Sys2Proof.Machine.execDieGo value s
  | .dieResetDone => Sys2Proof.Machine.execDieResetDone s
  | .activate => Sys2Proof.Machine.execActivate s
  | .cancel => Sys2Proof.Machine.execCancel s
  | .microcodeSwitch => Sys2Proof.Machine.execMicrocodeSwitch s
  | .functionLevelReset fn => Sys2Proof.Machine.execFunctionLevelReset fn s
  | .pf0Reset linkLost => Sys2Proof.Machine.execPf0Reset linkLost s
  | .keyLoad => Sys2Proof.Machine.execKeyLoad s
  | .keyClear => Sys2Proof.Machine.execKeyClear s
  | .setKek session kek persist => Sys2Proof.Machine.execSetKek session kek persist s
  | .getVersion via => Sys2Proof.Machine.execGetVersion via s
  | .getCapabilities via => Sys2Proof.Machine.execGetCapabilities via s
  | .negotiateAlgorithms via offered => Sys2Proof.Machine.execNegotiateAlgorithms via offered s
  | .getDigests via => Sys2Proof.Machine.execGetDigests via s
  | .getCertificate via slot => Sys2Proof.Machine.execGetCertificate via slot s
  | .challenge via slot nonce => Sys2Proof.Machine.execChallenge via slot nonce s
  | .getMeasurements via index nonce => Sys2Proof.Machine.execGetMeasurements via index nonce s
  | .keyExchange via slot share => Sys2Proof.Machine.execKeyExchange via slot share s
  | .finish session verifyOk => Sys2Proof.Machine.execFinish session verifyOk s
  | .keyUpdate session => Sys2Proof.Machine.execKeyUpdate session s
  | .heartbeat session => Sys2Proof.Machine.execHeartbeat session s
  | .endSession session => Sys2Proof.Machine.execEndSession session s
  | .vendorDefinedRequest via ownerKey => Sys2Proof.Machine.execVendorDefinedRequest via ownerKey s
  | .linkKeyExchange port peer => Sys2Proof.Machine.execLinkKeyExchange port peer s
  | .linkKeyRotate port => Sys2Proof.Machine.execLinkKeyRotate port s
  | .dbgChallenge => Sys2Proof.Machine.execDbgChallenge s
  | .submit => Sys2Proof.Machine.execSubmit s
  | .relock => Sys2Proof.Machine.execRelock s
  | .cntSnap page value => Sys2Proof.Machine.execCntSnap page value s
  | .logFlush => Sys2Proof.Machine.execLogFlush s
  | .flush value => Sys2Proof.Machine.execFlush value s
  | .logEnableWrite value => Sys2Proof.Machine.execLogEnableWrite value s
  | .registerWrite target value => Sys2Proof.Machine.execRegisterWrite target value s
  | .bar0BadAccess fn off size write => Sys2Proof.Machine.execBar0BadAccess fn off size write s
  | .blkErrInject page value => Sys2Proof.Machine.execBlkErrInject page value s
  | .dynamicAddressAssign how addr => Sys2Proof.Machine.execDynamicAddressAssign how addr s
  | .registerMessage msg => Sys2Proof.Machine.execRegisterMessage msg s
  | .updateComponent bankB image => Sys2Proof.Machine.execUpdateComponent bankB image s
  | .activateFirmware => Sys2Proof.Machine.execActivateFirmware s
  | .bypass => Sys2Proof.Machine.execBypass s
  | .idcode => Sys2Proof.Machine.execIdcode s
  | .samplePreload lands load => Sys2Proof.Machine.execSamplePreload lands load s
  | .extest => Sys2Proof.Machine.execExtest s
  | .clamp => Sys2Proof.Machine.execClamp s
  | .highz => Sys2Proof.Machine.execHighz s
  | .ringRelock ring => Sys2Proof.Machine.execRingRelock ring s
  | .portArbitration port => Sys2Proof.Machine.execPortArbitration port s
  | .configurationRequest fn req => Sys2Proof.Machine.execConfigurationRequest fn req s
  | .completionTimeout id => Sys2Proof.Machine.execCompletionTimeout id s
  | .minSvnRaise svn sig => Sys2Proof.Machine.execMinSvnRaise svn sig s
  | .linkKeyExchangeTimeout port => Sys2Proof.Machine.execLinkKeyExchangeTimeout port s
  | .lifeLogAccumulation => Sys2Proof.Machine.execLifeLogAccumulation s

end Sys2Proof.Machine
end

