-- ==== Sys2Proof/Machine/Tick.lean ====
section
/-! DEFINITION. What a step does on an empty queue: one microsecond passes (log entry 1). -/

namespace Sys2Proof.Machine

/-- One microsecond. -/
def tick (s : State) : State := s.elapse 1

end Sys2Proof.Machine
end

