-- ==== Sys2Proof/Safety.lean ====
section
/-! DEFINITION. What counts as a safe run: no command stops the block, and what every step keeps. -/

namespace Sys2Proof.Machine
open Host

/-- Every memory and every table of poisoned words is in canonical form: addresses strictly rising, nothing listed that
reads as an unlisted address does. Equal memories are then equal data. -/
def MemRec.wf (m : MemRec) : Bool :=
  Mem.wf m.hbm && Mem.wf m.spad && Mem.wf m.direct && Mem.wf m.host &&
  Tab.wf false m.hbmPoison && Tab.wf false m.spadPoison && Tab.wf false m.directPoison

/-- The invariant of the memories. -/
def State.memOk (s : State) : Prop := s.mem.wf = true

/-- The keys of a table rise strictly: it has at most one entry for a number. -/
def Tab.rising {α : Type} (t : Tab α) : Bool := decide (t.Pairwise fun a b => a.1 < b.1)

/-- The tables of contexts, streams, queues, event counters, cells, registers, sector keys, grants, injection rates, ports, physical
cells, units, scouts, sensors, die ports, their bundles and the flits not yet covered have at most one entry for a number. -/
def State.tablesOk (s : State) : Prop :=
  Tab.rising s.ctx = true ∧ Tab.rising s.str = true ∧ Tab.rising s.queue = true ∧ Tab.rising s.evt = true ∧
  Tab.rising s.cells = true ∧ Tab.rising s.regs = true ∧ Tab.rising s.mem.secKey = true ∧
  Tab.rising s.base.ledger = true ∧ Tab.rising s.fab.rate = true ∧ Tab.rising s.fab.ports = true ∧ Tab.rising s.phys = true ∧
  Tab.rising s.health = true ∧ Tab.rising s.scouts = true ∧ Tab.rising s.power.sensors = true ∧
  Tab.rising s.base.dp = true ∧ Tab.rising s.base.bundles = true ∧ Tab.rising s.fab.injected = true

/-- The security version below which no microcode image runs has not fallen below `n` (R392). -/
def State.svnAtLeast (n : Nat) (s : State) : Prop := n ≤ s.sec.minSvn

/-- A step goes on. -/
def goesOn (o : Outcome State Fault Refusal) : Prop := ∃ t, o = .next t

end Sys2Proof.Machine
end

