-- ==== Sys2Proof/WellFormed.lean ====
section
/-! DEFINITION. Which commands have the shape the manual gives them. An operand whose type already bounds it (a port, a
cell, a context) needs no check. An ill-formed command is no row of the table: nothing outside the block can send it. -/

namespace Sys2Proof

/-- A flit, of a die port (R230) or of a Chaver port (R261), is 256 bytes. -/
def flitOk (f : List Byte) : Bool := f.length = 256

/-- Bundles of a die port in one direction (R225): 28 of a comb or store die, 4 of the hub's DP16. -/
def bundleOk (dp bundle : Nat) : Bool := dp < 16 || bundle < 4

/-- One lane mask for each bundle of the die port (R234). -/
def masksOk (dp : Nat) (m : List W16) : Bool := m.length = if dp = 16 then 4 else 28

/-- A register access moves 1 to 8 bytes, aligned or not (R47, R426). -/
def accessOk (size : Nat) : Bool := 1 ≤ size && size ≤ 8

/-- A message of the fabric carries its header and at most 256 bytes of data (R290). -/
def payloadOk (header : Nat) (p : List Byte) : Bool := header ≤ p.length && p.length ≤ header + 256

/-- A ring that the package has. -/
def ringOk : Ring → Bool
  | .lane dp _ b _ => bundleOk dp.val b.val
  | .scout _ _ _ => true

/-- The command has the shape the manual gives its row. -/
def Instr.wf : Instr → Bool
  | .doorbellPageBadAccess _ _ _ size _ => accessOk size
  | .bar0BadAccess _ _ size _ => accessOk size
  | .bar4Read _ len => 1 ≤ len && len ≤ 4096
  | .bar4Write _ data => 1 ≤ data.length && data.length ≤ 4096
  | .queueReport bytes => bytes.length = 17 && bytes.all fun r => r.length = 17
  | .dropFilterRetune dp b => bundleOk dp.val b.val
  | .dieFlitReceive dp b f => bundleOk dp.val b.val && flitOk f
  | .dieFlitRetry dp b => bundleOk dp.val b.val
  | .dieAckTimeout dp b => bundleOk dp.val b.val
  | .bundleRetrain dp t peer r _ _ => bundleOk dp.val t.val && bundleOk peer.val r.val
  | .laneLossOfLight dp b _ => bundleOk dp.val b.val
  | .ringRelockTimeout r => ringOk r
  | .ringWrongLock r _ => ringOk r
  | .ringLockLoss r => ringOk r
  | .ringRelock r => ringOk r
  | .widthDisputed dp tx rx => masksOk dp.val tx && masksOk dp.val rx
  | .diePortTrain dp tx rx => masksOk dp.val tx && masksOk dp.val rx
  | .slewSample p => p.length = 8
  | .chaverFlitReceive _ f _ _ => flitOk f
  | .mfmRequest _ p => payloadOk 32 p
  | .mfmResponse _ p => payloadOk 16 p
  | .healthScore heat => heat.all fun x => x.1 < 273
  | .sensorCrossCheck t p => t.length = 404 && p.length = 128
  | .twinPairRebuild a b _ _ => a ≠ b
  | .regulatorCycle _ waiting slot => waiting.length ≤ slot.val
  | .updateComponent _ image => image.content.log2 < 2 ^ 25
  | .combBist _ test => test.degraded.length = 17
  | _ => true

end Sys2Proof
end

