-- ==== Sys2Proof/Certificates/Slice0/Obligations.lean ====
section
/-! DEFINITION. The statements for the provers. A statement about a command says which state it answers: `exec c s = .next t` with
`t` written out, so that whatever `t` does not name is left as it was (the frame), for every state and operands that meet the
conditions named. Registers are written with `State.wr page offset`, one record of a table with `State.setCx`, `State.setStm`,
`State.setQu`, `State.modRun` and their like (Machine/Ops.lean), which change that record and nothing else.

Throughout, and by the model's choice: a command whose condition does not hold leaves the state, and a timer's row brings time to its
end (log entry 3); what leaves the block is a list (log entry 18), and what its endpoint reports has numbers of the model's (log entry 28);
a value that the manual leaves open is free (log entry 4). Which unit a page follows, and that an access to memory that is not served yet
waits (`notYet`), is the model's reading (log entry 19). -/

open Sys2Proof Sys2Proof.Machine

namespace Sys2Proof.Claims

/-- The command completes: `exec` answers a next state of which `P` holds. -/
def completes (c : Instr) (s : State) (P : State → Prop) : Prop := ∃ t, exec c s = .next t ∧ P t

/-- The registers of a page from an offset up, written in order with words. -/
def putWords (s : State) (p : Page) (off : Nat) (ws : List W32) : State :=
  (List.range ws.length).foldl (fun t i => t.wr p (off + 4 * i) (wd ws i)) s

/-- The work of a running command has ended with a status and DETAIL. -/
def ended (t : State) (id : CmdId) (st : Byte) (d : W32) : Prop := ∃ r, t.run? id = some r ∧ r.res = some (st, d)

/-- A command of opcode `op` runs and its work has not ended. -/
def running (s : State) (id : CmdId) (r : Run) (op : Nat) : Prop := s.run? id = some r ∧ r.res = none ∧ opcodeOf r.words = op

/-- A collective message of hive `src` belongs to the running operation `x` of the command `id`, which waits for nothing else. -/
def collHit (s : State) (src : W16) (p : List Byte) (id : CmdId) (r : Run) (x : CollRun) : Prop :=
  let m := parseColl p
  let g := s.grp m.group
  bit (wd g.words 0) 31 = true ∧ fld (wd g.words 0) 23 16 = m.gen ∧ src ∈ s.grpRanks g.words ∧
  (s.runs.find? fun y => y.res.isNone && match y.coll with | some z => z.group = m.group && z.opseq = m.opseq | none => false) = some r ∧
  s.run? id = some r ∧ r.coll = some x ∧ x.begun = true ∧ x.inbox = [] ∧ s.bankWait r = false

/-- The progress of a COLLECTIVE with words `w` as it starts: its group entry, its operation number, and the messages of the operation that
have come already (R312). -/
def startColl (s : State) (w : List W32) : CollRun :=
  let g := s.grp (fld (wd w 29) 7 0)
  { group := fld (wd w 29) 7 0, gen := fld (wd g.words 0) 23 16, opseq := g.opseq,
    rank := ((s.grpRanks g.words).findIdx? fun h => h = BitVec.ofNat 16 s.hive).getD 0, ranks := s.grpRanks g.words, op := collOp w,
    red := collRed w, trap := bit (wd w 29) 25, chunkLog := collChunk w, sh := (wd w 30).toNat,
    root := fld (wd w 31) 11 0, mc := bit (wd g.words 0) 30, credits := 0, granted := [], sentP := [], doneP := [], waitP := [],
    sentF := [], doneF := [], fwdF := [], nf := false, token := none, sentT := false, lastMsg := s.now,
    inbox := g.early.filter fun p => wd (bytesToWords 2 p.2) 1 = g.opseq, begun := false }

/-- The running command's collective after the step. -/
def collNow (t : State) (id : CmdId) (P : CollRun → Prop) : Prop := ∃ r x, t.run? id = some r ∧ r.res = none ∧ r.coll = some x ∧ P x

end Sys2Proof.Claims

open Sys2Proof.Claims

/-! ### Every command -/

/-- The step takes the command at the front of the queue and runs it with the queue's rest. On an empty queue one microsecond passes (the model's choice, log entry 1): the clock moves by one, and nothing but the
clock and the counting banks may change. -/
def Obligations.StepRunsTheFrontCommand : Prop :=
  (∀ (c : Instr) (rest : List Instr) (s : State), s.pending = c :: rest → step s = exec c { s with pending := rest }) ∧
  (∀ s : State, s.pending = [] →
     ∃ t, step s = .next t ∧ t.clock.now = s.clock.now + 1 ∧ t.clock.epoch = s.clock.epoch ∧
       t = { s with clock := t.clock, cntBanks := t.cntBanks })

/-- No command stops the block: the manual gives every one an effect; and none adds to the queue or takes from it, so that the
commands run first in, first out. -/
def Obligations.EveryCommandAnswersAndKeepsTheQueue : Prop :=
  ∀ (c : Instr) (s : State), goesOn (exec c s) ∧ ∀ t, exec c s = .next t → t.pending = s.pending

/-! ### Contexts and streams -/

/-- R462: an operation that breaks several conditions answers the status of the first one, in the order given, and changes
nothing. `e` is the entry that the staged words spell. -/
def Obligations.ContextOperationsRefuseInOrder : Prop :=
  (∀ (s : State) (e : CtxRec), s.pageUse pgCtx = true →
    e = { st := .opened, ent := maskWords ctxMask s.staged, rslab := 1 } →
    let c := s.ctxIndex
    let bad := e.badField || s.sRuleBroken e
    let answers (st : W32) : Prop := exec .ctxLoad s = .next (s.wr pgCtx 0x108 st)
    ((s.cx c).st ≠ .free → answers 0x01) ∧
    ((s.cx c).st = .free → bad = true → answers 0x02) ∧
    ((s.cx c).st = .free → bad = false → (e.isS && !s.boot.locked) = true → answers 0x01) ∧
    ((s.cx c).st = .free → bad = false → (e.isS && !s.boot.locked) = false → s.keyUsed c e.keySlot = true → answers 0x04) ∧
    ((s.cx c).st = .free → bad = false → (e.isS && !s.boot.locked) = false → s.keyUsed c e.keySlot = false →
      Tab.get none s.sec.keys e.keySlot = none → answers 0x0E) ∧
    ((s.cx c).st = .free → bad = false → (e.isS && !s.boot.locked) = false → s.keyUsed c e.keySlot = false →
      Tab.get none s.sec.keys e.keySlot ≠ none → s.pinFails c e = true → answers 0x03)) ∧
  (∀ (s : State) (new : List W32) (e : CtxRec), s.pageUse pgCtx = true → new = maskWords ctxMask s.staged →
    e = { s.cx s.ctxIndex with ent := new } →
    let c := s.ctxIndex
    let r := s.cx c
    let wrong := (List.range 16).any fun i =>
      wd new i &&& wd ctxMask i &&& ~~~ wd updMask i ≠ wd r.ent i &&& wd ctxMask i &&& ~~~ wd updMask i
    let lower := e.banks < r.banks || e.kvPages < r.kvPages || e.streams < r.streams
    let answers (st : W32) : Prop := exec .ctxUpdate s = .next (s.wr pgCtx 0x108 st)
    ((r.st = .free ∨ r.st = .zeroing) → answers 0x01) ∧
    (r.st ≠ .free → r.st ≠ .zeroing → (wrong || e.badField || lower) = true → answers 0x02) ∧
    (r.st ≠ .free → r.st ≠ .zeroing → (wrong || e.badField || lower) = false → e.banks > r.banks → s.pinFails c e = true →
      answers 0x03)) ∧
  (∀ (s : State) (n c : Nat), s.pageUse pgCtx = true → n = s.strIndex → c = fld (s.rd pgCtx 0x1A0) 11 0 →
    let answers (st : W32) : Prop := exec .streamOpen s = .next (s.wr pgCtx 0x188 st)
    ((s.stm n).live = true → answers 0x01) ∧
    ((s.stm n).live = false → (s.cx c).st ≠ .opened → answers 0x06) ∧
    ((s.stm n).live = false → (s.cx c).st = .opened → (s.streamsOf c).length ≥ (s.cx c).streams → answers 0x05))

/-- R15: each context operation, where the context is in a state that it needs: LOAD stores the staged words and the context is
`OPEN` (with NO_CELLS where its mask names only absent cells, R11); READ copies the entry into the words; UPDATE replaces the entry, each
cell where the context is at work keeping the old one until its next boundary (R18); QUIESCE, its end, and RESUME. Nothing else changes.
An operation started in a state that it does not need leaves the context unchanged and returns `CTX_BUSY`. -/
def Obligations.ContextOperationsComplete : Prop :=
  ((∀ (s : State) (e : CtxRec), s.pageUse pgCtx = true →
     e = { st := .opened, ent := maskWords ctxMask s.staged, rslab := 1 } → (s.cx s.ctxIndex).st = .free → e.badField = false →
     s.sRuleBroken e = false → (e.isS = true → s.boot.locked = true) → s.keyUsed s.ctxIndex e.keySlot = false →
     Tab.get none s.sec.keys e.keySlot ≠ none → s.pinFails s.ctxIndex e = false →
     let u := s.setCx s.ctxIndex e
     exec .ctxLoad s = .next ((if (e.mask.any fun i => (s.cell i).phys.isSome) = true then u else u.ctxErr s.ctxIndex 1).wr pgCtx 0x108 0)) ∧
   (∀ (s : State), s.pageUse pgCtx = true →
     exec .ctxRead s = .next ((putWords s pgCtx 0x140 (if (s.cx s.ctxIndex).st = .free then List.replicate 16 0
       else (List.range 16).map fun i => wd (s.cx s.ctxIndex).ent i)).wr pgCtx 0x108 0)) ∧
   (∀ (s : State) (new : List W32), s.pageUse pgCtx = true → new = maskWords ctxMask s.staged →
     s.updateStatus s.ctxIndex new = 0 →
     exec .ctxUpdate s = .next ((s.modCx s.ctxIndex fun r => { r with
       ent := new
       stale := r.stale ++ ((s.busyFor s.ctxIndex).filter fun i => !(r.stale.any fun p => p.1 = i)).map fun i => (i, r.ent) }).wr
         pgCtx 0x108 0)) ∧
   (∀ (s : State), s.pageUse pgCtx = true → (s.cx s.ctxIndex).st = .opened →
     exec .quiesce s = .next (((s.modCx s.ctxIndex fun r => { r with st := .quiescing }).unpick fun id =>
       id.ctx.val = s.ctxIndex).wr pgCtx 0x108 0)) ∧
   (∀ (s : State) (c : Fin 4096), (s.cx c.val).st = .quiescing →
     (s.runsOf c.val = [] → exec (.quiesceDone c) s = .next (s.modCx c.val fun r => { r with st := .quiesced })) ∧
     (s.runsOf c.val ≠ [] → exec (.quiesceDone c) s = .next s)) ∧
   (∀ (s : State), s.pageUse pgCtx = true → ((s.cx s.ctxIndex).st = .quiescing ∨ (s.cx s.ctxIndex).st = .quiesced) →
     exec .resume s = .next ((s.modCx s.ctxIndex fun r => { r with st := .opened, noSpill := [] }).wr pgCtx 0x108 0))) ∧
  (∀ (s : State), s.pageUse pgCtx = true →
     let st := (s.cx s.ctxIndex).st
     let busy (c : Instr) : Prop := exec c s = .next (s.wr pgCtx 0x108 0x01)
     (st ≠ .free → busy .ctxLoad) ∧ ((st = .free ∨ st = .zeroing) → busy .ctxUpdate) ∧ (st ≠ .opened → busy .quiesce) ∧
     (st ≠ .quiescing → st ≠ .quiesced → busy .resume) ∧ ((st = .free ∨ st = .zeroing) → busy .teardown))

/-- R15, R18, R403: TEARDOWN makes the context `ZEROING` at once and ends its commands: hub and store-die commands and those of a B-class
context end with `CTX_TORN_DOWN`, an S- or T-class cell command goes on, and nothing fetched stays. Once no command of it runs, its queues
are disabled with EN = 0, its epochs and streams are gone, and the counters that only it owns are 0 (R59). When the zeroing ends it is
`FREE`, keeps only its `CTX_ERR`, no cell holds its banks, and those that held them read as 0. -/
def Obligations.TeardownCompletes : Prop :=
  (∀ (s : State) (c : Nat), s.tablesOk → s.pageUse pgCtx = true → c = s.ctxIndex → s.mayTear c = true →
    completes .teardown s fun t => (t.cx c).st = .zeroing ∧ (t.cx c).recipe = none ∧ (t.cx c).step.st = .none ∧
      (∀ q < 4, (t.qu c q).fetched = []) ∧ (∀ p ∈ t.cells, ∀ id, p.2.picked = some id → id.ctx.val ≠ c) ∧
      ∀ r ∈ s.runs, r.id.ctx.val = c → r.res = none → (∀ x ∈ s.runs, x.id = r.id → x = r) → ∃ r', t.run? r.id = some r' ∧
        ((isCellOp (opcodeOf r.words) = false ∨ (s.cx c).isB = true) → r.pastStep = false → r'.res = some (St.tornDown, 0)) ∧
        (isCellOp (opcodeOf r.words) = true → (s.cx c).isB = false → r'.res = none)) ∧
  (∀ (s : State) (c : Fin 4096), s.tablesOk → (s.cx c.val).st = .zeroing → (s.cx c.val).drained = false → s.runsOf c.val = [] →
    completes (.teardownQueuesDisabled c) s fun t => (t.cx c.val).drained = true ∧ (t.cx c.val).st = .zeroing ∧
      (∀ q < 4, (t.qu c.val q).st = .disabled ∧ bit (t.qu c.val q).cfg 31 = false ∧ (t.qu c.val q).fetched = []) ∧
      (t.cx c.val).epochs = [] ∧ t.streamsOf c.val = [] ∧
      (∀ k, (s.cx c.val).owns k = true → (∀ p ∈ s.ctx, p.1 ≠ c.val → p.2.st ≠ .free → p.2.owns k = false) → t.ctr k = 0) ∧
      t.runs.map (·.res) = s.runs.map (·.res) ∧ t.cells = s.cells ∧ t.regs = s.regs ∧ t.boot = s.boot ∧ t.sec = s.sec) ∧
  (∀ (s : State) (c : Fin 4096), (s.cx c.val).st = .zeroing → (s.cx c.val).drained = true → s.starved ownPart c.val = false →
    completes (.zeroingDone c) s fun t => t = { s with ctx := t.ctx, cells := t.cells, mem := t.mem, sec := t.sec } ∧
      (s.sec.dataDue = false → t.sec = s.sec) ∧
      t.ctx = Tab.set {} s.ctx c.val { err := (s.cx c.val).err } ∧
      (∀ p ∈ t.cells, (∀ x ∈ p.2.res, x.ctx ≠ c.val) ∧ (∀ x ∈ p.2.spilled, x.1 ≠ c.val) ∧ p.2.cur ≠ some c.val) ∧
      (∀ p ∈ s.cells, ∀ x ∈ p.2.res, x.ctx = c.val → ∀ b ∈ x.map, ∀ off < 2 ^ 18, t.mem.spad.get (spadIdx p.1 b off) = 0) ∧
      t.mem.host = s.mem.host) ∧
  (∀ (s : State) (c : Fin 4096), (s.cx c.val).st ≠ .zeroing ∨ (s.cx c.val).drained = true → exec (.teardownQueuesDisabled c) s = .next s)

/-- R20: OPEN takes CTX, DEADLINE_OFF, FRAME_PERIOD and FRAME_START from the staged words and zeroes the rest; READ copies the
entry; CLOSE returns the pages of the stream's chain to the owning context's free list, zeroed (a retired page to no list, R220), and the
stream is `FREE`; a CLOSE of a stream that is not `LIVE`, has a command in flight or an open epoch returns `CTX_BUSY`. -/
def Obligations.StreamOperationsComplete : Prop :=
  (∀ (s : State) (c : Nat), s.pageUse pgCtx = true → c = fld (s.rd pgCtx 0x1A0) 11 0 → (s.stm s.strIndex).live = false →
    (s.cx c).st = .opened → (s.streamsOf c).length < (s.cx c).streams →
    exec .streamOpen s = .next ((s.setStm s.strIndex
      { live := true, ctx := c, seqPos := 0, kvHead := 0, kvHas := false
        deadline := BitVec.ofNat 16 (fld (s.rd pgCtx 0x1AC) 31 16), period := BitVec.ofNat 16 (fld (s.rd pgCtx 0x1AC) 15 0)
        start := s.rd pgCtx 0x1B0, specOpen := 0, lastAct := 0, miss := 0 }).wr pgCtx 0x188 0)) ∧
  (∀ (s : State) (m : StreamRec), s.pageUse pgCtx = true → m = s.stm s.strIndex →
    exec .streamRead s = .next ((putWords s pgCtx 0x1A0 [BitVec.ofNat 32 (b2n m.live * 2 ^ 31 + m.ctx), m.seqPos, m.kvHead.setWidth 32,
      BitVec.ofNat 32 (m.deadline.toNat * 2 ^ 16 + m.period.toNat), m.start, m.specOpen.setWidth 32, m.lastAct,
      m.miss.setWidth 32]).wr pgCtx 0x188 0)) ∧
  (∀ (s : State) (n c : Nat), s.tablesOk → s.memOk → s.pageUse pgCtx = true → n = s.strIndex → c = (s.stm n).ctx →
    let busy := (s.stm n).live = false ∨ (∃ r ∈ s.runs, r.stream = some n) ∨ (s.stm n).specOpen ≠ 0
    (busy → exec .streamClose s = .next (s.wr pgCtx 0x188 0x01)) ∧
    (¬ busy → completes .streamClose s fun t => t = { s with str := t.str, ctx := t.ctx, mem := t.mem, regs := t.regs } ∧
      t.stm n = {} ∧ (∀ k, k ≠ n → t.stm k = s.stm k) ∧ t.regs = (s.wr pgCtx 0x188 0).regs ∧
      (∀ k, k ≠ c → t.cx k = s.cx k) ∧
      (t.cx c).kvFree = (s.cx c).kvFree ++ (s.chainPages n).filter (fun p => !s.mem.isRetired p) ∧
      (t.cx c).st = (s.cx c).st ∧ (t.cx c).kvUsed = (s.cx c).kvUsed - (s.chainPages n).length ∧
      (∀ p ∈ s.chainPages n, ∀ off < 65536, t.mem.hbm.get (p * 65536 + off) = 0) ∧
      (∀ a, a / 65536 ∉ s.chainPages n → t.mem.hbm.get a = s.mem.hbm.get a) ∧
      t.mem.spad = s.mem.spad ∧ t.mem.direct = s.mem.direct ∧ t.mem.host = s.mem.host)) ∧
  (∀ (s : State) (c : Instr), s.pageUse pgCtx = false →
    c ∈ [Instr.streamOpen, .streamRead, .streamClose, .ctxLoad, .ctxRead, .ctxUpdate, .quiesce, .resume, .teardown] → exec c s = .next s)

/-! ### Queues, doorbells, event counters -/

/-- R53: *d* = TAIL − `Qq_TAIL` modulo 2^32. A doorbell with *d* = 0 or *d* ≥ 2^31 is ignored; one with TAIL − `Qq_CQ_HEAD` above
the ring's size is discarded and sets DOORBELL_DROP; otherwise `Qq_TAIL` takes TAIL, and the doorbell's descriptors belong to
the stream it names. The premises say that the doorbell reaches an open queue (R17, R52, R384). The deadline is that of R22: 20 ms, or the
stream's offset from FRAME_START, which a periodic stream brings to the frame of now. -/
def Obligations.DoorbellMovesTheTail : Prop :=
  ∀ (s : State) (fn : Fin 256) (page : Fin 4096) (q : Fin 4) (value : W64) (c : Nat),
    s.dbCtx fn.val page.val = some c → s.dbOpen = true → value.toNat / 2 ^ 47 = 0 → s.service = true → s.hasQueue c q.val = true →
    (s.cx c).st = .opened → (s.qu c q.val).st ≠ .disabled → (s.qu c q.val).st ≠ .draining →
    let r := s.qu c q.val
    let tail : W32 := value.setWidth 32
    let d := sub32 tail r.tail
    let named := if (s.cx c).isB then none else if value.getLsbD 46 then some (value.toNat / 2 ^ 32 % 2 ^ 14) else none
    let live := ∀ n, named = some n → (s.stm n).live = true ∧ (s.stm n).ctx = c
    ((d = 0 ∨ d ≥ 2 ^ 31) → exec (.doorbell fn page q value) s = .next s) ∧
    (d ≠ 0 → d < 2 ^ 31 → sub32 tail r.cqHead > 2 ^ fld r.cfg 4 0 → exec (.doorbell fn page q value) s = .next (s.ctxErr c 0)) ∧
    (d ≠ 0 → d < 2 ^ 31 → sub32 tail r.cqHead ≤ 2 ^ fld r.cfg 4 0 → ¬ live →
      exec (.doorbell fn page q value) s = .next (s.ctxErr c 0)) ∧
    (d ≠ 0 → d < 2 ^ 31 → sub32 tail r.cqHead ≤ 2 ^ fld r.cfg 4 0 → live →
      completes (.doorbell fn page q value) s fun t => t = { s with str := t.str, queue := t.queue } ∧
        (named = none → t.str = s.str ∧ t.queue = Tab.set {} s.queue (qKey c q.val) { r with
          tail := tail, rel := r.rel ++ [⟨tail, none, if (s.cx c).isB then none else some (s.hubTime + 20000), s.now⟩] }) ∧
        ∀ n, named = some n →
          let m := s.stm n
          let gone := sub32 s.hubTime m.start
          let per := m.period.toNat * 10
          let start := if m.period = 0 ∨ gone ≥ 2 ^ 31 then m.start else m.start + BitVec.ofNat 32 (gone / per * per)
          let due := (if m.period = 0 then s.hubTime else start) + BitVec.ofNat 32 (m.deadline.toNat * 10)
          t.str = (s.modStm n fun x => { x with start := start }).str ∧
          t.queue = Tab.set {} s.queue (qKey c q.val) { r with tail := tail, rel := r.rel ++ [⟨tail, some n, some due, s.now⟩] })

/-- R17, R52, R384: a doorbell with a reserved bit set, for a context that is not `OPEN`, or before the hive is in service, is discarded
and sets DOORBELL_DROP. R47: a doorbell-page access of a size or alignment that the page does not take: a read completes as Unsupported
Request, a write is discarded and sets DOORBELL_DROP; an aligned read of `DB_Qq` returns 0, and one of a page that shows no context too
(R440). While SERVICE is 0, also before the pages answer, a doorbell is discarded and sets DOORBELL_DROP; while they do not answer, a read
completes as Unsupported Request. -/
def Obligations.DoorbellPageRefusesBadAccesses : Prop :=
  (∀ (s : State) (fn : Fin 256) (page : Fin 4096) (q : Fin 4) (value : W64) (c : Nat),
     s.dbCtx fn.val page.val = some c →
     (value.toNat / 2 ^ 47 ≠ 0 ∨ s.service = false ∨ (s.fenced = false ∧ s.hasQueue c q.val = true ∧ (s.cx c).st ≠ .opened)) →
     exec (.doorbell fn page q value) s = .next (s.ctxErr c 0) ∧
     bit ((s.ctxErr c 0).rd pgCtx 0x20) 0 = true ∧ bit ((s.ctxErr c 0).cx c).err 0 = true) ∧
  (∀ (s : State) (fn : Fin 256) (page : Fin 4096) (off : BitVec 12) (size : Nat) (c : Nat), s.dbCtx fn.val page.val = some c →
     s.dbOpen = true →
     let db := off.toNat < 0x20
     let four := size = 4 ∧ off.toNat % 4 = 0
     let eight := size = 8 ∧ off.toNat % 8 = 0
     (¬ (db ∧ eight) → ¬ (¬ db ∧ four) → exec (.doorbellPageBadAccess fn page off size true) s = .next (s.ctxErr c 0)) ∧
     (db → four ∨ eight → exec (.doorbellPageBadAccess fn page off size false) s =
       .next (s.emit (.readDone (List.replicate size 0)))) ∧
     (¬ four → ¬ (db ∧ eight) → exec (.doorbellPageBadAccess fn page off size false) s = .next (s.emit .unsupported)) ∧
     (¬ db → four → exec (.doorbellPageBadAccess fn page off size false) s =
       .next (s.emit (.readDone (toBytes 4 (s.dbRead c off.toNat).toNat))))) ∧
  (∀ (s : State) (fn : Fin 256) (page : Fin 4096) (off : BitVec 12) (size : Nat) (q : Fin 4) (value : W64),
     (s.dbOpen = false → exec (.doorbellPageBadAccess fn page off size false) s = .next (s.emit .unsupported)) ∧
     (s.dbCtx fn.val page.val = none → exec (.doorbell fn page q value) s = .next s ∧
       exec (.doorbellPageBadAccess fn page off size true) s = .next s ∧
       (s.dbOpen = true → exec (.doorbellPageBadAccess fn page off size false) s = .next (s.emit (.readDone (List.replicate size 0))))) ∧
     (∀ c, s.dbOpen = false → s.dbCtx fn.val page.val = some c → ¬ (off.toNat < 0x20 ∧ size = 8 ∧ off.toNat % 8 = 0) →
       exec (.doorbellPageBadAccess fn page off size true) s = .next (s.ctxErr c 0)))

/-- R49, R50, R68: enabling a disabled queue zeroes its four counts, expects `Qq_SEQ` and runs it; clearing EN makes it drain and
discards what is fetched; the last command in flight disables it; RESTART runs a halted queue again. What earlier commands of the queue have
not had acknowledged stays open as that of earlier commands (R57). -/
def Obligations.QueueControlCompletes : Prop :=
  (∀ (s : State) (fn : Fin 256) (page : Fin 4096) (q : Fin 4) (v : W32) (c : Nat), s.tablesOk → s.dbCtx fn.val page.val = some c →
    s.dbOpen = true → s.hasQueue c q.val = true → bit v 31 = true → (s.qu c q.val).st = .disabled →
    bit (s.qu c q.val).cfg 31 = false →
    completes (.queueEnable fn page q v) s fun t => t = { s with queue := t.queue, fab := t.fab } ∧
      t.fab = { s.fab with reqs := s.fab.reqs.map fun m =>
        if (m.id.any fun i => i.ctx.val = c && i.q.val = q.val) = true then { m with prior := true } else m } ∧
      (∀ c' q', qKey c' q' ≠ qKey c q.val → t.qu c' q' = s.qu c' q') ∧
      (t.qu c q.val).st = .running ∧ (t.qu c q.val).head = 0 ∧ (t.qu c q.val).tail = 0 ∧ (t.qu c q.val).cqHead = 0 ∧
      (t.qu c q.val).cqTail = 0 ∧ (t.qu c q.val).expect = (s.qu c q.val).seq ∧ (t.qu c q.val).fetched = [] ∧
      (t.qu c q.val).seq = (s.qu c q.val).seq ∧ (t.qu c q.val).baseLo = (s.qu c q.val).baseLo ∧
      fld (t.qu c q.val).cfg 4 0 = clampTo 4 16 (fld v 4 0) ∧ bit (t.qu c q.val).cfg 31 = true) ∧
  (∀ (s : State) (fn : Fin 256) (page : Fin 4096) (q : Fin 4) (v : W32) (c : Nat), s.tablesOk → s.dbCtx fn.val page.val = some c →
    s.dbOpen = true → s.hasQueue c q.val = true → bit v 31 = false → bit (s.qu c q.val).cfg 31 = true →
    completes (.queueDisable fn page q v) s fun t => t = { s with queue := t.queue, cells := t.cells } ∧
      (∀ c' q', qKey c' q' ≠ qKey c q.val → t.qu c' q' = s.qu c' q') ∧
      (t.qu c q.val).st = .draining ∧ (t.qu c q.val).fetched = [] ∧ bit (t.qu c q.val).cfg 31 = false ∧
      (t.qu c q.val).head = (s.qu c q.val).head ∧
      ∀ p ∈ t.cells, ∀ id, p.2.picked = some id → ¬ (id.ctx.val = c ∧ id.q.val = q.val)) ∧
  (∀ (s : State) (c : Fin 4096) (q : Fin 4),
    ((s.qu c.val q.val).st = .draining → s.runsIn c.val q.val = [] →
      exec (.queueDrained c q) s = .next (s.modQu c.val q.val fun r => { r with st := .disabled })) ∧
    ((s.qu c.val q.val).st ≠ .draining ∨ s.runsIn c.val q.val ≠ [] → exec (.queueDrained c q) s = .next s)) ∧
  (∀ (s : State) (fn : Fin 256) (page : Fin 4096) (q : Fin 4) (c : Nat), s.dbCtx fn.val page.val = some c → s.dbOpen = true →
    s.hasQueue c q.val = true →
    ((s.qu c q.val).st = .halted → exec (.restart fn page q) s = .next (s.modQu c q.val fun r => { r with st := .running })) ∧
    ((s.qu c q.val).st ≠ .halted → exec (.restart fn page q) s = .next s))

/-- R41, R51, R55: a fetch takes the descriptor at HEAD: it joins the fetched ones with the words read, the first failing check, and the
stream and deadline that the doorbell which released it gave, and HEAD and the SEQ expected advance by one. Nothing else changes but
which waits of fetched and running commands count as met. A queue that may not fetch fetches nothing. That the SEQ expected advances also
past a descriptor refused with `CMD_BAD_SEQ` is the model's choice (log entry 51), and so is when the waits are looked at (log entry 71). -/
def Obligations.FetchTakesTheDescriptorAtHead : Prop :=
  ∀ (s : State) (c : Fin 4096) (q : Fin 4) (r : QueueRec), s.tablesOk → r = s.qu c.val q.val →
    let may := r.st = .running ∧ (s.cx c.val).st ≠ .free ∧ (s.cx c.val).st ≠ .zeroing ∧ s.dbOpen = true ∧ r.head ≠ r.tail ∧
      sub32 r.head r.cqHead < 2 ^ fld r.cfg 4 0
    (¬ may → exec (.descriptorFetch c q) s = .next s) ∧
    (may → ∀ w bad, s.fetchWords c.val q.val = (w, bad) → (∀ e, bad = some e → e.1 ≠ St.notYet) →
      completes (.descriptorFetch c q) s fun t => t = { s with queue := t.queue, runs := t.runs } ∧
        t.runs.map (fun x => { x with met := false }) = s.runs.map (fun x => { x with met := false }) ∧
        (t.qu c.val q.val).head = r.head + 1 ∧ (t.qu c.val q.val).expect = r.expect + 1 ∧ (t.qu c.val q.val).tail = r.tail ∧
        (t.qu c.val q.val).fetched.map (·.words) = r.fetched.map (·.words) ++ [w] ∧
        ∃ f, (t.qu c.val q.val).fetched.getLast? = some f ∧ f.count = r.head ∧ f.words = w ∧ f.bad = bad ∧ f.expect = r.expect ∧
          f.stream = (releaseOf r.rel r.head).bind (·.stream) ∧ f.deadline = (releaseOf r.rel r.head).bind (·.deadline))

/-! ### The scheduler and residency -/

/-- R31: S-class commands go first; among the T-class commands that the cell may take, the one with the earliest deadline in
modular time is chosen, ties to the lower context and then to the earlier doorbell; a B-class command is chosen only where no
T-class command may be, and never on a reserve cell (R27).
Which cells a command may take is the model's reading (log entry 22), and so is that pinned quotas count as held (log entry 29). -/
def Obligations.SchedulerPrefersTheEarliestDeadline : Prop :=
  ∀ (s : State) (cell : Nat) (x : Ready) (cs : List Nat) (new : Bool), s.choose cell = some (x, cs, new) →
    let eligible (y : Ready) : Prop := y ∈ s.readyCmds ∧ (s.cx y.c).isS = false ∧ (s.cx y.c).isB = false ∧
      s.takes y cell = true ∧ s.pickedOn (cmdId y.c y.q y.f) = [] ∧ s.fits y.c cell true = true
    x ∈ s.readyCmds ∧ cell ∈ cs ∧
    ((s.cx x.c).isS = true → s.pickS cell s.readyCmds = some (x, cs)) ∧ ((s.cx x.c).isS = false → s.pickS cell s.readyCmds = none) ∧
    ((s.cx x.c).isB = true → (∀ y, ¬ eligible y) ∧ s.pairCells.contains cell = false ∧ s.fits x.c cell true = true) ∧
    ((s.cx x.c).isS = false → (s.cx x.c).isB = false → eligible x ∧ ∀ y, eligible y → s.sooner y x = false)

/-- R18, R31, R33, R313, R372: at a cell's boundary updated entries take effect, and CELL_CLK, a rise as far as the slew governor admits it;
a command picked before a COLLECTIVE of its context became ready goes back; the choice is picked on the cells that it claims,
the cell saves the state of the context that leaves it and restores that of the chosen one; a B-class pick that begins a slice makes its
context the holder from now. Where nothing may be chosen, nothing is picked; a pick made before is kept. Nothing but contexts' updated
entries, cells, the notes of waiting heads, what the governor counts, and the poison of a save slot that is written (R33, R177) changes; where a
larger quota takes effect, the bytes of the save slot under the old one are unspecified. That the save slot's bytes otherwise stay as they
are, and that the accumulators saved stand in the cell's record, is the model's choice (log entries 14 and 77). A rise of the clock
counts as a rise of power in proportion (the model's choice, log entry 86). -/
def Obligations.PickTakesTheChoice : Prop :=
  ∀ (s : State) (cell : Fin 128), s.tablesOk →
    let x := s.cell cell.val
    let b := s.boundary cell.val
    let d := b.dropHeld cell.val
    let u := d.noteRoom cell.val
    let new := 50 * fld (s.rd pgPower 0x104) 4 0
    let top := Tab.get 1500 s.power.combMhz (cell.val / 16)
    let rise := cdiv (x.power * (min new top - min x.mhz top)) (max 1 (min x.mhz top))
    (s.atBoundary cell.val = false → exec (.schedulerPick cell) s = .next s) ∧
    (s.atBoundary cell.val = true → (∀ c, b.cx c = { s.cx c with stale := (s.cx c).stale.filter fun x => x.1 ≠ cell.val }) ∧
      b.cell cell.val = { x with mhz := if rise > s.upRoom (cell.val / 16) then x.mhz else new } ∧ (∀ i, i ≠ cell.val → b.cell i = s.cell i) ∧
      b = { s with ctx := b.ctx, cells := b.cells, mem := { s.mem with spad := b.mem.spad }, base := b.base, free := b.free } ∧
      b.base = { s.base with rise := b.base.rise, fall := b.base.fall } ∧
      ((∀ p ∈ s.ctx, ∀ y ∈ p.2.stale, y.1 = cell.val → p.2.banks ≤ ({ p.2 with ent := y.2 } : CtxRec).banks) →
        b.mem = s.mem ∧ b.free = s.free) ∧
      (∀ id, x.picked = some id → d = if b.collHolds id.ctx.val = true then b.unpick fun y => y = id else b) ∧ (x.picked = none → d = b) ∧
      u = { b with cells := d.cells, queue := u.queue } ∧
      (∀ c q, u.qu c q = { s.qu c q with noRoom := (u.qu c q).noRoom }) ∧
      (∀ id, (d.cell cell.val).picked = some id → exec (.schedulerPick cell) s = .next (d.switchTo cell.val id.ctx.val)) ∧
      ((d.cell cell.val).picked = none → u.choose cell.val = none → exec (.schedulerPick cell) s = .next u) ∧
      ((d.cell cell.val).picked = none → ∀ x cs new, u.choose cell.val = some (x, cs, new) →
        completes (.schedulerPick cell) s fun t =>
          let k := x.c % 4096
          let old := match (s.cell cell.val).cur with
            | some o => Tab.set {} (s.cell cell.val).saved o (s.cell cell.val).acc
            | none => (s.cell cell.val).saved
          let id := cmdId x.c x.q x.f
          t = { u with cells := t.cells, mem := { u.mem with spadPoison := t.mem.spadPoison } } ∧ cell.val ∈ cs ∧
          (∀ i ∈ cs, (t.cell i).picked = some id) ∧
          (∀ i, i ∉ cs → i ≠ cell.val → (cs.length ≤ 1 ∨ (u.cell i).picked ≠ some id) → t.cell i = u.cell i) ∧
          (∀ i, i ∉ cs → i ≠ cell.val → cs.length > 1 → (u.cell i).picked = some id → t.cell i = { u.cell i with picked := none }) ∧
          (t.cell cell.val).cur = some k ∧ (t.cell cell.val).mhz = (b.cell cell.val).mhz ∧
          ((s.cell cell.val).cur ≠ some k → (t.cell cell.val).acc = Tab.get {} old k ∧ (t.cell cell.val).saved = Tab.set {} old k {}) ∧
          ((s.cell cell.val).cur = some k → (t.cell cell.val).acc = (s.cell cell.val).acc) ∧
          ((s.cx x.c).isB = true → new = true → (t.cell cell.val).holder = some x.c ∧ (t.cell cell.val).slice = s.now)))

/-- R35, R37, R175, R461: SPILL moves the banks of the unpinned context longest away to its spill area; a spill that meets a translation
failure leaves them, and the context enters `QUIESCING` with SPILL_FAULT. REFILL makes a context's whole quota resident: banks never
filled read as 0, those that a spill wrote are read back. SPAD_NO_FIT_TIMEOUT sets SPAD_NO_FIT at the end of the 10 ms that a ready
command or a hub command's access has waited.
A spill or refill whose page lies in an absent stack or whose table walk meets an uncorrectable word counts as such a failure (the model's choice, log entry 95); which quotas count as held is the model's reading (log entries 22 and 29). -/
def Obligations.ResidencyCompletes : Prop :=
  (∀ (s : State) (cell : Fin 128) (c : Fin 4096) (v : Resident) (rest : List Resident), s.memOk → s.tablesOk →
    s.atBoundary cell.val = true → s.wantsBanks c.val cell.val = true → s.resident c.val cell.val = false →
    s.needBanks c.val cell.val > (s.freeBanks cell.val).length → s.fits c.val cell.val false = true →
    s.victims c.val cell.val false = v :: rest →
    let n := s.spillCount cell.val v
    let pages := (List.range n).mapM fun b => s.spillPages v.ctx cell.val b true
    (∀ ps, pages = .ok ps → completes (.spill cell c) s fun t => t = { s with mem := t.mem, cells := t.cells } ∧
      t.cells = (s.modCell cell.val fun r => { r with
        res := r.res.filter fun x => x.ctx ≠ v.ctx, spilled := r.spilled ++ [(v.ctx, n)] }).cells ∧
      t.mem.host = s.mem.host ∧ t.mem.direct = s.mem.direct ∧ t.mem.spad = s.mem.spad ∧
      (ps.flatten.Nodup → ∀ b pg, ps[b]? = some pg → ∀ i p, pg[i]? = some p → ∀ off < 65536,
        t.mem.hbm.get (p * 65536 + off) = s.mem.spad.get (spadIdx cell.val (v.map.getD b 0) (i * 65536 + off)) ∧
        (s.ctxKey v.ctx ≠ none → Tab.get none t.mem.pageKey p = s.ctxKey v.ctx))) ∧
    (∀ e, pages = .error e → e.1 ≠ St.notYet → completes (.spill cell c) s fun t => t.mem = s.mem ∧
      (t.cell cell.val).res = (s.cell cell.val).res ∧ bit (t.cx v.ctx).err 2 = true ∧ bit (t.rd pgCtx 0x20) 2 = true ∧
      cell.val ∈ (t.cx v.ctx).noSpill ∧ ((s.cx v.ctx).st = .opened → (t.cx v.ctx).st = .quiescing))) ∧
  (∀ (s : State) (cell : Fin 128) (c : Fin 4096), s.memOk → s.tablesOk → s.atBoundary cell.val = true →
    s.wantsBanks c.val cell.val = true → s.resident c.val cell.val = false →
    s.needBanks c.val cell.val ≤ (s.freeBanks cell.val).length →
    let fab := { s.fab with wants := s.fab.wants.filter fun p => p ≠ (c.val, cell.val) }
    let frame (u : State) : Prop := u = { s with mem := u.mem, cells := u.cells, fab := fab } ∧ u.resident c.val cell.val = true ∧
      (u.cell cell.val).spillOf c.val = none ∧ u.mem.hbm = s.mem.hbm ∧ u.mem.direct = s.mem.direct ∧ u.mem.host = s.mem.host
    ((s.cell cell.val).spillOf c.val = none → completes (.refill cell c) s fun t => ∃ u : State, t = u.serveWaiting ∧ frame u ∧
      ∀ b ∈ (s.freeBanks cell.val).take (s.needBanks c.val cell.val), ∀ off < 2 ^ 18, u.mem.spad.get (spadIdx cell.val b off) = 0) ∧
    (∀ n ps, (s.cell cell.val).spillOf c.val = some n → ((List.range n).mapM fun b => s.spillPages c.val cell.val b false) = .ok ps →
      completes (.refill cell c) s fun t => ∃ u : State, t = u.serveWaiting ∧ frame u ∧
        ∀ map, u.bankMap c.val cell.val = some map → map.Nodup → (∀ b ∈ map, b < 64) → n ≤ map.length →
          ∀ b pg, ps[b]? = some pg → ∀ i p, pg[i]? = some p → ∀ off < 65536,
            u.mem.spad.get (spadIdx cell.val (map.getD b 0) (i * 65536 + off)) = s.mem.hbmByte (s.ctxKey c.val) (p * 65536 + off)) ∧
    (∀ n e, (s.cell cell.val).spillOf c.val = some n → ((List.range n).mapM fun b => s.spillPages c.val cell.val b false) = .error e →
      e.1 ≠ St.notYet → exec (.refill cell c) s = .next (s.spillFault c.val).serveWaiting)) ∧
  (∀ (s : State) (cell : Fin 128) (c : Fin 4096),
    s.atBoundary cell.val = false ∨ s.wantsBanks c.val cell.val = false ∨ s.resident c.val cell.val = true →
    exec (.spill cell c) s = .next s ∧ exec (.refill cell c) s = .next s.serveWaiting) ∧
  (∀ (s : State) (c : Fin 4096) (q : Fin 4),
    (∀ since, (s.qu c.val q.val).noRoom = some since ∨ ((s.qu c.val q.val).noRoom = none ∧ s.waitsSince c.val q.val = some since) →
      exec (.spadNoFitTimeout c q) s = .next ((s.passTo (since + 10000)).ctxErr c.val 11)) ∧
    ((s.qu c.val q.val).noRoom = none → s.waitsSince c.val q.val = none → exec (.spadNoFitTimeout c q) s = .next s))
/-! ### Start and completion -/

/-- R41, R56, R31, R157, R244, R312: the head of the fetched descriptors, once it may start. One that failed a check joins the running commands
with its status and does nothing, and so does one that a check at the start refuses: for a COLLECTIVE also those of its group, for a VSTREAM
those of its extension block, which is read then, once (a read that fails ends the command with its status; one of memory that is not served
yet is awaited). A hub or store-die command joins them; a COLLECTIVE, once R313 lets it, takes its group's next operation number; a cell command takes the cells picked for it with one eighth of issue duty, or waits where the slew governor does not cover
it. One whose data needs DP16 while that is down has ended with `CMD_ECC` (R238). R29: a running cell command that passes its limit ends
with `CMD_TIMEOUT`, with the µs since its start as DETAIL; while the supply is not `PWR_OK` its limit does not advance (R356).
Which checks are made at the fetch and which at the start, how a limit lengthens and what needs DP16 are the model's readings (log entries 52, 70 and 84). -/
def Obligations.CommandsStartAndTimeOut : Prop :=
  (∀ (s : State) (c : Fin 4096) (q : Fin 4) (f : Fetched) (op : Nat), s.tablesOk → s.readyHead c.val q.val = some f →
     op = opcodeOf f.words →
     let id := cmdId c.val q.val f
     let cs := s.claimed id
     let refused (e : Err) : Prop := exec (.commandStart c q) s =
       .next { (s.unpick fun x => x = id).popHead c.val q.val f with runs := s.runs ++ [s.newRun c.val q.val f (some e)] }
     let turn := (isCellOp op = true → s.collHolds c.val = false ∧ s.cellsReady c.val cs = true) ∧ (op = 0x40 → s.collMayStart c.val = true)
     (∀ e, f.bad = some e → refused e) ∧
     (f.bad = none → ¬ turn → exec (.commandStart c q) s = .next s) ∧
     (f.bad = none → turn → ∀ e, s.startBad c.val f.words = some e → refused e) ∧
     (f.bad = none → turn → s.startBad c.val f.words = none → isCellOp op = true → s.slewWaits op cs = true →
       completes (.commandStart c q) s fun t => t = { s with cells := t.cells } ∧ ∀ i ∈ cs, t.cell i = { s.cell i with gated := true }) ∧
     (f.bad = none → turn → s.startBad c.val f.words = none → op = 0x40 → ∀ i, s.collBad c.val f.words = some i → refused (badDesc i)) ∧
     (f.bad = none → turn → s.startBad c.val f.words = none → op = 0x10 → s.slewWaits op cs = false →
       ∀ ext, ext = s.vsExt ⟨c.val, cs.headD 0, tagOf f.words, cs.head?⟩ f.words →
         (∀ e, ext = .error e → e.1 = St.notYet → exec (.commandStart c q) s = .next (s.noteWindow e.2)) ∧
         (∀ e, ext = .error e → e.1 ≠ St.notYet → s.run? id = none → (s.hubCut && needsHub f.words) = false →
           completes (.commandStart c q) s fun t => ended t id e.1 e.2) ∧
         (∀ x i, ext = .ok x → s.extBad c.val f.words x (s.epoch c.val (tagOf f.words)) = some i → refused (badDesc i))) ∧
     (f.bad = none → turn → s.startBad c.val f.words = none → (isCellOp op = true → s.slewWaits op cs = false) →
       (op = 0x40 → s.collBad c.val f.words = none) → ∀ x,
       (op = 0x10 → s.vsExt ⟨c.val, cs.headD 0, tagOf f.words, cs.head?⟩ f.words = .ok x ∧
         s.extBad c.val f.words x (s.epoch c.val (tagOf f.words)) = none) →
       completes (.commandStart c q) s fun t => ∃ r, t.runs.getLast? = some r ∧ t.runs.length = s.runs.length + 1 ∧
         (t.runs.take s.runs.length).map (fun x => { x with met := false }) = s.runs.map (fun x => { x with met := false }) ∧
         r.id = id ∧ r.words = f.words ∧ r.stream = f.stream ∧ r.deadline = f.deadline ∧ r.start = s.now ∧
         r.res = (if s.hubCut && needsHub f.words then some (St.ecc, 0x410) else none) ∧
         (t.qu c.val q.val).fetched.length = (s.qu c.val q.val).fetched.length - 1 ∧
         (isCellOp op = true → r.cell = cs.head? ∧ r.partner = cs[1]? ∧
           ∀ i ∈ cs, (t.cell i).run = some id ∧ (t.cell i).picked = none ∧ (t.cell i).duty = 1 ∧ (t.cell i).gated = false) ∧
         (isCellOp op = false → r.cell = none ∧ t.cells = s.cells ∧ t.base = s.base) ∧
         (op = 0x32 → (t.cx c.val).scouts = (s.cx c.val).scouts + 1) ∧ (op = 0x10 → r.ext = some x) ∧
         (op ≠ 0x40 → t.fab = s.fab) ∧
         (op = 0x40 → r.coll = some (startColl s f.words) ∧ t.fab = { s.fab with grp := t.fab.grp } ∧
           ∀ g, g = fld (wd f.words 29) 7 0 → (t.grp g).words = (s.grp g).words ∧ (t.grp g).opseq = (s.grp g).opseq + 1 ∧
             (t.grp g).early = (s.grp g).early.filter fun p => decide (wd (bytesToWords 2 p.2) 1 ≠ (s.grp g).opseq)) ∧
         t.evt = s.evt ∧ t.str = s.str ∧ t.scouts = s.scouts ∧ t.mem.spad = s.mem.spad ∧ t.mem.direct = s.mem.direct ∧
         t.mem.host = s.mem.host)) ∧
  (∀ (s : State) (c : Fin 4096) (q : Fin 4), s.readyHead c.val q.val = none → exec (.commandStart c q) s = .next s) ∧
  (∀ (s : State) (id : CmdId) (r : Run), s.run? id = some r → r.res = none → isCellOp (opcodeOf r.words) = true →
     (s.power.supply = .ok ∨ r.suspEnded = true →
       completes (.watchdogTimeout id) s fun t => t.clock.now = max s.now (r.start + s.limitOf r) ∧
         (∃ r', t.run? id = some r' ∧ r'.res = some (St.timeout, BitVec.ofNat 32 (t.clock.now - r.start))) ∧
         (∀ id', id' ≠ id → (t.run? id').map (fun x => { x with met := false }) = (s.run? id').map fun x => { x with met := false }) ∧
         t.cells = s.cells ∧ t.fab = s.fab ∧ t.regs = s.regs ∧
         (isAtomic r.words = false → (∀ id', id' ≠ id → t.run? id' = s.run? id') ∧ t.queue = s.queue ∧ t.evt = s.evt)) ∧
     (s.power.supply ≠ .ok → r.suspEnded = false → exec (.watchdogTimeout id) s = .next s))

/-- R61, R66, R68, R333: a command whose work has ended with a status leaves the running commands and its cells, its record stands at
CQ_TAIL of a ring in host memory, CQ_TAIL advances by one, a halting status halts a running queue with LAST_ERR and fails an open step,
and no other status changes the queue's state; the enabled signals of an `OK` untagged command are added to their counters, modulo 2^32,
and no counter changes otherwise. A record that host memory does not take is lost, and the queue halts with `CMD_PAGE_FAULT`. A ring in
the context's space (LOC = 1) advances likewise.
What becomes of requests still under way is the model's reading (log entry 60). -/
def Obligations.CompletionWritesTheRecord : Prop :=
  ∀ (s : State) (id : CmdId) (r : Run) (st : Byte) (detail : W32) (c q : Nat), s.tablesOk → s.memOk →
    c = id.ctx.val → q = id.q.val → s.run? id = some r → r.res = some (st, detail) → st ≠ St.notYet →
    (st = St.ok → s.awaits id = false ∧ s.fabHeld r = false ∧ r.list = none ∧
      ¬ (opcodeOf r.words = 0x20 ∧ copyMode r.words = 2 ∧ bit (wd r.words 29) 24 = true)) →
    (st ≠ St.ok → (s.forget id).fabHeld r = false) →
    let qr := s.qu c q
    let a := ringAddr qr.cqBaseLo qr.cqBaseHi qr.cfg qr.cqTail 16
    let phase := 1 - qr.cqTail.toNat / 2 ^ (fld qr.cfg 4 0) % 2
    let plus (u : State) (on : Bool) (k n : Nat) : State := if on then u.setCtr k (u.ctr k + BitVec.ofNat 32 n) else u
    let gone (t : State) : Prop := t.run? id = none ∧ (t.qu c q).cqTail = qr.cqTail + 1 ∧
      (∀ i, (s.cell i).run = some id → (t.cell i).run = none ∧ (t.cell i).duty = 0) ∧
      (haltsQueue st = true → (s.cx c).step.st = .opened → (t.cx c).step.st = .failed ∧ (t.cx c).step.fail = st) ∧
      (∀ n, r.stream = some n → (s.stm n).live = true → (s.stm n).ctx = c → (t.stm n).lastAct = s.hubTime) ∧
      t.evt = (if st = St.ok ∧ r.slot = none then plus (plus s (sig0En r.words) (sig0Ctr r.words) (sig0Add r.words)) (sig1En r.words)
        (sig1Ctr r.words) (sig1Add r.words) else s).evt
    (bit qr.cfg 30 = false → completes (.commandCompletion id none true) s fun t => gone t ∧
      t.mem.host.read a 16 = wordsToBytes [seqOf r.words,
        BitVec.ofNat 32 (st.toNat * 2 ^ 24 + opcodeOf r.words * 2 ^ 16 + phase * 2 ^ 15 + r.cellNo), s.hubTime, detail] ∧
      (∀ x, x < a ∨ a + 16 ≤ x → t.mem.host.get x = s.mem.host.get x) ∧
      (haltsQueue st = true → (t.qu c q).lastErr = st) ∧
      (haltsQueue st = true → qr.st = .running → (t.qu c q).st = .halted ∧ (t.qu c q).fetched = []) ∧
      (haltsQueue st = false ∨ qr.st ≠ .running → (t.qu c q).st = qr.st)) ∧
    (bit qr.cfg 30 = false → completes (.commandCompletion id none false) s fun t => gone t ∧ t.mem.host = s.mem.host ∧
      (t.qu c q).lastErr = St.pageFault ∧ (qr.st = .running → (t.qu c q).st = .halted)) ∧
    (bit qr.cfg 30 = true → s.recordWaits c q = false → ∀ ok, completes (.commandCompletion id none ok) s fun t => gone t ∧ t.mem.host = s.mem.host)

/-! ### The engines of a cell -/

/-- R71, R79, R93 to R95: a MATMUL of any shape that meets no error ends `OK`, with every tile drained; one that meets an error ends with
it. For one tile and one panel, what its drain has written to C is said in full: the rows of the accumulators, which started as R79 and
R92 say and took one panel sum each, rounded once. Nothing but memory, epochs' shadows, the running commands and the cells changes. -/
def Obligations.MatmulWritesItsTile : Prop :=
  (∀ (s u : State) (id : CmdId) (r : Run) (g g' : MmProg), running s id r 0x01 → r.mm = none →
    let h := mmShape r.words
    s.mmProg r = .ok g → s.mmAll r (h.TM * h.TN * (h.P + 2) + 1) g = .ok (u, g') →
    completes (.matmul id) s fun t => t = { s with mem := u.mem, ctx := u.ctx, cells := t.cells, runs := t.runs } ∧ ended t id St.ok 0 ∧
      h.TM * h.TN ≤ g'.drained) ∧
  (∀ (s : State) (id : CmdId) (r : Run) (e : Err), running s id r 0x01 → s.matmul r = .error e → e.1 ≠ St.notYet →
    completes (.matmul id) s fun t => ended t id e.1 e.2 ∧ t.cells = s.cells ∧ t.queue = s.queue ∧ t.evt = s.evt ∧ t.regs = s.regs) ∧
  (∀ (s u : State) (id : CmdId) (r : Run) (acc : List W32) (a : List (List (Nat × Val))) (b : List (List Val)),
    running s id r 0x01 → r.mm = none → mmShape r.words = ⟨(mmShape r.words).M, (mmShape r.words).N, 1, 1, 1⟩ →
    let h := mmShape r.words
    s.tileInit r 0 0 = .ok acc → s.flagged r.who (slot r.words 0) 1 0 0 = .ok false →
    s.flagged r.who (slot r.words 1) 1 0 0 = .ok false →
    s.panelA r.who (slot r.words 0) 0 0 (tileLen h.M 0) = .ok a → s.panelB r.who (slot r.words 1) 0 0 (tileLen h.N 0) = .ok b →
    s.tileRows r 0 (tileLen h.N 0) (tileLen h.M 0) (panelAcc acc (tileLen h.N 0) a b) 0 = .ok u →
    completes (.matmul id) s fun t => t = { u with cells := t.cells, runs := t.runs } ∧ ended t id St.ok 0)

/-- R93: a micro-operation adds one panel to the accumulators of the tile being filled, each rounded once (R80, R81); where the next panel
is not flagged (R87), that one is due. No memory changes. R94, R95: a drain writes the rows of the oldest finished tile to C and empties
its bank; with the last tile drained the command ends `OK`. Where there is nothing to issue or to drain, nothing else happens.
That a panel is read from its operands' home is the model's choice (log entry 77). -/
def Obligations.MicroOpsAndDrainsAdvanceTheTiles : Prop :=
  (∀ (s : State) (id : CmdId) (r : Run) (g : MmProg), running s id r 0x01 → s.mmProg r = .ok g →
     let h := mmShape r.words
     (g.canIssue h = false → exec (.matmulMicroOp id) s = .next (s.mmPut r g)) ∧
     (g.canIssue h = true → ∀ g', s.mmPanel r g = .ok g' → completes (.matmulMicroOp id) s fun t => t = s.mmPut r g' ∧
       t = { s with cells := t.cells, runs := t.runs }) ∧
     (g.tile ≤ g.drained → exec (.tileDrain id) s = .next (s.mmPut r g)) ∧
     (g.drained < g.tile → ∀ u g', s.mmDrain r g = .ok (u, g') → completes (.tileDrain id) s fun t => t = u.mmPut r g' ∧
       t = { s with mem := t.mem, ctx := t.ctx, cells := t.cells, runs := t.runs })) ∧
  (∀ (s : State) (id : CmdId) (r : Run) (g : MmProg) (i : Nat) (acc : List W32) (a : List (List (Nat × Val))) (b : List (List Val)),
     let h := mmShape r.words
     let tm := g.tile / h.TN
     let tn := g.tile % h.TN
     running s id r 0x01 → r.mm = some g → g.canIssue h = true → g.drained < h.TM * h.TN → g.bank g.tile = some (i, acc) →
     s.panelA r.who (slot r.words 0) g.panel (256 * tm) (tileLen h.M tm) = .ok a →
     s.panelB r.who (slot r.words 1) g.panel (256 * tn) (tileLen h.N tn) = .ok b → g.panel + 1 < h.P →
     s.flagged r.who (slot r.words 0) h.P (g.panel + 1) tm = .ok false →
     s.flagged r.who (slot r.words 1) h.P (g.panel + 1) tn = .ok false →
     let g' := { g.setBank g.tile (some (i, panelAcc acc (tileLen h.N tn) a b)) with panel := g.panel + 1 }
     exec (.matmulMicroOp id) s = .next ((s.setAcc r g').modRun id fun x => { x with mm := some g' })) ∧
  (∀ (s u : State) (id : CmdId) (r : Run) (g : MmProg) (i : Nat) (acc : List W32),
     let h := mmShape r.words
     running s id r 0x01 → r.mm = some g → h.TM * h.TN ≤ g.tile → g.drained < h.TM * h.TN → g.bank g.drained = some (i, acc) →
     s.tileRows r (256 * (i % h.TN)) (tileLen h.N (i % h.TN)) (tileLen h.M (i / h.TN)) acc (256 * (i / h.TN)) = .ok u →
     let g' := { g.setBank g.drained none with drained := g.drained + 1 }
     completes (.tileDrain id) s fun t => t = { u with cells := t.cells, runs := t.runs } ∧
       t.cells = (u.setAcc r g').cells ∧ (∃ r', t.run? id = some r' ∧ r'.mm = some g') ∧
       (g.drained + 1 = h.TM * h.TN → ended t id St.ok 0) ∧
       (g.drained + 1 < h.TM * h.TN → ∃ r', t.run? id = some r' ∧ r'.res = none))

/-- R156, R157, R159, R161, R162, R172 to R174: a VSTREAM runs with the extension block that its start read and ends `OK`; a failed access
ends it with the failure. A VCHAIN whose program is read and passes its checks runs and ends `OK`; one whose program a check refuses ends
with `CMD_BAD_DESC` and has not run (R41). What is written is said in full for one row: a VSTREAM without B, extension block or reduction writes to dst the function
of each element, converted to dst's format; a VCHAIN writes what its stages make of each element.
The rounding of a VCHAIN stage and ABS and NEG between integer formats are the model's readings (log entries 79 and 80). -/
def Obligations.VectorCommandsWriteTheirRow : Prop :=
  (∀ (s : State) (id : CmdId) (r : Run), running s id r 0x10 →
    let w := r.words
    let d := slot w 0
    let a := slot w 1
    (∀ u, s.vstreamRun r (r.ext.getD []) = .ok u →
      completes (.vstream id) s fun t => t = u ∧ t = { s with mem := t.mem, ctx := t.ctx, runs := t.runs } ∧ ended t id St.ok 0) ∧
    (∀ e, e.1 ≠ St.notYet → s.vstreamRun r (r.ext.getD []) = .error e → completes (.vstream id) s fun t => ended t id e.1 e.2) ∧
    (∀ (u : State) (av : List Elem), r.ext.getD [] = [] → (slot w 2).used = false →
      d.used = true → isMx d.fmt = false → sameBits (vsFunc w) d a = false → a.d1 = 1 → a.d2 = 1 →
      s.readStream r.who a (vsStride w 0) (sameInt (vsFunc w) d a) = .ok av → av.length = a.d0 →
      s.writeRow r.who d 0 0 (av.zipIdx.map fun p => some (encElem d.fmt (vsBits (rndBit w) (s.cx id.ctx.val).seed (vsSalt w) 0 p.2)
        (funcV (vsFunc w) p.1.val vOne vNegZero))) = .ok u →
      completes (.vstream id) s fun t => t = { u with runs := t.runs } ∧ ended t id St.ok 0)) ∧
  (∀ (s : State) (id : CmdId) (r : Run), running s id r 0x11 →
    let w := r.words
    let d := slot w 0
    let a := slot w 1
    let sr (n : Nat) : Option W32 := vsBits (rndBit w) (s.cx id.ctx.val).seed (vsSalt w) 0 n
    (∀ x, s.readBytes r.who 1 (chainVa w) 64 = .error x → x.1 ≠ St.notYet → completes (.vchain id) s fun t => ended t id x.1 x.2) ∧
    (∀ bs i, s.readBytes r.who 1 (chainVa w) 64 = .ok bs → chainOf (bytesToWords 16 bs) (slot w 2).used = .error i →
      exec (.vchain id) s = .next (s.refuseRun id St.badDesc (BitVec.ofNat 32 i))) ∧
    (∀ bs u ts, s.readBytes r.who 1 (chainVa w) 64 = .ok bs → chainOf (bytesToWords 16 bs) (slot w 2).used = .ok ts →
      s.vchainRun r ts = .ok u → completes (.vchain id) s fun t => t = u ∧ t = { s with mem := t.mem, ctx := t.ctx, runs := t.runs } ∧
        ended t id St.ok 0) ∧
    (∀ bs e ts, s.readBytes r.who 1 (chainVa w) 64 = .ok bs → chainOf (bytesToWords 16 bs) (slot w 2).used = .ok ts →
      s.vchainRun r ts = .error e → e.1 ≠ St.notYet → completes (.vchain id) s fun t => ended t id e.1 e.2) ∧
    (∀ bs (u : State) (ts : List Stage) (av : List Elem), s.readBytes r.who 1 (chainVa w) 64 = .ok bs →
      chainOf (bytesToWords 16 bs) (slot w 2).used = .ok ts →
      (slot w 2).used = false → a.d1 = 1 → a.d2 = 1 → s.readStream r.who a 1 false = .ok av → av.length = a.d0 →
      s.writeRow r.who d 0 0 (av.zipIdx.map fun p => some (if d.fmt = 1 then (chainF ts (sr p.2) p.1.val.bits 0).toNat
        else encElem d.fmt (sr p.2) (f32v (chainF ts (sr p.2) p.1.val.bits 0)))) = .ok u →
      exec (.vchain id) s = .next (u.endRun id St.ok 0)))

/-- R192 to R197, R199, R214, R290, R296: a COPY. Loads of a source in SPACE 5 go first, and the command waits for them; MOVE then writes
its dst from its source (bits where formats and directions agree, else converted); ATOMIC changes its elements one after another and
writes their old values to slot 2, and fails before the first of them where slot 2 cannot be written; KV_WRITE writes the rows to the records from SEQ_POS up, with their digest (R327). Each ends `OK`, or with the failure that a
request met, once no request of it is awaited; a failure here ends MOVE with it. R196, R197: one ATOMIC element changed in the hive: the
old value is read, the new value of R196 stands in its place, in one operation; ADD wraps, MIN and MAX compare as the format says, CAS
writes only on a match. That an ATOMIC whose operands lie in SPACE 5 loads them first is the model's choice (log entry 94). -/
def Obligations.CopyCommandsComplete : Prop :=
  (∀ (s : State) (id : CmdId) (r : Run), running s id r 0x20 →
     let w := r.words
     let d := slot w 0
     let a := slot w 1
     let ok := r.err.getD (St.ok, 0)
     let sent (u : State) : State := u.modRun id fun x => { x with phase := 2 }
     let done (u t : State) : Prop := (u.awaits id = true → t = sent u) ∧ (u.awaits id = false → t = (sent u).endRun id ok.1 ok.2)
     let src (sd : Bool) : State := if r.phase = 0 ∧ a.space = 5 then s.issueLoads r (readRuns a sd (fmtBytes a.fmt a.d0)) else s
     let loading (c : Instr) (sd : Bool) : Prop := r.phase = 0 → (src sd).awaits id = true →
       exec c s = .next ((src sd).modRun id fun x => { x with phase := 1 })
     let waiting (c : Instr) : Prop := (r.phase = 1 ∨ r.phase = 2) → s.awaits id = true → exec c s = .next s
     (copyMode w = 0 → loading (.move id) (copySd w 1) ∧ waiting (.move id) ∧
       let b := src (copySd w 1)
       let write := if moveBits w then b.moveCopy r d a (copySd w 0) else b.moveConvert r w d a
       (r.phase < 2 → b.awaits id = false → (∀ u, write = .ok u → completes (.move id) s (done u)) ∧
         ∀ e, write = .error e → e.1 ≠ St.notYet → completes (.move id) s fun t => ended t id e.1 e.2)) ∧
     (copyMode w = 1 → loading (.atomic id) false ∧ waiting (.atomic id) ∧
       let b := src false
       (r.phase < 2 → b.awaits id = false → ∀ e, b.atomRoom r = .error e → e.1 ≠ St.notYet →
         completes (.atomic id) s fun t => ended t id e.1 e.2) ∧
       (r.phase < 2 → b.awaits id = false → ∀ es u r', b.atomRoom r = .ok () → b.atomElems r = .ok es →
         es.foldlM (fun t e => t.atomOne r e) (b.modRun id fun x => { x with phase := 2, remote := [] }) = .ok u → u.run? id = some r' →
         (u.awaits id = true → exec (.atomic id) s = .next u) ∧
         (u.awaits id = false → ∀ v, u.atomOld r' = .ok v → exec (.atomic id) s = .next (v.endRun id ok.1 ok.2)))) ∧
     (copyMode w = 2 → loading (.kvWrite id) false ∧ waiting (.kvWrite id) ∧
       let b := src false
       (r.phase < 2 → b.awaits id = false → ∀ u dig, (List.range a.d1).foldlM (fun (x : State × W64) k => do
           let bs ← kvLift (x.1.anyBytes r k a.space (addr64 (a.row k 0)) a.d0)
           let t ← x.1.kvSetRecord (b.viewOf r (streamOf w)) (b.kvSeq (b.viewOf r (streamOf w)) + k) (kvOff w * 64) bs
           return (t, crc64 x.2 bs)) (b, 0) = .ok (u, dig) →
         let v := u.modRun id fun x => { x with phase := 2, dig := some dig }
         completes (.kvWrite id) s fun t => (u.awaits id = true → t = v) ∧ (u.awaits id = false → t = v.endRun id ok.1 ok.2)))) ∧
  ((∀ (s t : State) (w : Who) (space addr aop n old a b : Nat) (sgn : Bool), s.atomAt w space addr aop n sgn a b = .ok (old, t) →
     ∃ bs, s.readBytes w space addr n = .ok bs ∧ old = ofBytes bs ∧
       s.writeBytes w space addr (toBytes n (atomNew aop n sgn old a b)) = .ok t) ∧
   (∀ (n t a b : Nat) (sgn : Bool), atomNew 1 n sgn t a b = (t + a) % 2 ^ (8 * n) ∧ atomNew 4 n sgn t a b = a ∧
     atomNew 5 n sgn t t b = b ∧ (t ≠ a → atomNew 5 n sgn t a b = t) ∧
     (numOf sgn n (atomNew 2 n sgn t a b) = min (numOf sgn n t) (numOf sgn n a)) ∧
     (numOf sgn n (atomNew 3 n sgn t a b) = max (numOf sgn n t) (numOf sgn n a))))

/-! ### The waggle router and the scouts -/

/-- R103, R104: no expert accepts more than its capacity and no more spill rows are used than there are, whatever the logits,
the policy and the ranks; an accepted choice has a column below the capacity and a spilled one a spill row. -/
def Obligations.RouteNeverExceedsCapacity : Prop :=
  ∀ (k policy cap spillCap : Nat) (ranks : List (List (Nat × W32))),
    let a := assignAll k policy cap spillCap ranks
    (∀ e, a.cnt.getD e 0 ≤ cap) ∧ a.spill ≤ spillCap ∧
    ∀ t c, c ∈ a.ch.getD t [] → (c.status = 1 → c.row < cap) ∧ (c.status = 3 → c.row < spillCap ∧ policy = 2) ∧
      (c.status = 2 → c.row = 0xFFFF) ∧ 1 ≤ c.status ∧ c.status ≤ 3

/-- R101, R102, R109 to R111, R461: a ROUTE or a COMBINE first waits for the context's banks on the cells that its map names; one whose
map a check refuses ends with `CMD_BAD_DESC` and nothing written; a map that cannot be read ends it with the failure. Otherwise it runs:
a ROUTE writes its dispatch area and the inboxes, a COMBINE its rows, after the loads of outboxes elsewhere, and each ends `OK`, or with the
failure that a request met, once no request of it is awaited. Both wait while a store die that runs them is held, and an S-class one whose
second die is out of service ends (R323, R328). A ROUTE that names no other hive changes only memory, the epochs' shadows,
the running commands and the free values drawn. Which field the DETAIL of a COMBINE's refused map names is the model's choice (log entry 90). -/
def Obligations.RouterCommandsComplete : Prop :=
  let settled (u t : State) (id : CmdId) (r : Run) : Prop :=
    (u.awaits id = true → t = u.modRun id fun x => { x with phase := 2 }) ∧
    (u.awaits id = false → t = (u.modRun id fun x => { x with phase := 2 }).endRun id (r.err.getD (St.ok, 0)).1 (r.err.getD (St.ok, 0)).2)
  (∀ (s : State) (id : CmdId) (r : Run) (c : Instr), (running s id r 0x30 ∧ c = .route id) ∨ (running s id r 0x31 ∧ c = .combine id) →
    (s.bankWait r = true → exec c s = .next (s.noteBanks id)) ∧
    (s.bankWait r = false → 2 ≤ r.phase → s.awaits id = true → exec c s = .next s) ∧
    (s.bankWait r = false → 2 ≤ r.phase → s.awaits id = false →
      exec c s = .next (s.endRun id (r.err.getD (St.ok, 0)).1 (r.err.getD (St.ok, 0)).2)) ∧
    (s.bankWait r = false → r.phase < 2 → ∀ e, s.agentStop r (s.agentDies r) = some e → exec c s = .next (s.cutRun id e.1 e.2))) ∧
  (∀ (s : State) (id : CmdId) (r : Run), running s id r 0x30 → s.bankWait r = false → r.phase < 2 → s.agentStop r (s.agentDies r) = none →
    let map := s.expertMap r.who (wd r.words 31).toNat (slot r.words 0).d0
    (∀ e, map = .error e → exec (.route id) s = .next (s.endRun id e.1 e.2)) ∧
    (∀ m i, map = .ok m → s.routeBad r m = some i → exec (.route id) s = .next (s.refuseRun id St.badDesc (BitVec.ofNat 32 i))) ∧
    (∀ m, map = .ok m → s.routeBad r m = none → s.mapWait id.ctx.val m ≠ [] → exec (.route id) s = .next (s.modRun id fun t =>
      { t with wants := (t.wants ++ s.mapWait id.ctx.val m).eraseDups })) ∧
    (∀ m u, map = .ok m → s.routeBad r m = none → s.mapWait id.ctx.val m = [] →
      (s.swapPorts r [0] (remoteHives m (·.inbox))).routeRun r m = .ok u →
      completes (.route id) s fun t => t = u ∧ (t.awaits id = true → ∃ r', t.run? id = some r' ∧ r'.res = none ∧ r'.phase = 2) ∧
        (t.awaits id = false → ended t id (r.err.getD (St.ok, 0)).1 (r.err.getD (St.ok, 0)).2) ∧
        ((∀ e ∈ m, e.remote = false) → t = { s with mem := t.mem, ctx := t.ctx, runs := t.runs, free := t.free }))) ∧
  (∀ (s : State) (id : CmdId) (r : Run) (T : Nat) (x : Dispatch) (m : List Expert), running s id r 0x31 → s.bankWait r = false →
    r.phase < 2 → s.agentStop r (s.agentDies r) = none → s.readDispatch r = .ok (T, x) → s.expertMap r.who (wd r.words 29).toNat x.E = .ok m →
    let d := slot r.words 2
    let v := m.filter (·.valid)
    let bad := ((s.cx id.ctx.val).isS && v.any (·.remote)) || v.any s.expertBad
    let hit := s.outboxHit r m d.d0 x
    let cells := s.mapWait id.ctx.val (combineCells m x)
    let src := if r.phase = 0 then (s.swapPorts r [0] (remoteHives (combineCells m x) (·.outbox))).issueLoads r (combineRuns m d.d0 x) else s
    (bad = true → exec (.combine id) s = .next (s.refuseRun id St.badDesc 29)) ∧
    (bad = false → T ≠ d.d1 → exec (.combine id) s = .next (s.refuseRun id St.badDesc 25)) ∧
    (bad = false → T = d.d1 → hit = true → exec (.combine id) s = .next (s.refuseRun id St.badDesc 29)) ∧
    (bad = false → T = d.d1 → hit = false → cells ≠ [] → exec (.combine id) s = .next (s.modRun id fun t =>
      { t with wants := (t.wants ++ cells).eraseDups })) ∧
    (bad = false → T = d.d1 → hit = false → cells = [] → r.phase = 0 → src.awaits id = true →
      exec (.combine id) s = .next (src.modRun id fun t => { t with phase := 1 })) ∧
    (bad = false → T = d.d1 → hit = false → cells = [] → r.phase = 1 → s.awaits id = true → exec (.combine id) s = .next s) ∧
    (bad = false → T = d.d1 → hit = false → cells = [] → src.awaits id = false →
      ∀ u, x.ch.zipIdx.foldlM (fun (t : State) p => t.combineRow r m p.2 p.1) src = .ok u →
        completes (.combine id) s fun t => settled u t id r))

/-- R139 to R142, R147 to R152: a SCOUT that keeps every block ends at once with its list written; another one takes a ready scout, or in a
DIGITAL command runs on the digital path of its store die, and its list is written when the scoring ends. In REPLAY mode the recorded
list is written, and without a record an untagged SCOUT is refused with JOURNAL_MISS (R130). A failed check refuses it (R140). GATHER_KV
writes the records and ends. Each first waits for the banks that it needs (R461); a store die whose clock island is held starts nothing
(R323), and one that a command is on the digital path of waits or ends as R328 says. A DIGITAL SCOUT of itself takes the store die of its
stream's chain (the model's choice, log entry 24). -/
def Obligations.ScoutAndGatherComplete : Prop :=
  (∀ (s : State) (id : CmdId) (r : Run) (x : ScoutRun) (unit : Fin 12), running s id r 0x32 → r.scout = some x →
    let set := scoutSet r.words r.seqPos
    let few := set.n ≤ scK r.words + scM r.words
    let scored := s.journal r = none ∨ ∃ j, s.journal r = some j ∧ j.mode = 1
    let fits := s.scoutFits r
    let digital := (s.cx id.ctx.val).digital r.words
    (s.bankWait r = true → exec (.scout id unit) s = .next (s.noteBanks id)) ∧
    (s.bankWait r = false → x.unit = none → x.die = none →
      (∀ e, fits = .error e → exec (.scout id unit) s = .next (s.endRun id e.1 e.2)) ∧
      (∀ i, fits = .ok (some i) → exec (.scout id unit) s = .next (s.refuseRun id St.badDesc (BitVec.ofNat 32 i))) ∧
      (∀ u, fits = .ok none → scored → few → s.scoutList r x = .ok u →
        completes (.scout id unit) s fun t => t = u.freeScout id ∧ ended t id St.ok 0 ∧
          t = { s with mem := t.mem, ctx := t.ctx, regs := t.regs, runs := t.runs, scouts := t.scouts, free := t.free }) ∧
      (fits = .ok none → scored → ¬ few → digital = false →
        (s.scoutRec unit.val).st = .ready → (s.scoutRec unit.val).run = none → s.base.sdHeld.getLsbD (unit.val / 2) = false →
        exec (.scout id unit) s = .next (((s.modScout unit.val fun y => { y with run := some id }).modRun id fun y =>
          { y with scout := some { x with unit := some unit.val } }).swapBank (bankKey (pgSd (unit.val / 2)) (3 + unit.val % 2)) id.ctx.val id.q.val
            r.words)) ∧
      (fits = .ok none → scored → ¬ few → digital = true → s.base.sdHeld.getLsbD (s.scoutDie r) = false →
        let x' := { x with die := some (s.scoutDie r), unit := none, paused := false }
        let r' := { r with scout := some x' }
        let f := s.freeScout id
        let b := (if (s.cx id.ctx.val).stepMode = 2 then f else f.bump pgPool 0x13C 1).modRun id fun t => { t with scout := some x' }
        (∀ u, b.agentStop r' (b.agentDies r') = none → b.scoutList r' x' = .ok u →
          completes (.scout id unit) s fun t => t = u.freeScout id ∧ ended t id St.ok 0) ∧
        ∀ e, b.agentStop r' (b.agentDies r') = some e → exec (.scout id unit) s = .next (b.cutRun id e.1 e.2)) ∧
      (∀ j js, fits = .ok none → s.journal r = some j → j.mode = 2 → s.awaits id = false → (r.phase = 1 ∨ j.slot.space ≠ 5) →
        s.anyBytes r 0 j.slot.space j.slot.base j.used = .ok js → r.err = none →
        (∀ p u, findRecord r js (j.used / 64 + 1) 64 = some (some p) →
          s.writeBytes r.who (slot r.words 1).space (addr64 ((slot r.words 1).row 0 0)) (p.take ((slot r.words 1).d1 * 64)) = .ok u →
          completes (.scout id unit) s fun t => t = { u with runs := t.runs } ∧ ended t id St.ok 0) ∧
        (findRecord r js (j.used / 64 + 1) 64 = none → r.slot = none →
          completes (.scout id unit) s fun t => ended t id St.badDesc 0 ∧ bit (t.cx id.ctx.val).err 5 = true ∧ t.mem = s.mem))) ∧
    (∀ u, s.bankWait r = false → (x.die = none ∧ x.unit ≠ none ∧ x.paused = false) ∨
        (x.die ≠ none ∧ s.agentStop r (s.agentDies r) = none) → s.scoutList r x = .ok u →
      completes (.scout id unit) s fun t => t = u.freeScout id ∧ ended t id St.ok 0 ∧ ∀ p ∈ t.scouts, p.2.run ≠ some id)) ∧
  (∀ (s : State) (id : CmdId) (r : Run), running s id r 0x33 →
    (s.bankWait r = true → exec (.gatherKv id) s = .next (s.noteBanks id)) ∧
    (s.bankWait r = false → ∀ e, s.agentStop r (s.agentDies r) = some e → exec (.gatherKv id) s = .next (s.cutRun id e.1 e.2)) ∧
    (s.bankWait r = false → s.agentStop r (s.agentDies r) = none →
      (∀ u, s.gatherRun r = .ok u → completes (.gatherKv id) s fun t => t = u ∧ t = { s with mem := t.mem, ctx := t.ctx, runs := t.runs } ∧
        ended t id St.ok 0) ∧
      (∀ e, s.gatherRun r = .error e → e.1.1 ≠ St.notYet → completes (.gatherKv id) s fun t => ended t id e.1.1 e.1.2)))

/-- R146, R147: a scout that loses lock pauses its SCOUT and counts the loss; no relock in 200 µs restarts the SCOUT on the digital
path, and no ready scout in 20 µs starts it there: its list is then exact, and the pool counts one digital SCOUT (none in REPLAY mode,
R151); the die of a restart is that of the stream's chain (the model's choice, log entry 24). R137, R145: the recipe register operations bind, read and clear a recipe of an open context without streams; the margin-miss
counters clear; a scout due for calibration begins it, and is ready or fenced by its residuals.
The DETAIL of a failed allocation and the status of a recipe that cannot be read are the model's choices (log entry 95); which runs count as digital is its reading (log entry 63). -/
def Obligations.ScoutTimersAndPoolComplete : Prop :=
  ((∀ (s : State) (unit : Fin 12), (s.scoutRec unit.val).run = none → exec (.scoutLockLoss unit) s = .next s ∧
     exec (.scoutRelockTimeout unit) s = .next s) ∧
   (∀ (s : State) (unit : Fin 12) (id : CmdId), (s.scoutRec unit.val).run = some id →
     exec (.scoutLockLoss unit) s = .next ((s.modScout unit.val fun u => { u with losses := satAdd 8 u.losses 1 }).modRun id fun r =>
       { r with scout := r.scout.map fun x => { x with paused := true, since := s.now } })) ∧
   (∀ (s u : State) (unit : Fin 12) (id : CmdId) (r : Run) (x : ScoutRun), (s.scoutRec unit.val).run = some id → s.run? id = some r →
     r.id = id → r.res = none → r.scout = some x → x.paused = true →
     let x' := { x with restarted := true, die := some (s.scoutDie r), unit := none, paused := false }
     let r' := { r with scout := some x' }
     let f := (s.passTo (x.since + 200)).freeScout id
     let s' := (if (s.cx id.ctx.val).stepMode = 2 then f else f.bump pgPool 0x13C 1).modRun id fun t => { t with scout := some x' }
     s'.agentStop r' (s'.agentDies r') = none → s'.scoutList r' x' = .ok u →
     completes (.scoutRelockTimeout unit) s fun t => t = u.freeScout id ∧ ended t id St.ok 0 ∧
       t.clock.now = max s.now (x.since + 200)) ∧
   (∀ (s u : State) (sd : Fin 8) (id : CmdId) (r : Run) (x : ScoutRun), running s id r 0x32 → s.bankWait r = false → r.scout = some x →
     x.unit = none → x.die = none → (∀ n < 12, (s.scoutRec n).st ≠ .ready) → s.scoutFits r = .ok none →
     (s.journal r = none ∨ ∃ j, s.journal r = some j ∧ j.mode = 1) →
     (scoutSet r.words r.seqPos).n > scK r.words + scM r.words →
     let x' := { x with die := some sd.val, unit := none, paused := false }
     let r' := { r with scout := some x' }
     let f := (s.passTo (s.readySince x + 20)).freeScout id
     let s' := (if (s.cx id.ctx.val).stepMode = 2 then f else f.bump pgPool 0x13C 1).modRun id fun t => { t with scout := some x' }
     s'.agentStop r' (s'.agentDies r') = none → s'.scoutList r' x' = .ok u →
     completes (.scoutReadyTimeout id sd) s fun t => t = u.freeScout id ∧ ended t id St.ok 0 ∧
       t.clock.now = max s.now (s.readySince x + 20)) ∧
   (∀ (s : State) (sd : Fin 8) (id : CmdId) (r : Run), running s id r 0x32 → s.bankWait r = false →
     (∃ n < 12, (s.scoutRec n).st = .ready) → exec (.scoutReadyTimeout id sd) s = .next s)) ∧
  ((∀ (s : State) (c vpn : Nat), s.pageUse pgPool = true → c = s.skrIndex → vpn = (s.rd pgPool 0x10C).toNat →
     let answers (i : Instr) (t : State) (st : W32) : Prop := exec i s = .next (t.wr pgPool 0x108 st)
     (s.idleOpen c = false → answers .skrSet s 0x01 ∧ answers .skrClear s 0x01) ∧
     (s.idleOpen c = true → s.recipeGood c vpn = false → answers .skrSet s 0x02) ∧
     (s.idleOpen c = true → s.recipeGood c vpn = true → answers .skrSet (s.modCx c fun r => { r with recipe := some vpn }) 0) ∧
     (s.idleOpen c = true → answers .skrClear (s.modCx c fun r => { r with recipe := none }) 0) ∧
     answers .skrRead (s.wr pgPool 0x10C (BitVec.ofNat 32 (((s.cx c).recipe).getD 0))) 0) ∧
   (∀ (s : State) (v : W32), (s.pageUse pgPool = false → ∀ i ∈ [Instr.skrSet, .skrRead, .skrClear, .poolMmClear v], exec i s = .next s) ∧
     (s.pageUse pgPool = true →
       (bit v 0 = true → exec (.poolMmClear v) s = .next (((s.wr pgPool 0x130 0).wr pgPool 0x134 0).wr pgPool 0x13C 0)) ∧
       (bit v 0 = false → exec (.poolMmClear v) s = .next s))) ∧
   (∀ (s : State) (u : Fin 12) (gain offset weight : Nat) (tones : Bool),
     let y := s.scoutRec u.val
     let room := (s.scouts.filter fun p => p.2.st = .cal).length < fld (s.rd pgPool 0x124) 19 16
     let due := s.passTo (y.last + 1000 * fld (s.rd pgPool 0x124) 15 0)
     (y.run = none → room → y.st = .ready → exec (.scoutCalibration u) s = .next (due.modScout u.val fun x => { x with st := .cal, left := due.now })) ∧
     (y.run = none → room → y.st = .fenced → y.fails < 3 → exec (.scoutCalibration u) s = .next (due.modScout u.val fun x => { x with st := .cal })) ∧
     (y.run = none → room → y.st = .off → y.fails < 3 → s.scoutMay u.val = true →
       exec (.scoutCalibration u) s = .next (s.modScout u.val fun x => { x with st := .cal })) ∧
     (y.run ≠ none ∨ ¬ room ∨ y.st = .cal ∨ (y.fails ≥ 3 ∧ y.st ≠ .ready) → exec (.scoutCalibration u) s = .next s) ∧
     (y.st = .cal →
       let good := gain ≤ 20 ∧ offset ≤ 200 ∧ weight ≤ 20 ∧ tones = true
       let v := s.modScout u.val fun x => if good then { x with st := .ready, fails := 0, last := s.now }
         else { x with st := .fenced, fails := x.fails + 1, last := s.now }
       exec (.calibrationDone u gain offset weight tones) s = .next (v.notify s)) ∧
     (y.st ≠ .cal → exec (.calibrationDone u gain offset weight tones) s = .next (s.notify s))))

/-! ### The hub's commands -/

/-- R57, R58, R301, R461: a FENCE ends `OK` once no acknowledgement that it covers is missing; else its drain timer runs, and when that
ends, a list in SPACE 2 having its banks, the command ends with `FENCE_INCOMPLETE` and the number of missing destinations as DETAIL
(what it was to write is unspecified), or with the status that its work had failed with; those requests are tracked no longer. The list,
cut at the slot's size, stands in a FENCE's slot 0; where it cannot be written, the FENCE ends with that access's status (the model's
choice, log entry 71). While acknowledgements that an FFAB wait covers are missing, no command that ran completes. -/
def Obligations.FenceWaitsForItsAcknowledgements : Prop :=
  ((∀ (s : State) (id : CmdId) (r : Run), running s id r 0x50 →
     ((ffab r.words = false ∨ s.covered r = []) → exec (.fence id) s = .next (s.endRun id St.ok 0)) ∧
     (ffab r.words = true → s.covered r ≠ [] →
       exec (.fence id) s = .next (s.modRun id fun r => { r with fabSince := some (r.fabSince.getD s.now) }))) ∧
   (∀ (s : State) (id : CmdId) (r : Run) (since : Nat) (v : State) (e : Err), s.run? id = some r → r.fabSince = some since →
     s.missing r ≠ [] →
     let u := s.passTo (since + 2 * fld (s.rd pgFab 0x104) 8 0)
     let ends (w : State) (st : Err) : Prop := exec (.fenceDrainTimeout id) s = .next ((w.modFab fun f => { f with
       reqs := f.reqs.filter fun m => !((s.covered r).map (·.tag)).contains m.tag }).modRun id fun y => { y with
         res := some st, begun := true, fabSince := none })
     u.clock.now = max s.now (since + 2 * fld (s.rd pgFab 0x104) 8 0) ∧
     (u.bankWait r = true → exec (.fenceDrainTimeout id) s = .next (u.noteBanks id)) ∧
     (u.bankWait r = false → u.missingList r (s.missing r) = (v, e) →
       (e.1 = St.notYet → exec (.fenceDrainTimeout id) s = .next u) ∧
       (e.1 ≠ St.notYet → (r.res = none → ends v e) ∧ (∀ d, r.res = some (St.ok, d) → ends (v.spoilOut r) e) ∧
         (∀ st d, r.res = some (st, d) → st ≠ St.ok → ends v (st, d))))) ∧
   (∀ (s : State) (r : Run) (ds : List Nat),
     let x := slot r.words 0
     let bytes := (ds.take x.d0).flatMap fun d => toBytes 2 d
     let incomplete : Err := (St.fenceIncomplete, BitVec.ofNat 32 ds.length)
     ((opcodeOf r.words ≠ 0x50 ∨ x.used = false) → s.missingList r ds = (s, incomplete)) ∧
     (opcodeOf r.words = 0x50 → x.used = true →
       (∀ t, s.writeBytes r.who x.space (addr64 (x.row 0 0)) bytes = .ok t → s.missingList r ds = (t, incomplete)) ∧
       (∀ e, s.writeBytes r.who x.space (addr64 (x.row 0 0)) bytes = .error e → s.missingList r ds = (s, e))))) ∧
  (∀ (s : State) (id : CmdId) (r : Run) (st : Byte) (d : W32) (x : Option W64) (h : Bool), s.run? id = some r → r.res = some (st, d) →
     let arm (r : Run) : Run := { r with fabSince := some (r.fabSince.getD s.now) }
     (st = St.ok → s.awaits id = true → exec (.commandCompletion id x h) s = .next s) ∧
     (st = St.ok → s.awaits id = false → r.list = none → ffab r.words = true → r.begun = true → s.covered r ≠ [] →
       exec (.commandCompletion id x h) s = .next (s.modRun id arm)) ∧
     (st ≠ St.ok → st ≠ St.tornDown → ffab r.words = true → r.begun = true → (s.forget id).covered r ≠ [] →
       exec (.commandCompletion id x h) s = .next ((s.forget id).modRun id arm)))

/-- R61, R63, R64: EVENT_SIGNAL adds to a counter of this hive, or issues an atomic add to another hive's and ends once that has answered;
EVENT_WAIT ends once its counter is reached, or has been since it started, and otherwise waits; at its TIMEOUT it ends with `EVT_TIMEOUT`
and the counter's value; TIMESTAMP writes the time of its start. R63: writes of `EVT_VALUE` and `EVT_ADD` set or add to the counter that
`EVT_SEL` selects, modulo 2^32, whatever the context's state; on a counter that the context does not own they are discarded and set
DOORBELL_DROP. Every fetched command's waits are tested with the new value (R60).
When waits are looked at is the model's reading (log entry 71). -/
def Obligations.EventCommandsComplete : Prop :=
  ((∀ (s : State) (id : CmdId) (r : Run), running s id r 0x51 →
     let w := r.words
     let ctr := fld (wd w 29) 15 0
     let q : Req := ⟨fld (wd w 29) 31 16 * 2 ^ 48 + 3 * 2 ^ 44 + ctr, 3, 1, false, 4, toBytes 4 (wd w 30).toNat⟩
     let issued (t : Run) : Run := { t with phase := 2 }
     (bit (wd w 31) 0 = false → exec (.eventSignal id) s = .next ((s.signal id.ctx.val r.slot ctr (wd w 30)).endRun id St.ok 0)) ∧
     (bit (wd w 31) 0 = true → r.phase < 2 → s.isLocal q.addr = false →
       exec (.eventSignal id) s = .next ((s.issue r q 0).modRun id issued)) ∧
     (bit (wd w 31) 0 = true → 2 ≤ r.phase → (s.awaits id = true → exec (.eventSignal id) s = .next s) ∧
       (s.awaits id = false → exec (.eventSignal id) s = .next (s.endRun id (r.err.getD (St.ok, 0)).1 (r.err.getD (St.ok, 0)).2))) ∧
     (∀ d u, bit (wd w 31) 0 = true → r.phase < 2 → r.err = none → s.awaits id = false → s.isLocal q.addr = true →
       s.serveLocal id.ctx.val q false = .ok (d, u) →
       exec (.eventSignal id) s = .next ((u.modRun id issued).endRun id St.ok 0)) ∧
     (∀ e, bit (wd w 31) 0 = true → r.phase < 2 → s.isLocal q.addr = true → s.serveLocal id.ctx.val q false = .error e →
       exec (.eventSignal id) s = .next (if e.1 = St.notYet then s.noteWindow e.2 else s.endRun id e.1 e.2))) ∧
   (∀ (s : State) (id : CmdId) (r : Run), running s id r 0x52 →
     let ctr := fld (wd r.words 29) 15 0
     let value := s.ctrView id.ctx.val (if r.slot.isSome then some (specTag r.words) else none) ctr
     let met := r.met = true ∨ sub32 value (wd r.words 30) < 2 ^ 31
     (met → exec (.eventWait id) s = .next (s.endRun id St.ok 0)) ∧ (¬ met → exec (.eventWait id) s = .next s) ∧
     (wd r.words 31 = 0 → exec (.eventWaitTimeout id) s = .next s) ∧
     (wd r.words 31 ≠ 0 →
       let u := s.passTo (r.start + (wd r.words 31).toNat)
       u.clock.now = max s.now (r.start + (wd r.words 31).toNat) ∧
       (met → exec (.eventWaitTimeout id) s = .next (u.endRun id St.ok 0)) ∧
       (¬ met → exec (.eventWaitTimeout id) s = .next (u.endRun id St.evtTimeout value)))) ∧
   (∀ (s : State) (id : CmdId) (r : Run), running s id r 0x80 →
     let x := slot r.words 0
     let us := r.start - s.clock.epoch
     let out := s.writeBytes r.who x.space (addr64 (x.row 0 0)) (toBytes 8 (us * 1200) ++ toBytes 4 us ++ toBytes 4 (seqOf r.words).toNat)
     (s.bankWait r = true → exec (.timestamp id) s = .next (s.noteBanks id)) ∧
     (∀ u, s.bankWait r = false → out = .ok u → exec (.timestamp id) s = .next (u.endRun id St.ok 0)) ∧
     (∀ e, s.bankWait r = false → out = .error e →
       exec (.timestamp id) s = .next (if e.1 = St.notYet then s.noteWindow e.2 else s.endRun id e.1 e.2)))) ∧
  (∀ (s : State) (fn : Fin 256) (page : Fin 4096) (v : W32) (c : Nat), s.dbCtx fn.val page.val = some c → s.dbOpen = true →
     ((s.cx c).owns (s.evtSelOf c) = true →
       exec (.evtValueWrite fn page v) s = .next (s.setCtr (s.evtSelOf c) v).noteWaits ∧
       exec (.evtAddWrite fn page v) s = .next (s.setCtr (s.evtSelOf c) (s.ctr (s.evtSelOf c) + v)).noteWaits) ∧
     ((s.cx c).owns (s.evtSelOf c) = false →
       exec (.evtValueWrite fn page v) s = .next (s.ctxErr c 0) ∧ exec (.evtAddWrite fn page v) s = .next (s.ctxErr c 0)))

/-- R114 to R126, R131: SPEC_BEGIN opens an epoch on its context and its streams, or is refused by the first failing check; a command of the
context that runs then and still has accesses in the shadow range ends with `CMD_BAD_DESC` (R118). SPEC_COMMIT
waits until no tagged command of its epoch runs, then applies the pending adds and closes the epoch; a marked epoch is refused with
CTX_ERR set. SPEC_ABORT discards the epoch's tagged commands that have not started, waits for those that run, and closes the epoch with no
counter changed. A tag that names no open epoch is refused (the model's choice, log entry 90).
When waits are looked at is the model's reading (log entry 71). -/
def Obligations.EpochCommandsComplete : Prop :=
  (∀ (s : State) (id : CmdId) (r : Run), running s id r 0x60 →
    (∀ i, s.specBeginBad id.ctx.val r.words = some i → exec (.specBegin id) s = .next (s.refuseRun id St.badDesc (BitVec.ofNat 32 i))) ∧
    (s.specBeginBad id.ctx.val r.words = none →
      let e := s.newEpoch r.words
      let b := s.cutShadow id.ctx.val e
      ((∀ y ∈ s.runsOf id.ctx.val, shadowWord y e = none) → b = s) ∧
      (shadowWord r e = none → completes (.specBegin id) s fun t => t = { b with ctx := t.ctx, str := t.str, runs := t.runs } ∧ ended t id St.ok 0 ∧
        (∀ y ∈ s.runsOf id.ctx.val, (∀ z ∈ s.runs, z.id = y.id → z = y) → y.res = none →
          (y.phase < 2 ∨ (opcodeOf y.words = 0x20 ∧ copyMode y.words = 1)) → ∀ k, shadowWord y e = some k →
          ended t y.id St.badDesc (BitVec.ofNat 32 k)) ∧
        t.ctx = (b.modCx id.ctx.val fun x => { x with epochs := x.epochs ++ [e] }).ctx ∧
        e.written = [] ∧ e.adds = [] ∧ e.marked = false ∧ (e.streams.map (·.stream)) = specStreams r.words ∧
        t.str = (e.streams.foldl (fun v x => v.modStm x.stream fun m => { m with specOpen := m.specOpen ||| BitVec.ofNat 4 (2 ^ e.slot) }) b).str))) ∧
  (∀ (s : State) (id : CmdId) (r : Run), s.tablesOk → running s id r 0x61 →
    (s.bankWait r = true → exec (.specCommit id) s = .next (s.noteBanks id)) ∧
    (s.bankWait r = false →
      (s.epoch id.ctx.val (some (specNamed r.words)) = none → exec (.specCommit id) s = .next (s.refuseRun id St.badDesc 29)) ∧
      (∀ e, s.epoch id.ctx.val (some (specNamed r.words)) = some e →
        ((∃ x ∈ s.runsOf id.ctx.val, x.slot = some e.slot) → exec (.specCommit id) s = .next s) ∧
        ((∀ x ∈ s.runsOf id.ctx.val, x.slot ≠ some e.slot) →
          (e.marked = true → exec (.specCommit id) s = .next ((s.ctxErr id.ctx.val 5).refuseRun id St.badDesc 29)) ∧
          (∀ x b, e.marked = false → s.commitEpoch r e = .error (x, b) → exec (.specCommit id) s = .next (s.endRun id x.1 x.2)) ∧
          (∀ u, e.marked = false → s.commitEpoch r e = .ok u → completes (.specCommit id) s fun t => t = u ∧ ended t id St.ok 0 ∧
            (t.cx id.ctx.val).epochs = (s.cx id.ctx.val).epochs.filter (fun x => x.slot ≠ e.slot) ∧
            (e.tag, false) ∈ (t.cx id.ctx.val).fates ∧
            t.evt = (e.adds.foldl (fun v p => v.setCtr p.1 (v.ctr p.1 + p.2)) s).evt ∧ t.fab = s.fab ∧ t.boot = s.boot))))) ∧
  (∀ (s : State) (id : CmdId) (r : Run), s.tablesOk → running s id r 0x62 →
    (s.epoch id.ctx.val (some (specNamed r.words)) = none → exec (.specAbort id) s = .next (s.refuseRun id St.badDesc 29)) ∧
    (∀ e, s.epoch id.ctx.val (some (specNamed r.words)) = some e →
      let discarded (t : State) : Prop := ∀ q < 4, ∀ f ∈ (t.qu id.ctx.val q).fetched,
        specV f.words = true → specTag f.words = e.tag → f.bad ≠ none
      ((∃ x ∈ s.runsOf id.ctx.val, x.slot = some e.slot) → completes (.specAbort id) s fun t =>
        t = { s with ctx := t.ctx, queue := t.queue, cells := t.cells } ∧ discarded t ∧
        t.ctx = (s.modEpoch id.ctx.val e.slot fun x => { x with aborting := true }).ctx) ∧
      ((∀ x ∈ s.runsOf id.ctx.val, x.slot ≠ some e.slot) → completes (.specAbort id) s fun t =>
        t = { s with ctx := t.ctx, str := t.str, queue := t.queue, cells := t.cells, mem := t.mem, runs := t.runs } ∧ discarded t ∧
        ended t id St.ok 0 ∧
        (t.cx id.ctx.val).epochs = (s.cx id.ctx.val).epochs.filter (fun x => x.slot ≠ e.slot) ∧
        (e.tag, true) ∈ (t.cx id.ctx.val).fates)))

/-- R128, R330 to R336: STEP_BEGIN opens the step: RECORD writes the journal's header, REPLAY and RESUME read it, from another hive once
the loads have answered; a microcode activation that waits for its switch alone holds it back (R386). STEP_COMMIT, alone in its context with no acknowledgement missing,
mirrors what its slot 1 names, flips the commit word, writes the journal's header and closes the step, or reports a failed one; where another
hive refused or poisoned a store of the mirror or its trailer, it ends with that status before anything later (R292).
The journal's header and padding are the model's reading (log entry 54). -/
def Obligations.StepCommandsComplete : Prop :=
  (∀ (s : State) (id : CmdId) (r : Run), running s id r 0x70 →
    let c := s.cx id.ctx.val
    let w := r.words
    let x := slot w 0
    let mode := fld (wd w 31) 1 0
    let is (t : State) : Prop := exec (.stepBegin id) s = .next t
    let fin (t : State) : State := if t.awaits id then t else t.endRun id (r.err.getD (St.ok, 0)).1 (r.err.getD (St.ok, 0)).2
    let go (u : State) (count used : Nat) : Prop := is (fin ((u.openStep r count used).modRun id fun t => { t with phase := 2 }))
    let fails (e : Err) : Prop := is (if e.1 = St.notYet then s.noteWindow e.2 else s.endRun id e.1 e.2)
    (2 ≤ r.phase → is (fin s)) ∧
    let holds := r.phase = 0 ∧ s.sec.uc = .waiting ∧ ∀ p ∈ s.ctx, p.2.step.st ≠ .opened
    (r.phase < 2 → (c.step.st = .opened ∨ c.epochs ≠ []) → is (s.refuseRun id St.badDesc 0)) ∧
    (r.phase < 2 → c.step.st ≠ .opened → c.epochs = [] → holds → is s) ∧
    (r.phase < 2 → ¬ holds → c.step.st ≠ .opened → c.epochs = [] →
      (mode = 0 → go s 0 64) ∧
      (∀ u, mode = 1 → s.anyWrite r x.space x.base (journalHeader id.ctx.val w) = .ok u → go u 0 64) ∧
      (∀ e, mode = 1 → s.anyWrite r x.space x.base (journalHeader id.ctx.val w) = .error e → fails e) ∧
      (2 ≤ mode → r.phase = 0 → x.space = 5 → is ((s.issueLoads r [(0, x.base, 64)]).modRun id fun t => { t with phase := 1 })) ∧
      (2 ≤ mode → (r.phase ≠ 0 ∨ x.space ≠ 5) →
        (s.awaits id = true → is s) ∧
        (∀ e, s.awaits id = false → r.err = some e → is (s.endRun id e.1 e.2)) ∧
        (∀ e, s.awaits id = false → r.err = none → s.anyBytes r 0 x.space x.base 64 = .error e → is (s.endRun id e.1 e.2)) ∧
        (∀ bs, s.awaits id = false → r.err = none → s.anyBytes r 0 x.space x.base 64 = .ok bs →
          let h := bytesToWords 16 bs
          let good := wd h 0 = 0x4A524E31 ∧ wd h 2 = wd w 29 ∧ wd h 3 = wd w 30
          (good → go (if wd h 4 = devRev then s else s.ctxErr id.ctx.val 7) (wd h 5).toNat (min (wd h 6).toNat (x.d1 * 64))) ∧
          (¬ good → is ((s.ctxErr id.ctx.val 5).refuseRun id St.badDesc 29)))))) ∧
  (∀ (s : State) (id : CmdId) (r : Run), running s id r 0x71 →
    let st := (s.cx id.ctx.val).step
    let x := slot r.words 0
    let s' := s.modRun id fun t => { t with fabSince := none }
    let is (t : State) : Prop := exec (.stepCommit id) s = .next t
    let fin (t : State) : State := if t.awaits id then t else t.endRun id (r.err.getD (St.ok, 0)).1 (r.err.getD (St.ok, 0)).2
    let fails (e : Err) : Prop := is (if e.1 = St.notYet then s'.noteWindow e.2 else s'.endRun id e.1 e.2)
    let held (t : State) : State := if (t.covered r).isEmpty then t else t.armFab id
    let none' := st.st = .none ∨ (s.cx id.ctx.val).epochs ≠ []
    let alone := ∀ y ∈ s.runsOf id.ctx.val, y.id = id
    (r.phase = 3 → is (fin s)) ∧
    (r.phase ≠ 3 → none' → is (s.refuseRun id St.badDesc 0)) ∧
    (r.phase ≠ 3 → ¬ none' → ¬ alone → is s) ∧
    (r.phase ≠ 3 → ¬ none' → alone → s.covered r ≠ [] → is (s.armFab id)) ∧
    (r.phase ≠ 3 → ¬ none' → alone → s.covered r = [] → st.st = .failed →
      is ((s.closeStep id.ctx.val).endRun id St.stepFailed (st.fail.setWidth 32))) ∧
    (r.phase ≠ 3 → ¬ none' → alone → s.covered r = [] → st.st = .opened → ∀ e, r.err = some e → is (s.endRun id e.1 e.2)) ∧
    (r.phase ≠ 3 → ¬ none' → alone → s.covered r = [] → st.st = .opened → r.err = none →
      (bit (wd r.words 29) 31 = true → r.phase = 0 → ∀ data u, s'.mirrorBytes r = .ok data →
        (s'.swapPorts r [0] [gHive (mirrorGa r.words)]).anyWrite r 5 (mirrorGa r.words) data = .ok u → is (held (u.modRun id fun t => { t with phase := 1 }))) ∧
      (bit (wd r.words 29) 31 = true → r.phase = 1 → ∀ data w0 u, s'.mirrorBytes r = .ok data → s'.commitWord r = .ok w0 →
        s'.anyWrite r 5 (mirrorGa r.words + pad64 data.length) (trailerBytes w0 st.num data) = .ok u →
        is (held (u.modRun id fun t => { t with phase := 2 }))) ∧
      (∀ e, bit (wd r.words 29) 31 = true → r.phase < 2 → s'.mirrorStep r = .error e → fails e) ∧
      (∀ w0 u v, (bit (wd r.words 29) 31 = false ∨ r.phase = 2) → s'.commitWord r = .ok w0 →
        s'.writeBytes r.who x.space (addr64 (x.row 0 0)) (toBytes 4 ((w0 % 2 ^ 32) ^^^ 1) ++ toBytes 4 st.num.toNat) = .ok u →
        (((st.mode = 0 ∨ st.mode = 2) ∧ v = u) ∨ ((st.mode = 1 ∨ st.mode = 3) ∧
          u.anyWrite r st.slot.space (st.slot.base + 20) (toBytes 4 st.count ++ toBytes 4 st.used) = .ok v)) →
        is (fin ((v.closeStep id.ctx.val).modRun id fun t => { t with phase := 3 }))) ∧
      (∀ e, (bit (wd r.words 29) 31 = false ∨ r.phase = 2) → s'.commitStep r = .error e → fails e)))

/-! ### Memory management, scrubbing, repair -/

/-- R184, R187: INVAL, KVL_SET, KVL_READ and POOL_ADD, each with its refusals in order. R187, R190, R191, R222: the direct area's pages
are assigned to an open context and released zeroed; pages beyond the area are refused (for DIR_RELEASE the model's choice, log entry 25);
RET_READ answers an entry of the list of retired pages, and beyond it a free value. While the page is not ready, nothing happens. -/
def Obligations.MemoryManagementCompletes : Prop :=
  (∀ (s : State) (c : Nat), s.pageUse pgMm = true →
     let a0 := s.rd pgMm 0x104
     let a1 := s.rd pgMm 0x108
     let a2 := s.rd pgMm 0x10C
     let answers (i : Instr) (t : State) (st : W32) : Prop := exec i s = .next (t.wr pgMm 0x110 st)
     (fld a0 31 12 ≠ 0 → answers .inval s 0x02 ∧ answers .kvlSet s 0x02 ∧ answers .kvlRead s 0x02 ∧ answers .dirAssign s 0x02) ∧
     (fld a0 31 12 = 0 → c = fld a0 11 0 →
       answers .inval (s.modMem fun m => { m with
         serial := m.serial + 1, invals := m.invals ++ [⟨c, a1.toNat, a2.toNat, m.serial + 1⟩] }) 0 ∧
       answers .kvlRead (s.wr pgMm 0x114 (BitVec.ofNat 32 (s.cx c).rslab)) 0 ∧
       ((fld a1 4 0 < 1 ∨ fld a1 4 0 > 16) → answers .kvlSet s 0x02) ∧
       (1 ≤ fld a1 4 0 → fld a1 4 0 ≤ 16 → ((s.cx c).st ≠ .opened ∨ s.streamsOf c ≠ []) → answers .kvlSet s 0x01) ∧
       (1 ≤ fld a1 4 0 → fld a1 4 0 ≤ 16 → (s.cx c).st = .opened → s.streamsOf c = [] →
         answers .kvlSet (s.modCx c fun r => { r with rslab := fld a1 4 0 }) 0)) ∧
     (fld a0 31 24 ≠ 0 → answers .poolAdd s 0x07 ∧ answers .ptWrite s 0x07 ∧ answers .ptRead s 0x07 ∧ answers .ptClear s 0x07) ∧
     (∀ p n, fld a0 31 24 = 0 → p = fld a0 23 0 → n = a1.toNat →
       ((p + n > 2 ^ 24 ∨ (∃ x ∈ s.mem.pool, p ≤ x.1 ∧ x.1 < p + n) ∨ (∃ e ∈ s.mem.retired, p ≤ fld e 23 0 ∧ fld e 23 0 < p + n) ∨
         (∃ q ∈ s.mem.retiredOver, p ≤ q ∧ q < p + n) ∨ (∃ q, p ≤ q ∧ q < p + n ∧ s.stackUp (stackOf q) = false)) →
         answers .poolAdd s 0x07) ∧
       (p + n ≤ 2 ^ 24 → (∀ x ∈ s.mem.pool, ¬ (p ≤ x.1 ∧ x.1 < p + n)) → (∀ e ∈ s.mem.retired, ¬ (p ≤ fld e 23 0 ∧ fld e 23 0 < p + n)) →
         (∀ q ∈ s.mem.retiredOver, ¬ (p ≤ q ∧ q < p + n)) → (∀ q, p ≤ q → q < p + n → s.stackUp (stackOf q) = true) →
         answers .poolAdd (s.modMem fun m => { m with pool := (m.pool.filter fun x => x.1 < p) ++
           ((List.range n).map fun i => (p + i, PoolPage.free)) ++ m.pool.filter fun x => p + n ≤ x.1 }) 0))) ∧
  (∀ (s : State) (c : Instr), s.pageUse pgMm = false →
     c ∈ [Instr.inval, .kvlSet, .kvlRead, .poolAdd, .dirAssign, .dirRelease, .retRead, .ptWrite, .ptRead, .ptClear] → exec c s = .next s) ∧
  (∀ (s : State) (c : Nat) (l : List Nat), s.pageUse pgMm = true →
     let a0 := s.rd pgMm 0x104
     let answers (i : Instr) (t : State) (st : W32) : Prop := exec i s = .next (t.wr pgMm 0x110 st)
     (fld a0 31 12 = 0 → c = fld a0 11 0 → (s.cx c).st ≠ .opened → answers .dirAssign s 0x01) ∧
     (fld a0 31 12 = 0 → c = fld a0 11 0 → (s.cx c).st = .opened → s.directRange = none → answers .dirAssign s 0x08) ∧
     (fld a0 31 12 = 0 → c = fld a0 11 0 → (s.cx c).st = .opened → s.directRange = some l →
       ((∃ d ∈ l, Tab.get none s.mem.directOwner d ≠ none) → answers .dirAssign s 0x07) ∧
       ((∀ d ∈ l, Tab.get none s.mem.directOwner d = none) → answers .dirAssign (s.modMem fun m => { m with
         directOwner := l.foldl (fun t d => Tab.set none t d (some c)) m.directOwner }) 0)) ∧
     (s.directRange = some l → completes .dirRelease s fun t => t.regs = (s.wr pgMm 0x110 0).regs ∧
       t = { s with mem := t.mem, regs := t.regs } ∧ t.mem = { s.mem with
         direct := t.mem.direct, directPoison := t.mem.directPoison
         directOwner := l.foldl (fun o d => Tab.set none o d none) s.mem.directOwner } ∧
       ∀ d ∈ l, ∀ x ∈ t.mem.direct, ¬ (d / 384 * 2 ^ 26 + d % 384 * 65536 ≤ x.1 ∧ x.1 < d / 384 * 2 ^ 26 + d % 384 * 65536 + 65536)) ∧
     (s.directRange = none → answers .dirRelease s 0x08) ∧
     (∀ e, s.mem.retired[a0.toNat]? = some e → answers .retRead (s.wr pgMm 0x114 e) 0) ∧
     (s.mem.retired[a0.toNat]? = none → answers .retRead (s.draw.wr pgMm 0x114 (Config.freeWord s.free 0)) 0))

/-- R181, R187: PT_WRITE stores the entry under the table key, PT_READ answers it, PT_CLEAR stores zeros in the first 32 KB of the
page; a page of the KV pool, a retired one or one of an absent stack is refused. A poisoned entry reads as a free value. -/
def Obligations.TablePageOperationsComplete : Prop :=
  ∀ (s : State) (p i : Nat), s.tablesOk → s.memOk → s.pageUse pgMm = true →
    let a0 := s.rd pgMm 0x104
    let answers (i : Instr) (t : State) (st : W32) : Prop := exec i s = .next (t.wr pgMm 0x110 st)
    fld a0 31 24 = 0 → p = fld a0 23 0 → i = fld (s.rd pgMm 0x108) 11 0 →
    (s.badTable p = true → answers .ptWrite s 0x07 ∧ answers .ptRead s 0x07 ∧ answers .ptClear s 0x07) ∧
    (s.badTable p = false →
      (let e := BitVec.ofNat 64 ((s.rd pgMm 0x144).toNat * 2 ^ 32 + (s.rd pgMm 0x140).toNat)
       completes .ptWrite s fun t => t = { s with mem := t.mem, regs := t.regs } ∧ t.regs = (s.wr pgMm 0x110 0).regs ∧
         t.mem.hbm = (s.mem.hbmWrite s.ptKey (p * 65536 + 8 * i) (toBytes 8 e.toNat)).hbm ∧ t.ptEntry p i = .ok e) ∧
      (∀ e, s.ptEntry p i = .ok e →
        answers .ptRead ((s.wr pgMm 0x140 (BitVec.ofNat 32 e.toNat)).wr pgMm 0x144 (BitVec.ofNat 32 (e.toNat / 2 ^ 32))) 0) ∧
      (∀ e, s.ptEntry p i = .error e → ∃ v : W64,
        answers .ptRead ((s.draw.wr pgMm 0x140 (BitVec.ofNat 32 v.toNat)).wr pgMm 0x144 (BitVec.ofNat 32 (v.toNat / 2 ^ 32))) 0) ∧
      completes .ptClear s fun t => t = { s with mem := t.mem, regs := t.regs } ∧ t.regs = (s.wr pgMm 0x110 0).regs ∧
        t.mem.hbm = (s.mem.hbmWrite s.ptKey (p * 65536) (List.replicate 32768 0)).hbm)

/-- R442: a host access through BAR4 reads or writes the virtual memory of the window's context; a read that would fault is aborted,
such a write is discarded; a fenced hive answers no read (R325), nor does BAR4 beyond its size (R438). One whose HBM is not served waits, and
later ones wait behind it (the model's choice, log entry 82).
What the window answers for a FREE context is the model's reading (log entry 61). -/
def Obligations.WindowAccessesComplete : Prop :=
  ∀ (s : State) (off : BitVec 40) (len : Nat) (data : List Byte),
    let w := s.bar4At off.toNat
    let none' := s.fenced = true ∨ s.bar4Size ≤ off.toNat
    (none' → exec (.bar4Read off len) s = .next (s.emit .unsupported) ∧ exec (.bar4Write off data) s = .next s) ∧
    (¬ none' →
      (w = none → exec (.bar4Read off len) s = .next (s.emit .completerAbort) ∧ exec (.bar4Write off data) s = .next s) ∧
      (∀ c va, w = some (c, va) →
        let who : Who := ⟨c, 0, none, none⟩
        let waits (l : List HostAcc) : State := s.modMem fun m => { m with bar4 := l }
        (s.mem.bar4 = [] →
          (∀ bs, s.readBytes who 1 va len = .ok bs → exec (.bar4Read off len) s = .next (s.emit (.readDone bs))) ∧
          (∀ e, s.readBytes who 1 va len = .error e → e.1 ≠ St.notYet → exec (.bar4Read off len) s = .next (s.emit .completerAbort)) ∧
          (∀ e, s.readBytes who 1 va len = .error e → e.1 = St.notYet → exec (.bar4Read off len) s = .next (waits [⟨c, va, len, none⟩])) ∧
          (∀ t, s.writeBytes who 1 va data = .ok t → exec (.bar4Write off data) s = .next (t.modMem fun m => { m with bar4 := [] })) ∧
          (∀ e, s.writeBytes who 1 va data = .error e → e.1 ≠ St.notYet → exec (.bar4Write off data) s = .next s) ∧
          (∀ e, s.writeBytes who 1 va data = .error e → e.1 = St.notYet →
            exec (.bar4Write off data) s = .next (waits [⟨c, va, data.length, some data⟩]))) ∧
        (∀ x l, s.mem.bar4 = x :: l → s.bar4Serve x = none →
          exec (.bar4Read off len) s = .next (waits (x :: l ++ [⟨c, va, len, none⟩])) ∧
          exec (.bar4Write off data) s = .next (waits (x :: l ++ [⟨c, va, data.length, some data⟩])))))

/-- R177, R201, R205, R218: a scrubbed word with a double error is poisoned, a single error and a report of the on-die ECC are counted, a
clean word changes nothing; a row's fourth corrected error within 24 hours is repaired, and HBM's double error triggers a repair at once:
a soft repair where the bank has a spare, a hard repair of a row repaired hard before, else the page is retired. A word of a cache line
holds a free word of the slice's own stacks (the model's choice, log entry 13); what is not in service is not scrubbed.
The map from pages to rows is free (log entry 9), and the reason of a retirement is the model's reading (log entry 49). -/
def Obligations.ScrubbersComplete : Prop :=
  (∀ (s : State) (word : BitVec 38) (spare : Bool),
    let st := stackOf (4 * word.toNat / 65536)
    let row := rowOf (4 * word.toNat)
    let near := ((s.mem.row row).errs.filter fun t => s.now < t + 86400000000)
    let one := (s.countError (unitStack (rowStack row))).modMem fun m => m.modRow row fun r => { r with errs := near ++ [s.now] }
    ((s.stackUp st = false ∨ s.starved ownPart word.toNat = true) → ∀ f, exec (.patrolScrub word f spare) s = .next s) ∧
    (s.stackUp st = true → s.starved ownPart word.toNat = false →
      exec (.patrolScrub word .clean spare) s = .next s ∧
      exec (.patrolScrub word .report spare) s = .next (s.countError (unitStack st)) ∧
      (near.length < 3 → exec (.patrolScrub word .single spare) s = .next one) ∧
      (near.length ≥ 3 → exec (.patrolScrub word .single spare) s = .next (one.rowTrigger row spare)) ∧
      exec (.patrolScrub word .double spare) s =
        .next ((s.modMem fun m => { m with hbmPoison := Tab.set false m.hbmPoison word.toNat true
                                           lines := m.lines.filter fun x => x ≠ word.toNat }).rowTrigger row spare))) ∧
  (∀ (s : State) (row : Nat),
    let soft := s.modMem fun m => m.modRow row fun r => { r with soft := true, errs := [] }
    let r := s.mem.row row
    (r.hard = 0 → s.rowTrigger row true =
      (soft.logEvent 0x30 (unitStack (rowStack row)) (rowBank row) (rowNumber row)).askWrite .flush ∧
      s.rowTrigger row false = s.retirePage (row / 64) 1) ∧
    (r.hard ≠ 0 → ∀ spare, (s.mem.budgetLeft (rowBank row) ≠ 0 → s.rowTrigger row spare = (soft.askWrite .flush).askWrite (.hard row false)) ∧
      (s.mem.budgetLeft (rowBank row) = 0 → s.rowTrigger row spare = s.retirePage (row / 64) 2))) ∧
  (∀ (s : State) (cell : Fin 128) (word : BitVec 22),
    (s.cellReady cell.val = false → ∀ f, exec (.spadScrub cell word f) s = .next s) ∧
    (s.cellReady cell.val = true →
      exec (.spadScrub cell word .clean) s = .next s ∧ exec (.spadScrub cell word .report) s = .next s ∧
      (∀ p, s.physOf cell.val = some p → exec (.spadScrub cell word .single) s = .next (s.countError p)) ∧
      exec (.spadScrub cell word .double) s = .next (s.modMem fun m => { m with
        spadPoison := Tab.set false m.spadPoison (cell.val * 2 ^ 22 + word.toNat) true }))) ∧
  (∀ (s : State) (slice : Fin 8) (word : BitVec 24),
    ((s.boot.sdReady.getLsbD slice.val = false ∨ 4 * word.toNat ≥ 48 * 2 ^ 20) → ∀ f, exec (.cacheScrub slice word f) s = .next s) ∧
    (s.boot.sdReady.getLsbD slice.val = true → 4 * word.toNat < 48 * 2 ^ 20 →
      exec (.cacheScrub slice word .clean) s = .next s ∧ exec (.cacheScrub slice word .report) s = .next s ∧
      exec (.cacheScrub slice word .single) s = .next (s.countError (0x98 + slice.val)) ∧
      (4 * word.toNat < s.directPages * 65536 → exec (.cacheScrub slice word .double) s = .next (s.modMem fun m => { m with
        directPoison := Tab.set false m.directPoison (slice.val * 2 ^ 24 + word.toNat) true })) ∧
      (4 * word.toNat ≥ s.directPages * 65536 → completes (.cacheScrub slice word .double) s fun t =>
        (t = s.draw ∨ ∃ h < 2 ^ 38, stackOf (4 * h / 65536) / 2 = slice.val ∧ h ∈ t.mem.lines ∧
          t = { s.draw with mem := { s.mem with hbmPoison := Tab.set false s.mem.hbmPoison h true, lines := t.mem.lines } }))))

/-- R218, R220, R223, R224: repair and migration commands. HARD_GO requests one hard repair for each pending row of its die and is
busy until the last has run; BUDGET answers what is left of a bank's budget; the wrapper's registers work while a token has unlocked
STACK, and what the wrapper answers is free; a stack that it takes out of service, or gives back, changes its die's readiness (R431); a retired KV page is replaced by a newly allocated one, which holds what it held, and the
count of pages stays the same; where none can be allocated the page stays. R206 to R209: a cycle of a stack's regulator adds 5 × min(MIN,
CAP) and 5 × CAP tokens to each partition's buckets, as far as their depth, and gives each of its sector slots to the next partition in
turn whose requests wait there, with CAP not 0 and 64 tokens in both buckets, else in the second. Which requests wait is the command's
operand; a host access through BAR4 that waits is tried again after it (the model's choices, log entry 82). -/
def Obligations.RepairCommandsComplete : Prop :=
  ((∀ (s : State) (sd : Fin 8), s.pageUse (pgSd sd.val) = true →
     (s.power.goes sd.val = true → exec (.hardGo sd) s = .next s ∧ exec (.budget sd) s = .next s) ∧
     (s.power.goes sd.val = false →
       (s.pendingRows sd.val = [] → exec (.hardGo sd) s = .next (s.wr (pgSd sd.val) 0x118 0)) ∧
       (s.pendingRows sd.val ≠ [] → exec (.hardGo sd) s = .next ((s.modPower fun p => { p with
         writes := p.writes ++ (s.pendingRows sd.val).map fun r => .hard r true }).wr (pgSd sd.val) 0x118 0x80000000)) ∧
       (let a := s.rd (pgSd sd.val) 0x114
        let bank := (2 * sd.val + b2n (bit a 31)) * 2 ^ 14 + fld a 29 24 * 2 ^ 8 + fld a 23 16
        exec (.budget sd) s =
          .next ((s.wr (pgSd sd.val) 0x120 (BitVec.ofNat 32 (min 255 (s.mem.budgetLeft bank)))).wr (pgSd sd.val) 0x118 0)))) ∧
   (∀ (s : State) (sd : Fin 8) (data : Bool) (v : W32),
     (s.pageUse (pgSd sd.val) = false → exec (.hardGo sd) s = .next s ∧ exec (.budget sd) s = .next s ∧
       exec (.t1500Access sd data (some v)) s = .next s ∧
       exec (.t1500Access sd data none) s = .next (s.emit (if s.fenced then .unsupported else .readDone [0, 0, 0, 0]))) ∧
     (s.pageUse (pgSd sd.val) = true → ¬ (s.sec.dbg = .unlocked ∧ s.sec.scope.getLsbD 0 = true) →
       exec (.t1500Access sd data (some v)) s = .next s ∧
       exec (.t1500Access sd data none) s = .next (s.emit (.readDone [0, 0, 0, 0]))) ∧
     (s.pageUse (pgSd sd.val) = true → s.sec.dbg = .unlocked → s.sec.scope.getLsbD 0 = true →
       exec (.t1500Access sd true (some v)) s = .next (s.wr (pgSd sd.val) 0x144 v) ∧
       exec (.t1500Access sd false none) s = .next (s.emit (.readDone (toBytes 4 (s.rd (pgSd sd.val) 0x140).toNat))) ∧
       exec (.t1500Access sd true none) s = .next (s.draw.emit (.readDone (toBytes 4 (Config.freeWord s.free 0).toNat))) ∧
       (s.mem.bar4 = [] → completes (.t1500Access sd false (some v)) s fun t =>
         t = { s with boot := { s.boot with stackOut := t.boot.stackOut }, regs := t.regs, out := t.out, msixPend := t.msixPend } ∧
         (∀ st < 16, t.boot.stackOut.getLsbD st = if st / 2 = sd.val then bit v 0 else s.boot.stackOut.getLsbD st) ∧
         (t.boot.stackOut = s.boot.stackOut → t.regs = (s.wr (pgSd sd.val) 0x140 v).regs) ∧
         ∀ p ∈ pages, (s.wr (pgSd sd.val) 0x140 v).blkReady p ≠ t.blkReady p → bit (t.rd p 0x18) 2 = true))) ∧
   (∀ (s : State) (stream : Fin 16384) (ppn : BitVec 24), s.tablesOk → s.memOk →
     let m := s.stm stream.val
     let may := m.live = true ∧ s.mem.isRetired ppn.toNat = true ∧ s.kvIdle stream.val = true ∧ s.stackUp (stackOf ppn.toNat) = true ∧
       s.starved (s.cx m.ctx).bwPart ppn.toNat = false
     (¬ may → exec (.kvPageMigrate stream ppn) s = .next s) ∧
     (∀ e, s.kvTake m.ctx = .error e → exec (.kvPageMigrate stream ppn) s = .next s) ∧
     (∀ q u, may → ppn.toNat ∈ s.chainPages stream.val → s.kvTake m.ctx = .ok (q, u) →
       completes (.kvPageMigrate stream ppn) s fun t => t = { s with ctx := t.ctx, str := t.str, mem := t.mem } ∧
         (t.cx m.ctx).kvUsed = (s.cx m.ctx).kvUsed ∧
         (m.kvHas = true → m.kvHead = ppn → (t.stm stream.val).kvHead = BitVec.ofNat 24 q) ∧
         (let k := s.ctxKey m.ctx
          let w := u.modMem fun x => x.copyPage k ppn.toNat q
          k ≠ none → (s.cx m.ctx).rslab ≤ 16 → ppn.toNat ∉ w.allIndexes stream.val → q ∉ w.allIndexes stream.val →
            t.mem.hbmBytes k (q * 65536) 65536 = u.mem.hbmBytes k (ppn.toNat * 65536) 65536)))) ∧
  (∀ (s : State) (stack : Fin 16) (slots : List W64) (k : Fin 21),
     let full (t : State) (p : Nat) : Bucket :=
       let b := t.bucket stack.val p
       ⟨min (b.g + 5 * min (t.bwMin p) (t.bwCap p)) (t.bwDepth p), min (b.c + 5 * t.bwCap p) (t.bwDepth p)⟩
     let u := (List.range 64).foldl (fun (t : State) p => { t with buckets := Tab.set {} t.buckets (stack.val * 64 + p) (full t p) }) s
     let n := if s.power.hot (34 + stack.val) ∨ s.power.hot (24 + stack.val / 2) then 10 else 20
     exec (.regulatorCycle stack slots k) s = .next (((slots.take k.val).take n).foldl (fun t w => t.sectorSlot stack.val w) u).bar4Wake) ∧
  (∀ (s : State) (st : Nat) (w : W64), st < 16 →
     let last := Tab.get 63 s.rrStack st
     let may (p : Nat) : Bool := w.getLsbD p && s.named p && s.bwCap p ≠ 0 && (s.bucket st p).c ≥ 64
     ((∀ p < 64, may p = false) → s.sectorSlot st w = s) ∧
     ((∃ p < 64, may p = true) → ∃ p < 64, may p = true ∧
       ((∃ x < 64, may x = true ∧ (s.bucket st x).g ≥ 64) → (s.bucket st p).g ≥ 64) ∧
       (∀ x < 64, may x = true → ((s.bucket st p).g ≥ 64 → (s.bucket st x).g ≥ 64) →
         (p + 127 - last) % 64 ≤ (x + 127 - last) % 64 ∨ last > 63) ∧
       let b := s.bucket st p
       s.sectorSlot st w = { s with
         buckets := Tab.set {} s.buckets (st * 64 + p) ⟨if b.g ≥ 64 then b.g - 64 else b.g, b.c - 64⟩
         rrStack := Tab.set 63 s.rrStack st p }))

/-! ### The base layer and the lasers -/

/-- R226 to R228, R232: a report round changes the ledger, what a newly granted bundle expects next, and, where flits of a pair out of
service move to another grant, the replay buffers that they leave and join, only; every pair (A, B) of dies that
reports bytes then holds a bundle of B, or will once its flows have drained, where B has at least as many receive bundles in service as
dies that it must hear, none of them under retrain, and A has a transmit bundle. A bundle whose flows have drained, and whose source may end,
or whose grant names no bundle in service, hears the transmit bundle of its new grant, at the oldest LSEQ kept for it; before that, and under
retrain, nothing moves.
The order of the steps of a grant round is the model's choice (log entry 27), and the flits that a move takes along are its reading (log entry 85). -/
def Obligations.GrantLedgerCompletes : Prop :=
  (∀ (s : State) (m : List (List Nat)), s.tablesOk →
    completes (.queueReport m) s fun t => t = { s with out := t.out, base := { s.base with
      ledger := t.base.ledger, rx := t.base.rx, tx := t.base.tx, reports := t.base.reports, rr16 := t.base.rr16 } } ∧
      ∀ a < 17, ∀ b < 16, a ≠ b → (m.getD a []).getD b 0 ≠ 0 → (t.sources b).length ≤ (t.rxBundles b).length →
        (∀ i < bundlesOf b, s.frozen b i = false) → (∃ i < bundlesOf a, s.bundleState a false i ≠ 2) → t.held a b ≠ []) ∧
  (∀ (s : State) (dp : Fin 17) (b : Fin 28),
    let g := s.grantOf dp.val b.val
    (g.next = none → exec (.dropFilterRetune dp b) s = .next s) ∧
    (s.frozen dp.val b.val = true → exec (.dropFilterRetune dp b) s = .next s) ∧
    (∀ a t, g.src = some (a, t) → s.deadGrant dp.val b.val = false → (s.drained a t dp.val = false ∨ s.mayEnd dp.val b.val a = false) →
      exec (.dropFilterRetune dp b) s = .next s) ∧
    (∀ n : Nat × Nat, g.next = some n → s.frozen dp.val b.val = false → (s.deadGrant dp.val b.val = true ∨
        ∀ a t, g.src = some (a, t) → s.drained a t dp.val = true ∧ s.mayEnd dp.val b.val a = true) →
      let u := (s.setGrant dp.val b.val ⟨some n, none, s.now⟩).modRx dp.val b.val fun _ => ⟨(s.dieTx n.1 n.2).firstFor dp.val, false⟩
      exec (.dropFilterRetune dp b) s = .next u.moveStranded ∧
      ((∀ p ∈ u.base.tx, ∀ f ∈ p.2.replay, ∀ d ∈ f.left, u.stranded (p.1 / 32) (p.1 % 32) d = false) → u.moveStranded = u)))

/-- R229 to R232, R236, R237, R241: a flit in order is delivered to its flow, acknowledged with credit, and kept by its sender until every
die that hears it has acknowledged it; one whose CRC fails, or that a ring on the wrong line receives, makes the receiver discard the
pair's later ones; the retries send the whole replay buffer again, oldest first, at their times; a retrain retires the failing lanes at
both ends. A suspended pair carries nothing. What was sent and did not arrive is a free value (log entry 85). -/
def Obligations.DieFlitsComplete : Prop :=
  (∀ (s : State) (dp : Fin 17) (b : Fin 28) (flit : List Byte),
    let is (t : State) : Prop := exec (.dieFlitReceive dp b flit) s = .next t
    ((s.grantOf dp.val b.val).src = none → is s) ∧
    (∀ a t, (s.grantOf dp.val b.val).src = some (a, t) →
      let f := parseDie flit
      let v := (s.dieAcked dp.val a f).takeCredit f
      let w := v.noteSent a t flit f
      let r := w.dieRx dp.val b.val
      let good := dieCrcOk flit = true ∧ s.ringsBad a t dp.val b.val = false
      (s.pairStill a t dp.val b.val = true → is s) ∧
      (s.pairStill a t dp.val b.val = false → ¬ good → completes (.dieFlitReceive dp b flit) s fun u =>
        u = { s with base := u.base, out := u.out, free := u.free, health := u.health, log := u.log } ∧
          (u.dieRx dp.val b.val).failing = true ∧ (u.dieRx dp.val b.val).next = (s.dieRx dp.val b.val).next) ∧
      (s.pairStill a t dp.val b.val = false → good → f.type > 1 → is v) ∧
      (s.pairStill a t dp.val b.val = false → good → f.type ≤ 1 →
        let late := f.lseq = (v.dieTx a t).next ∧ v.maySend a t (s.grantOf dp.val b.val).next.isSome f = false
        (late → is v) ∧
        (¬ late → f.lseq = (v.dieRx dp.val b.val).next → is (((w.modRx dp.val b.val fun x =>
          { x with next := x.next + 1, failing := false }).deliverDie dp.val f).sendAck dp.val a t f.lseq false f.flow (cdiv f.len 64))) ∧
        (¬ late → f.lseq ≠ (v.dieRx dp.val b.val).next →
          (r.failing = true → is w) ∧
          (r.failing = false → (r.next - 1 - f.lseq).toNat < 128 → is (w.sendAck dp.val a t (r.next - 1) false 0 0)) ∧
          (r.failing = false → 128 ≤ (r.next - 1 - f.lseq).toNat →
            is ((w.modRx dp.val b.val fun x => { x with failing := true }).sendAck dp.val a t (r.next - 1) true 0 0)))))) ∧
  (∀ (s : State) (dp a : Nat) (f : DieFlit),
    let x := s.dieTx dp f.ackTxb
    let rest := x.acked a f.ackSeq
    let u := s.modTx dp f.ackTxb fun y => { y with
      replay := rest, naks := if rest.length < x.replay.length then 0 else y.naks, due := y.due && !decide (rest.length < x.replay.length) }
    (f.ackV = false → s.dieAcked dp a f = s) ∧ (f.ackV = true → f.nak = false → s.dieAcked dp a f = u) ∧
    (f.ackV = true → f.nak = true → s.dieAcked dp a f = u.dieNak dp f.ackTxb) ∧
    (∀ y ∈ rest, ∃ z ∈ x.replay, y.flit = z.flit ∧ y.left ≠ [] ∧
      (((parseDie z.flit).lseq - f.ackSeq - 1).toNat ≥ 128 → a ∉ y.left))) ∧
  (∀ (s : State) (dp : Fin 17) (b : Fin 28),
    let x := s.dieTx dp.val b.val
    (¬ (x.due = true ∧ 2 ≤ x.naks ∧ x.naks ≤ 8 ∧ s.txStill dp.val b.val = false) → exec (.dieFlitRetry dp b) s = .next s) ∧
    (x.due = true → 2 ≤ x.naks → x.naks ≤ 8 → s.txStill dp.val b.val = false → completes (.dieFlitRetry dp b) s fun t =>
      t = { s with clock := t.clock, cntBanks := t.cntBanks, base := t.base, out := t.out } ∧
        t.clock.now = max s.now (x.stamp + 2 ^ (x.naks - 1)) ∧ t.out = (x.replay.reverse.map fun f => Out.dieFlit dp.val b.val f.flit) ++ s.out) ∧
    ((x.due = true ∨ s.txStill dp.val b.val = true) → exec (.dieAckTimeout dp b) s = .next s) ∧
    (x.due = false → s.txStill dp.val b.val = false →
      (∀ f l, x.replay = f :: l →
        let u := s.passTo (f.at_ + 1)
        let v := u.modTx dp.val b.val fun y => { y with
          naks := y.naks + 1, stamp := u.now, due := y.naks < 8, training := y.training || y.naks ≥ 8 }
        exec (.dieAckTimeout dp b) s = .next (if x.naks = 0 then v.dieResend dp.val b.val else v)) ∧
      (x.replay = [] → completes (.dieAckTimeout dp b) s fun t =>
        t = { s with clock := t.clock, cntBanks := t.cntBanks, base := t.base, out := t.out, free := s.free + 1 } ∧
        t.clock.now = s.now + 1 ∧ (t.dieTx dp.val b.val).replay.length = 1 ∧ (t.dieTx dp.val b.val).naks = x.naks + 1))) ∧
  (∀ (s : State) (dp peer : Fin 17) (txb rxb : Fin 28) (failTx failRx : W16),
    let spent := failTx = 0 ∧ failRx = 0 ∧ (s.dieTx dp.val txb.val).naks > 8
    ((s.grantOf peer.val rxb.val).src ≠ some (dp.val, txb.val) → exec (.bundleRetrain dp txb peer rxb failTx failRx) s = .next s) ∧
    ((s.grantOf peer.val rxb.val).src = some (dp.val, txb.val) →
      completes (.bundleRetrain dp txb peer rxb failTx failRx) s fun t =>
        (¬ spent → (t.bundle dp.val false txb.val).lost &&& failTx = failTx ∧ (t.bundle peer.val true rxb.val).lost &&& failRx = failRx) ∧
        (spent → (t.bundle dp.val false txb.val).out = true ∧ (t.bundle peer.val true rxb.val).out = true) ∧
        t.sec = s.sec ∧ t.phys = s.phys ∧ t.clock = s.clock ∧ t.health = s.health))

/-- R234, R237, R240 to R246: a dark lane whose rings are locked, and a ring that does not relock, retire their lane; a dispute ends with
the lanes that both ends have; rings that lose lock, lock to a line with another tone or relock are recorded and counted, a scout's with
the scout (R146). The slew governor keeps ten samples of a comb's power, and what it admits in between, up or down, stays within LIMIT
over the window, but for a load shed (R246); a running cell's issue duty rises by at most an eighth. R352: the power at the lands joins the
last 100, whose mean decides whether the cap paces; what draws power there beside the combs is a free value (the model's choice, log entry
86). -/
def Obligations.LanesAndRingsComplete : Prop :=
  ((∀ (s : State) (dp : Fin 17) (b : Fin 28) (l : Fin 16),
     ((b.val ≥ bundlesOf dp.val ∨ s.laneUnlocked dp.val b.val l.val = true) → exec (.laneLossOfLight dp b l) s = .next s) ∧
     (b.val < bundlesOf dp.val → s.laneUnlocked dp.val b.val l.val = false →
       completes (.laneLossOfLight dp b l) s fun t => (t.bundle dp.val true b.val).lost.getLsbD l.val = true ∧
         t.sec = s.sec ∧ t.phys = s.phys ∧ t.clock = s.clock ∧ t.health = s.health)) ∧
   (∀ (s : State) (r : Ring), (r ∉ s.base.rings → r ∉ s.base.wrong → exec (.ringRelockTimeout r) s = .next s) ∧
     (∀ u k n, r = .scout u k n → exec (.ringRelockTimeout r) s = .next s) ∧
     (∀ dp rx b l, r = .lane dp rx b l → (r ∈ s.base.rings ∨ r ∈ s.base.wrong) →
       completes (.ringRelockTimeout r) s fun t => (t.bundle dp.val rx b.val).lost.getLsbD l.val = true ∧
         t.sec = s.sec ∧ t.phys = s.phys ∧ t.clock = s.clock ∧ t.health = s.health)) ∧
   (∀ (s : State) (dp : Fin 17) (tx rx : List W16),
     let differ := ∃ b < bundlesOf dp.val, ∃ rx' : Bool, (s.bundle dp.val rx' b).dark = false ∧ (s.bundle dp.val rx' b).out = false ∧
       ∃ x, (if rx' then rx else tx)[b]? = some x ∧ x ≠ ~~~ (s.bundle dp.val rx' b).lost
     ((s.diePort dp.val).st = .up → differ →
       exec (.widthDisputed dp tx rx) s = .next (((s.modDp dp.val fun r => { r with st := .disputed }).noteReady s).notify s)) ∧
     ((s.diePort dp.val).st = .up → ¬ differ → exec (.widthDisputed dp tx rx) s = .next s) ∧
     ((s.diePort dp.val).st = .disputed → completes (.widthDisputed dp tx rx) s fun t =>
       (t.diePort dp.val).st = (if t.width dp.val false = 0 ∨ t.width dp.val true = 0 then .down else .up) ∧
       ∀ b < bundlesOf dp.val, (t.bundle dp.val false b).lost ||| tx.getD b 0xFFFF = 0xFFFF ∧
         (t.bundle dp.val true b).lost ||| rx.getD b 0xFFFF = 0xFFFF) ∧
     ((s.diePort dp.val).st ≠ .up → (s.diePort dp.val).st ≠ .disputed → exec (.widthDisputed dp tx rx) s = .next s)) ∧
   (∀ (s : State) (r : Ring) (tone : Fin 4),
     let out := (s.modBase fun x => { x with rings := x.rings ++ [r] }).bump pgBase 0x210 1
     let back := s.modBase fun x => { x with rings := x.rings.filter fun y => y ≠ r, wrong := x.wrong.filter fun y => y ≠ r }
     let own := match r with | .lane _ _ _ l => l.val % 4 | .scout _ k n => (n.val + k.val) % 4
     (r ∈ s.base.rings → exec (.ringLockLoss r) s = .next s) ∧
     (∀ dp rx b l, r = .lane dp rx b l → (r ∉ s.base.rings → exec (.ringLockLoss r) s = .next out) ∧
       exec (.ringRelock r) s = .next back) ∧
     (∀ u k n, r = .scout u k n →
       (r ∉ s.base.rings → exec (.ringLockLoss r) s = .next (if s.scoutRings u.val then out else out.scoutLoss u.val)) ∧
       exec (.ringRelock r) s = .next (if back.scoutRings u.val then back else back.scoutRelock u.val)) ∧
     ((tone.val = own ∨ r ∈ s.base.wrong) → exec (.ringWrongLock r tone) s = .next s) ∧
     (tone.val ≠ own → r ∉ s.base.wrong → exec (.ringWrongLock r tone) s =
       .next ((s.modBase fun x => { x with wrong := x.wrong ++ [r] }).bump pgBase 0x214 1)))) ∧
  (∀ (s : State) (power : List Nat), s.tablesOk → completes (.slewSample power) s fun t =>
    t = { s with
      base := { s.base with slew := t.base.slew, rise := t.base.rise, fall := t.base.fall }
      power := { s.power with totals := t.power.totals, capped := t.power.capped }
      cells := t.cells, free := t.free } ∧
    t.power.totals = ((((List.range 8).map fun c => power.getD c 0).sum + Config.otherPower s.free) :: s.power.totals).take 100 ∧
    t.power.capped = decide (t.power.totals.sum > s.capLimit * t.power.totals.length) ∧
    (∀ c < 8, Tab.get [] t.base.slew c = (power.getD c 0 :: Tab.get [] s.base.slew c).take 10 ∧
      (let l := t.samples c
       Tab.get 0 t.base.rise c ≤ s.slewLimit - 4 * (l.headD 0 - l.foldl min (l.headD 0)) ∧
       (s.power.supply = .ok ∨ t.power.totals.headD 0 ≤ shedLimit →
         Tab.get 0 t.base.fall c ≤ s.slewLimit - 4 * (l.foldl max (l.headD 0) - l.headD 0)))) ∧
    ∀ c < 128, (t.cell c).run = (s.cell c).run ∧ (t.cell c).duty ≤ (s.cell c).duty + 1 ∧
      ((s.power.supply ≠ .ok ∨ t.power.capped = true) → (t.cell c).duty ≤ (s.cell c).duty))

/-- R247 to R252: a source's margin is kept; at −1.0 dB it arms its group's spare, at −2.0 dB its substitute is chosen and a spare
warmed, at −3.5 dB without one it is retired; arming clears after 10 s at −0.5 dB; the substitute is switched in once warm, not during a
retrain of a bundle that the source feeds; a source that fails at once loses its lanes' light, which retrain, and is replaced or retired;
an inlet is ready only within the table and while enabled, and the source of one in use that is not needs another. The endpoint reports
what changed (R444). -/
def Obligations.LaserSourcesComplete : Prop :=
  ((∀ (s : State) (n : Fin 108) (m : Int),
     let r := s.source n.val
     let sp := srcSpare n.val
     let v := s.modSrc n.val fun x => { x with margin := m, goodAt := if m ≥ -50 then some (x.goodAt.getD s.now) else none }
     let sum := Tab.get (0, 0) s.log.laser n.val
     let u := if s.logOn = true ∧ r.st ≠ .off then
       v.modLog fun l => { l with laser := Tab.set (0, 0) l.laser n.val (sum.1 + m, sum.2 + 1) } else v
     let w := (u.modSrc n.val fun x => { x with st := .armed }).errSet pgLaser 0
     let a := if m ≤ -100 ∧ r.st = .active then
       (if (w.source sp).st = .spareIdle then w.modSrc sp fun x => { x with st := .spareArmed } else w) else u
     let is (t : State) : Prop := exec (.laserMonitor n m) s = .next (t.notify s)
     let free (x : Nat) (p : Nat × SrcRec) : Nat × SrcRec :=
       if p.2.subst = some x then (p.1, { p.2 with subst := none, warm := false }) else p
     (r.bears = false → is u) ∧
     (r.bears = true → (m > -200 ∨ (a.source n.val).subst ≠ none) → (m > -350 ∨ (a.source n.val).subst ≠ none) → is a) ∧
     (r.bears = true → m ≤ -200 → (a.source n.val).subst = none →
       (∀ x, a.substFor n.val = some x → x < 108 → is (((a.modBase fun b => { b with src := b.src.map (free x) }).modSrc n.val fun y =>
         { y with subst := some x, warm := false }).modSrc x fun y => { y with st := .spareWarm })) ∧
       (∀ x, a.substFor n.val = some x → 108 ≤ x → is (a.modSrc n.val fun y => { y with subst := some x, warm := true })) ∧
       (a.substFor n.val = none → m > -350 → is (if isScoutSrc (a.roleOf n.val) then
         (a.modSrc (a.roleOf n.val) fun y => { y with masked := true }).scoutsOff else a)) ∧
       (a.substFor n.val = none → m ≤ -350 → completes (.laserMonitor n m) s fun t => (t.source n.val).st = .retired ∧
         (t.source n.val).subst = none))) ∧
   (∀ (s : State) (n : Fin 108),
     let r := s.source n.val
     ((r.st ≠ .armed ∨ r.subst ≠ none ∨ r.goodAt = none) → exec (.armingClear n) s = .next s) ∧
     (∀ since, r.st = .armed → r.subst = none → r.goodAt = some since →
       let u := (s.passTo (since + 10000000)).modSrc n.val fun x => { x with st := .active }
       let sp := srcSpare n.val
       exec (.armingClear n) s = .next (if (u.source sp).st = .spareArmed ∧ ((List.range 8).all fun i => (u.source (n.val / 9 * 9 + i)).st ≠ .armed) = true then
         u.modSrc sp fun x => { x with st := .spareIdle } else u)))) ∧
  (∀ (s : State) (sp : Fin 108), ((s.source sp.val).st ≠ .spareWarm → exec (.spareWarmDone sp) s = .next s) ∧
    ((s.source sp.val).st = .spareWarm → completes (.spareWarmDone sp) s fun t => t = { s with base := { s.base with src := t.base.src } } ∧
      ∀ n, (s.source n).subst = some sp.val → (t.source n).warm = true ∧ (t.source n).subst = some sp.val)) ∧
  (∀ (s : State) (n : Fin 108),
    let r := s.source n.val
    let role := s.roleOf n.val
    let is (t : State) : Prop := exec (.spareSwitch n) s = .next (t.notify s)
    ((r.subst = none ∨ r.warm = false ∨ s.retraining role = true) → exec (.spareSwitch n) s = .next s) ∧
    (∀ x, r.subst = some x → r.warm = true → s.retraining role = false →
      let v := (s.modSrc n.val fun r => { r with st := .replaced, partner := x, subst := none, warm := false }).lightBack role
      (x < 108 → is (((v.modSrc x fun r => { r with st := .spareInUse, partner := role }).errSet
        pgLaser 1).logEvent 0x25 (unitLaser (n.val / 9)) n.val x)) ∧
      (x ≥ 108 → s.inletGood (x - 0x7E) = true → is (((v.setInlet (x - 0x7E) { v.inlet (x - 0x7E) with st := .inUse, subst := role }).errSet
        pgLaser 2).logEvent 0x27 (unitLaser (n.val / 9)) n.val x)) ∧
      (x ≥ 108 → s.inletGood (x - 0x7E) = false → is ((s.modSrc n.val fun r => { r with subst := none, warm := false }).needReplacement n.val))) ∧
    (∀ x ∈ fedBundles role, (s.bundle x.1 false x.2).dark = true → s.hearers x.1 x.2 ≠ [] →
      ((s.lightBack role).bundle x.1 false x.2).dark = true ∧ ((s.lightBack role).dieTx x.1 x.2).training = true)) ∧
  (∀ (s : State) (n : Fin 108), ((s.source n.val).bears = false → exec (.sourceAbruptFail n) s = .next s) ∧
    ((s.source n.val).bears = true → completes (.sourceAbruptFail n) s fun t => (t.source (s.roleOf n.val)).masked = true ∧
      ((t.source n.val).subst ≠ none ∨ (t.source n.val).st = .retired) ∧ (s.roleOf n.val = 70 → t.boot.hp0 = false) ∧
      ∀ x ∈ fedBundles (s.roleOf n.val), (t.bundle x.1 false x.2).dark = true ∧
        (s.hearers x.1 x.2 ≠ [] → (t.dieTx x.1 x.2).training = true))) ∧
  (∀ (s : State) (e : Fin 2) (l : InletLight),
    let r := s.inlet e.val
    let on := bit (s.rd pgLaser 0x120) e.val = true
    let inTable := l.lines = 16 ∧ -15 ≤ l.freqErr ∧ l.freqErr ≤ 15 ∧ 800 ≤ l.powMin ∧ l.powMax ≤ 1300 ∧ l.powMax - l.powMin ≤ 200 ∧ l.rin ≤ -145
    let is (t : State) : Prop := exec (.inletCheck e l) s = .next (t.notify s)
    let gone (st : ElState) : Prop := (r.st ≠ .inUse → is (s.setInlet e.val ⟨st, 0, l.powMean⟩)) ∧
      (r.st = .inUse → is (((s.setInlet e.val ⟨st, 0, l.powMean⟩).lightLost r.subst).needReplacement r.subst))
    (¬ on → gone .dark) ∧ (on → ¬ inTable → gone .bad) ∧
    (on → inTable → is (s.setInlet e.val { r with st := if r.st = .inUse then .inUse else .ready, power := l.powMean })))

/-! ### The fabric -/

/-- R263 to R267, R275, R287: the timers of a link and the end of a training. The eighth NAK in a row starts a training, an earlier one
sends everything unacknowledged again; a training starts only where the fabric and the port are enabled, the store die is ready, the port's
source gives light (R377) and the hive is not fenced (R325); a silent link, a failed training and a missing peer leave the port in the state and with the cause
that the manual gives. Identity flits, the comparison with the plan, and writes of a port's configuration: a spare's role and member may
change only while it is disabled and no enabled port holds them. In every other state of the port nothing happens. -/
def Obligations.LinkTimersAndCableCheckComplete : Prop :=
  (∀ (s : State) (p : Fin 32),
     let r := s.port p.val
     let may := bit (s.rd pgFab 0x104) 31 = true ∧ s.cpEn p.val = true ∧ s.boot.sdReady.getLsbD (p.val / 4) = true ∧
       s.roleLit (portSource p.val) = true ∧ s.fenced = false
     let live := r.st = .check ∨ r.st = .up ∨ r.st = .miscabled
     let leaves (c : Instr) (st : CpState) (cause : BitVec 4) : Prop := completes c s fun t => (t.port p.val).st = st ∧ (t.port p.val).cause = cause
     ((r.st ≠ .up ∨ r.replay = []) → exec (.linkAckTimeout p) s = .next s) ∧
     (∀ x l, r.st = .up → r.replay = x :: l →
       let u := (s.passTo (x.at_ + cdiv r.trtt 1000 + 2)).modPort p.val fun x => { x with naks := x.naks + 1 }
       (r.naks + 1 < 8 → exec (.linkAckTimeout p) s = .next ((u.resendAll p.val).notify s)) ∧
       (r.naks + 1 ≥ 8 → may → leaves (.linkAckTimeout p) .training 0) ∧
       (r.naks + 1 ≥ 8 → ¬ may → exec (.linkAckTimeout p) s = .next (u.notify s))) ∧
     (live → leaves (.linkTimeout p) .down 0x9 ∧ ∃ t, exec (.linkTimeout p) s = .next t ∧ t.clock.now = max s.now (r.lastRx + s.lto)) ∧
     (¬ live → exec (.linkTimeout p) s = .next s) ∧
     (r.st = .down → may → leaves (.trainingRetry p) .training 0 ∧
       ∃ t, exec (.trainingRetry p) s = .next t ∧ t.clock.now = max s.now (r.downAt + 1000000)) ∧
     (r.st = .down → s.cpEn p.val = true → ¬ may → exec (.trainingRetry p) s = .next ((s.passTo (r.downAt + 1000000)).notify s)) ∧
     ((r.st ≠ .down ∨ s.cpEn p.val = false) → exec (.trainingRetry p) s = .next s) ∧
     (r.st = .check → r.link ≠ .keying → leaves (.noPeerTimeout p) .miscabled 3) ∧
     ((r.st ≠ .check ∨ r.link = .keying) → exec (.noPeerTimeout p) s = .next s) ∧
     (∀ locked trtt, r.st ≠ .training → exec (.portTraining p locked trtt) s = .next s) ∧
     (r.st = .training → ∀ trtt,
       leaves (.portTraining p false trtt) .down (if r.naks ≥ 8 then 0x8 else 0xC) ∧
       (headroomOf trtt > 320 * 1024 → leaves (.portTraining p true trtt) .down 0xB) ∧
       (headroomOf trtt ≤ 320 * 1024 → exec (.portTraining p true trtt) s = .next ((s.modPort p.val fun x => { x with
         trtt := trtt, headroom := headroomOf trtt, naks := 0, st := .check, lockAt := s.now, idAt := s.now, lastRx := s.now }).notify s)))) ∧
  ((∀ (s : State) (p : Fin 32) (hive : W16) (peer : Byte) (pl : W32),
     let r := s.port p.val
     let live := r.st = .check ∨ r.st = .miscabled ∨ r.st = .up
     let u := s.passTo (r.idAt + if r.st = .up then 10000 else 100)
     let seen : W32 := BitVec.ofNat 32 (2 ^ 31 + peer.toNat % 32 * 2 ^ 24 + hive.toNat)
     let c : Instr := .identityFlit p hive peer pl
     (live → exec (.identitySend p) s = .next ((u.modPort p.val fun x => { x with idAt := u.now }).sendLocal p.val 3
       (toBytes 2 s.hive ++ [BitVec.ofNat 8 p.val, 0] ++ toBytes 4 (s.rd (pgPort p.val) 0x108).toNat))) ∧
     (¬ live → exec (.identitySend p) s = .next s ∧ exec c s = .next s) ∧
     (live → bit (s.plan p.val) 31 = false →
       completes c s fun t => (t.port p.val).seen = seen ∧ (t.port p.val).st = .miscabled ∧ (t.port p.val).cause = 4) ∧
     (live → bit (s.plan p.val) 31 = true → seen ≠ s.plan p.val → completes c s fun t => (t.port p.val).seen = seen ∧
       (t.port p.val).st = .miscabled ∧ (t.port p.val).cause = if ((List.range 32).any fun q => q ≠ p.val && s.plan q = seen) = true then 1 else 2) ∧
     (bit (s.plan p.val) 31 = true → seen = s.plan p.val → ((r.st = .check ∧ r.link ≠ .keying) ∨ r.st = .miscabled) →
       completes c s fun t => (t.port p.val).seen = seen ∧
         (s.linkEnc p.val = false → (t.port p.val).st = .up) ∧ (s.linkEnc p.val = true → (t.port p.val).st = .check ∧ (t.port p.val).link = .keying)) ∧
     (bit (s.plan p.val) 31 = true → seen = s.plan p.val → (r.st = .up ∨ (r.st = .check ∧ r.link = .keying)) →
       exec c s = .next ((s.modPort p.val fun x => { x with seen := seen, lastRx := s.now }).notify s))) ∧
   (∀ (s : State) (p : Fin 32) (v : W32), s.tablesOk →
     let r := s.port p.val
     let u := s.storeReg (pgPort p.val) 0x108 v
     let compared := r.st = .up ∨ (r.st = .miscabled ∧ r.cause ≠ 3)
     (s.pageUse (pgPort p.val) = false → exec (.cpPlanWrite p v) s = .next s ∧ exec (.cpCfgWrite p v) s = .next s ∧
       exec (.retrain p v) s = .next s) ∧
     (s.pageUse (pgPort p.val) = true → ¬ compared → exec (.cpPlanWrite p v) s = .next (u.notify s)) ∧
     (s.pageUse (pgPort p.val) = true → compared → exec (.cpPlanWrite p v) s = .next ((u.compare p.val).notify s)) ∧
     (s.pageUse (pgPort p.val) = true → r.st = .up → bit v 31 = false → completes (.cpPlanWrite p v) s fun t =>
       (t.port p.val).st = .miscabled ∧ (t.port p.val).cause = 4)) ∧
   (∀ (s : State) (p : Fin 32) (v : W32), s.tablesOk → s.pageUse (pgPort p.val) = true →
     let old := s.rd (pgPort p.val) 0x100
     let moved := fld v 18 16 ≠ fld old 18 16 ∨ fld v 13 12 ≠ fld old 13 12
     let clash := ∃ q < 32, q ≠ p.val ∧ s.cpEn q = true ∧ s.cpRole q = fld v 18 16 ∧ s.cpMember q = fld v 13 12
     let w := s.storeReg (pgPort p.val) 0x100 v
     let w := if 28 ≤ p.val ∧ moved ∧ fld v 18 16 ≠ 0 then
       w.logEvent 0x28 (unitPort p.val) p.val (fld v 18 16 * 4 + fld v 13 12) else w
     (28 ≤ p.val → ((bit old 31 = true ∧ moved) ∨ (bit old 31 = false ∧ clash)) →
       exec (.cpCfgWrite p v) s = .next ((s.errSet (pgPort p.val) 0).notify s)) ∧
     (bit old 31 = false → (p.val < 28 ∨ ¬ clash) →
       (bit v 31 = false → exec (.cpCfgWrite p v) s = .next (w.notify s)) ∧
       (bit v 31 = true → exec (.cpCfgWrite p v) s = .next ((w.train p.val).notify s))) ∧
     ((p.val < 28 ∨ ¬ moved) → bit old 31 = true → bit v 31 = false → completes (.cpCfgWrite p v) s fun t =>
       (t.port p.val).st = .off ∧ t.cpEn p.val = false) ∧
     ((p.val < 28 ∨ ¬ moved) → bit old 31 = true → bit v 31 = true → bit v 30 = false → exec (.cpCfgWrite p v) s = .next (w.notify s)) ∧
     (p.val < 28 → bit (s.rd pgFab 0x104) 31 = true → bit v 31 = true → s.roleLit (portSource p.val) = true → s.fenced = false →
       (bit old 31 = false → completes (.cpCfgWrite p v) s fun t => (t.port p.val).st = .training ∧ t.cpEn p.val = true) ∧
       completes (.retrain p v) s fun t => (t.port p.val).st = .training ∧ t.cpEn p.val = true)))

/-- R271 to R274: a takeover and a join. The peer stops the failed port and answers once its receive buffer is empty; the reply drops what
has arrived and moves the rest to the front of the ports that now carry it, where the head flits are eligible from then on; a join marker that has left the receive buffer, after the
flits before it, is answered, and the reply gives the hash set back; a reply that is missing takes the substitute down, and the handover
moves on to the next. -/
def Obligations.HandoversComplete : Prop :=
  ∀ (s : State) (p f : Fin 32), s.tablesOk →
    (∀ q, s.otherEnd p.val f.val = some q → exec (.takeoverRequest p f) s = .next (s.modPort q fun r => { r with stopFor := some p.val })) ∧
    (s.otherEnd p.val f.val = none → exec (.takeoverRequest p f) s = .next s) ∧
    (∀ q, (s.port f.val).stopFor = some q → (s.port f.val).empty = true →
      exec (.takeoverBufferDrained f) s = .next (s.sendLocal q 5 ([BitVec.ofNat 8 (fld (s.port f.val).seen 28 24), 0] ++
        toBytes 2 (s.port f.val).rxLast.toNat))) ∧
    (((s.port f.val).stopFor = none ∨ (s.port f.val).empty = false) → exec (.takeoverBufferDrained f) s = .next s) ∧
    (let m := (s.port p.val).marks.find? fun x => x.1 = f.val
     (m = none → exec (.joinMarker p f) s = .next s) ∧
     (∀ x, m = some x → s.passed p.val x.2.1 = false → exec (.joinMarker p f) s = .next s) ∧
     (∀ x, m = some x → s.passed p.val x.2.1 = true → exec (.joinMarker p f) s =
       .next ((s.modPort p.val fun r => { r.free 8 x.2.2 with marks := r.marks.erase x }).sendLocal p.val 7 [BitVec.ofNat 8 f.val]))) ∧
    (∀ lseq, (s.hashSet f.val = none ∨ ∃ n, s.hashSet f.val = some n ∧ (s.port n).hand = .none) →
      ∀ c ∈ [Instr.takeoverRequestRepeat f, .takeoverReply f lseq, .joinReply f, .handoverTimeout f], exec c s = .next s) ∧
    (∀ n q since sent lseq, s.hashSet f.val = some n → (s.port n).hand = .takeover q since sent →
      let u := s.passTo (sent + 10)
      let d := (s.passTo (since + 2 * s.lto)).portDown q 0x9
      exec (.joinReply f) s = .next s ∧
      exec (.takeoverRequestRepeat f) s = .next ((u.modPort n fun r => { r with hand := .takeover q since u.now }).sendLocal q 4 [BitVec.ofNat 8 f.val]) ∧
      (let rest := (unacked (s.port f.val).replay lseq).map (·.orig)
       let heads (k : Nat) (l : List Queued) : List Queued :=
         if k = n ∨ (s.port k).stopBy = some f.val then freshHeads s.now (fun _ => true) l [] else l
       completes (.takeoverReply f lseq) s fun t => t = { s with fab := { s.fab with ports := t.fab.ports } } ∧
        (t.port f.val).replay = [] ∧ (t.port f.val).next = lseq + 1 ∧ (t.port f.val).naks = 0 ∧ (t.port n).hand = .none ∧
        (∀ k < 28, (t.port k).stopBy ≠ some f.val ∧ (t.port k).queue = heads k (s.port k).queue ∧
          (t.port k).resend = heads k ((rest.filter fun q => setOfFlit n q.flit = k) ++ (s.port k).resend))) ∧
      exec (.handoverTimeout f) s = .next ((d.handOver f.val (d.setsOn f.val)).notify s)) ∧
    (∀ n q since lseq, s.hashSet f.val = some n → (s.port n).hand = .join q since →
      let d := (s.passTo (since + 2 * s.lto)).portDown q 0x9
      exec (.takeoverRequestRepeat f) s = .next s ∧ exec (.takeoverReply f lseq) s = .next s ∧
      exec (.joinReply f) s = .next ((s.modPort n fun r => { r with hand := .none }).renew n fun _ => true) ∧
      (d.substitute n = none → exec (.handoverTimeout f) s = .next ((d.modPort n fun r => { r with hand := .none }).notify s)) ∧
      (∀ q', d.substitute n = some q' → exec (.handoverTimeout f) s =
        .next (((d.modPort n fun r => { r with hand := .join q' d.now }).sendLocal q' 6 [BitVec.ofNat 8 f.val]).notify s)))

/-- R260 to R263, R269 to R271, R277 to R284, R293, R400: a port sends the flit that arbitration gives it, or link control; a flit that
arrives is checked, takes its acknowledgement, flow control and, in order and with space, its way: forwarded, or joined to its message,
which the last one delivers; a damaged one, or one whose tag fails (R402), is not accepted and says nothing; a port that is not up takes
no acknowledgement. That the LSEQ of a port with nothing unacknowledged follows the receiver is the model's choice (log entry 96), and so
are the units in which the rates are held (log entry 75). The tables change only while traffic toward the held destinations has
drained; the injection rates halve or double between 1/16 and 16/16 every 10 µs; a scheduled slot begins at its time, and injection in it
stops before its end. -/
def Obligations.FabricTrafficCompletes : Prop :=
  (∀ (s : State) (p : Fin 32), s.tablesOk →
    let u := s.injectAll.setXoff p.val
    let r := u.port p.val
    ((r.st = .off ∨ r.st = .down ∨ r.st = .training) → exec (.portArbitration p) s = .next u) ∧
    (r.st ≠ .off → r.st ≠ .down → r.st ≠ .training → (r.st ≠ .up ∨ s.fenced = true ∨ 2048 ≤ r.replay.length) →
      exec (.portArbitration p) s = .next (u.sendLocal p.val 2 [])) ∧
    (r.st = .up → s.fenced = false → r.replay.length < 2048 →
      (u.arbitrate p.val = none → exec (.portArbitration p) s = .next ((u.stuck p.val).sendLocal p.val 2 [])) ∧
      (∀ n q tc left, u.arbitrate p.val = some ((n, q), tc, left) → completes (.portArbitration p) s fun t =>
        (t.port p.val).next = r.next + 1 ∧ (t.port p.val).replay.length = r.replay.length + 1 ∧
        (t.port p.val).wrrTc = tc ∧ (t.port p.val).wrrLeft = left ∧ (∃ bytes, t.out = .flit p.val bytes :: s.out) ∧
        (t.port n).queue.length + (t.port n).resend.length + 1 = (u.port n).queue.length + (u.port n).resend.length))) ∧
  (∀ (s : State) (p : Fin 32) (b : List Byte) (fec : Bool) (k bad : Nat), s.tablesOk →
    let f := parseFlit b
    let r := s.port p.val
    let g := { f with hops := satAdd 7 f.hops 1 }
    let c : Instr := .chaverFlitReceive p b fec ⟨k, bad⟩
    let live := r.st = .check ∨ r.st = .miscabled ∨ r.st = .up
    (¬ live → exec c s = .next s) ∧
    (live → (fec = false ∨ flitCrcOk b = false ∨ r.tagBad b f = true) →
      completes c s fun t => (t.port p.val).failing = true ∧ (t.port p.val).rxLast = r.rxLast ∧ (t.port p.val).replay = r.replay ∧
        (t.port p.val).authFail = (if fec = true ∧ flitCrcOk b = true then satAdd 16 r.authFail 1 else r.authFail) ∧
        t.mem = s.mem ∧ t.ctx = s.ctx ∧ t.runs = s.runs) ∧
    (live → fec = true → flitCrcOk b = true → r.tagBad b f = false →
      let u := ((s.bump (pgPort p.val) 0x120 k).bump (pgPort p.val) 0x124 bad).countErrors (unitPort p.val) k
      let a := u.modPort p.val fun x => { x with lastRx := s.now }
      let v := (if r.st = .up then ((a.takeAck p.val f).takeLseq p.val f).takeNak p.val f else a.takeLseq p.val f).takeXoff p.val f
      exec c s = .next (((if f.isData then v.takeData p.val b f else v.takeLocal p.val f).setXoff p.val).notify s)) ∧
    (r.st = .up → fec = true → flitCrcOk b = true → f.isData = true → f.nak = false → r.stopFor = none → f.tc.toNat ≤ 5 →
      f.lseq = r.rxLast + 1 → r.fits f.vc = true → r.rxKey = none →
      (∀ n, s.routeOf g (s.cpRole p.val = 7) = .out n → f.mc = false → completes c s fun t =>
        (t.port p.val).rxLast = f.lseq ∧ (t.port p.val).failing = false ∧ (t.port n).queue.length = (s.port n).queue.length + 1 ∧
        t.mem = s.mem ∧ t.ctx = s.ctx ∧ t.runs = s.runs) ∧
      (s.routeOf g (s.cpRole p.val = 7) = .here → f.type = 0 → f.payload ≠ [] → completes c s fun t =>
        (t.port p.val).rxLast = f.lseq ∧ Tab.get [] t.fab.part f.msgKey = Tab.get [] s.fab.part f.msgKey ++ f.payload ∧
        t.mem = s.mem ∧ t.ctx = s.ctx ∧ t.runs = s.runs))) ∧
  (∀ (s : State) (p : Nat) (b : List Byte) (f : Flit),
    let r := s.port p
    let stays := r.st ≠ .up ∨ r.stopFor.isSome = true ∨ f.tc.toNat > 5
    let fails (u : State) : State := u.modPort p fun x => { x with failing := true }
    (stays → s.takeData p b f = s) ∧
    (¬ stays → f.lseq ≠ r.rxLast + 1 → s.takeData p b f = if (r.rxLast - f.lseq).toNat < 2 ^ 15 then s else fails s) ∧
    (¬ stays → f.lseq = r.rxLast + 1 →
      (r.fits f.vc = false → s.takeData p b f = fails s) ∧
      (r.fits f.vc = true → r.opened b f = none →
        s.takeData p b f = fails s) ∧
      (∀ pl, r.fits f.vc = true → r.opened b f = some pl → s.takeData p b f = (s.modPort p fun x => { x.hold f.vc (r.inPool f.vc) with
        rxLast := f.lseq, failing := false, rxCount := x.rxCount + 1 }).flitRoute p (r.inPool f.vc) { f with payload := pl })) ∧
    (f.type = 1 → s.consume f = (s.modFab fun a => { a with part := Tab.set [] a.part f.msgKey [] }).deliver f.cls f.src
      (Tab.get [] s.fab.part f.msgKey ++ f.payload))) ∧
  (∀ (s : State),
    (s.pageUse pgFab = false → ∀ c ∈ [Instr.rtHold, .rtSwap, .rtRelease, .rtCopy], exec c s = .next s) ∧
    (s.fab.held = true → s.rtEmpty = true → exec .rtDrained s = .next (s.modFab fun f => { f with drained := true })) ∧
    (¬ (s.fab.held = true ∧ s.rtEmpty = true) → exec .rtDrained s = .next s) ∧
    (s.pageUse pgFab = true →
      exec .rtHold s = .next (s.modFab fun f => { f with held := true, drained := false }) ∧
      (s.rtDrained = true → exec .rtSwap s = .next (s.modFab fun f => { f with hiveAct := f.hiveSh, colAct := f.colSh, refused := false })) ∧
      (s.rtDrained = false → exec .rtSwap s = .next (s.modFab fun f => { f with refused := true })) ∧
      exec .rtRelease s = .next (s.modFab fun f => { f with held := false, drained := false }).injectAll ∧
      exec .rtCopy s = .next (s.modFab fun f => { f with hiveSh := f.hiveAct, colSh := f.colAct }))) ∧
  (∀ (s : State), s.tablesOk → completes .congestionUpdate s fun t =>
    t = { s with clock := t.clock, cntBanks := t.cntBanks, fab := { s.fab with
        rate := t.fab.rate, congAt := t.clock.now, injAt := t.clock.now, injected := t.fab.injected } } ∧
      (∀ d < 6, let r := Tab.get 16 s.fab.rate d
        Tab.get 0 t.fab.injected d = if r ≥ 16 then 0 else Tab.get 0 s.fab.injected d - 235 * r * (t.clock.now - s.fab.injAt)) ∧
      t.clock.now = max s.now (s.fab.congAt + 10) ∧ (s.schedOn = true → t.fab.rate = s.fab.rate) ∧
      (s.schedOn = false → ∀ d < 6, let b := s.backlog d
        let r := Tab.get 16 s.fab.rate d
        Tab.get 16 t.fab.rate d = if b > 1024 * fld (s.rd pgFab 0x124) 31 16 then max 1 (r / 2)
          else if b < 1024 * fld (s.rd pgFab 0x124) 15 0 then min 16 (r * 2) else r)) ∧
  (∀ (s : State) (k : Fin 1024),
    let b := s.slotAt k.val
    (¬ (s.schedOn = true ∧ k.val ≤ fld (s.rd pgFab 0x140) 25 16) → exec (.schedSlotStart k) s = .next s) ∧
    (s.schedOn = true → k.val ≤ fld (s.rd pgFab 0x140) 25 16 → exec (.schedSlotStart k) s = .next ((s.passTo (b / 1000).toNat).modFab fun f => { f with
      slot := some (k.val, (b + ((fld (s.rd pgFab 0x140) 6 0 * 100 : Nat) : Int) - 100).toNat) }).injectAll))

/-- R290 to R300, R303: a request is sent when its command's earlier ones have been and its limits allow; a response gives its data or its
failure to its command; bounds, retries and the start delay of atomics bring the clock to their ends, and an atomic without an answer is
indeterminate unless every copy was discarded in this hive. A request is served by the guard, after those that wait there, under the entry of its DOMAIN as it arrived; an atomic that
came twice answers its first result without being done again. The domain table. -/
def Obligations.FabricMemoryCompletes : Prop :=
  (∀ (s : State) (tag : W32),
    (s.mfmReq tag = none → exec (.mfmSend tag) s = .next s ∧ exec (.mfmRetry tag) s = .next s ∧ exec (.mfmTimeout tag) s = .next s) ∧
    (∀ m, s.mfmReq tag = some m →
      let on (u : State) : State := match m.owner with | some id => u.resume id | none => u
      let d := m.dst.toNat
      ((m.sent = true ∨ s.mfmMay m = false) → exec (.mfmSend tag) s = .next s) ∧
      (m.sent = false → s.mfmMay m = true → m.op ≠ 3 →
        let m' := { m with sent := true, first := s.now, last := s.now, copies := 1, opid := 0 }
        exec (.mfmSend tag) s = .next (on ((s.modReq tag fun _ => m').sendMessage (m'.message false)))) ∧
      (m.sent = false → s.mfmMay m = true → m.op = 3 →
        let o := Tab.get 0 s.fab.opids d
        let m' := { m with sent := true, first := s.now, last := s.now, copies := 1, opid := o }
        exec (.mfmSend tag) s = .next (on (((s.modReq tag fun _ => m').modFab fun b => { b with
          opidRec := Tab.set {} b.opidRec (d * 4096 + o.toNat % 4096) ⟨o, false, s.now⟩, opids := Tab.set 0 b.opids d (o + 1) }).sendMessage
            (m'.message false)))) ∧
      (let t := max s.now (m.last + cdiv (s.mfmBound m) 4)
       let u := s.passTo t
       let late := m.sent = false ∨ m.op = 2 ∨ t ≥ m.first + s.mfmBound m ∨ (m.op = 3 ∧ t ≥ m.first + 1500)
       let sent := u.modReq tag fun x => { x with last := t, copies := x.copies + 1 }
       (late → exec (.mfmRetry tag) s = .next s) ∧
       (¬ late → u.mayInject (m.message true) = false → exec (.mfmRetry tag) s = .next u) ∧
       (¬ late → u.mayInject (m.message true) = true → m.op ≠ 3 → exec (.mfmRetry tag) s = .next (sent.sendMessage (m.message true))) ∧
       (¬ late → u.mayInject (m.message true) = true → m.op = 3 →
         exec (.mfmRetry tag) s = .next ((sent.setOpid d m.opid ⟨m.opid, false, t⟩).sendMessage (m.message true)))) ∧
      (let u := s.passTo (m.first + s.mfmBound m)
       let kept (v : State) (bs : List Byte) (e : Byte) : State := match m.owner with
         | some id => (v.modRun id fun r => { r with remote := r.remote ++ [(m.key, bs)] }).mfmFail id (e, m.dst.setWidth 32)
         | none => v
       ((m.sent = false ∨ m.op = 2) → exec (.mfmTimeout tag) s = .next s) ∧
       (m.sent = true → m.op = 1 →
         exec (.mfmTimeout tag) s = .next (on ((kept u (List.replicate m.size 0xFF) St.fabricTimeout).dropReq m.tag))) ∧
       (m.sent = true → m.op = 3 →
         let v := (kept u.draw (u.draw.freeBytes 0 m.size) (if m.lost < m.copies then St.indeterminate else St.fabricTimeout)).dropReq m.tag
         exec (.mfmTimeout tag) s = .next (on (v.setOpid d m.opid { v.opidRec d m.opid with done := true })))))) ∧
  (∀ (s : State) (src : W16) (p : List Byte),
    let v := s.serveWaiting
    let q := reqOf p
    let dom := ofBytes ((p.drop 12).take 2)
    let w : Waiting := ⟨src, p, v.now, v.domEntry dom⟩
    let x := v.draw.guard (colonyOf src.toNat) dom (v.domEntry dom) q (Config.freeBool v.draw.free 0)
    let o := ofBytes ((p.drop 8).take 4)
    let a := v.dedupAt src o
    let is (t : State) : Prop := exec (.mfmRequest src p) s = .next t
    let behind := q.op = 2 ∧ ∃ y ∈ v.fab.serveQ, y.src = src ∧ (reqOf y.payload).op = 2
    (q.op ≠ 3 → behind → is (v.serveLater w (St.notYet, 0))) ∧
    (q.op ≠ 3 → ¬ behind → (∀ d u, x = (.ok d, u) → is (u.mfmReply src p 0 false d)) ∧ (x.1 = .refused → is (x.2.mfmReply src p 1 false [])) ∧
      (∀ e, x.1 = .poison e → is (x.2.mfmReply src p 2 false [])) ∧ (∀ e, x.1 = .wait e → is (v.serveLater w e))) ∧
    (q.op = 3 → ofBytes ((p.drop 18).take 2) > 500 → is (v.bump pgFab 0x180 1)) ∧
    (q.op = 3 → ofBytes ((p.drop 18).take 2) ≤ 500 →
      (v.dedupTakes src = false → is (v.mfmReply src p 1 false [])) ∧
      (v.dedupTakes src = true → v.starved ownPart (a / 65536) = true → is (v.serveLater w (St.notYet, 0))) ∧
      (∀ e, v.dedupTakes src = true → v.starved ownPart (a / 65536) = false → v.hbmRead v.dedupTag a 32 = .error e →
        is (if e.1 = St.notYet then v.serveLater w e else v.mfmReply src p 2 false [])) ∧
      (∀ bs, v.dedupTakes src = true → v.starved ownPart (a / 65536) = false → v.hbmRead v.dedupTag a 32 = .ok bs →
        let rec' := Tab.get none v.fab.dedup (a / 32)
        let twice (d : Dedup) : Prop := d.opid = BitVec.ofNat 32 o ∧ v.now < d.at_ + 2000
        let new (st : Nat) (d : List Byte) : Prop :=
          is ((x.2.dedupPut a ⟨BitVec.ofNat 32 o, v.now, BitVec.ofNat 8 st, d⟩).mfmReply src p st false d)
        (∀ d, rec' = some d → twice d → is ((v.bump pgFab 0x184 1).mfmReply src p d.status.toNat true d.result)) ∧
        ((∀ d, rec' = some d → ¬ twice d) → (∀ d, x.1 = .ok d → new 0 d) ∧ (x.1 = .refused → new 1 []) ∧
          (∀ e, x.1 = .poison e → new 2 []) ∧ (∀ e, x.1 = .wait e → is (v.serveLater w e)))))) ∧
  (∀ (s : State) (src : W16) (p : List Byte),
    let m? := s.mfmReq (BitVec.ofNat 32 (ofBytes ((p.drop 4).take 4)))
    let is (t : State) : Prop := exec (.mfmResponse src p) s = .next t
    (m? = none → is s) ∧
    (∀ m, m? = some m → (m.sent = false ∨ m.dst ≠ src) → is s) ∧
    (∀ m, m? = some m → m.sent = true → m.dst = src →
      let st := (p.getD 8 0).toNat
      let again (r : Run) : Run :=
        if r.fabSince.isSome && ((s.covered r).any fun x => x.tag = m.tag) then { r with fabSince := some s.now } else r
      let v : State := if m.op = 1 then s else { s with runs := s.runs.map again }
      let own (w : State) (g : CmdId → State) : State := match m.owner with | some id => g id | none => w
      let data (w : State) (bs : List Byte) : State := own w fun id => if m.op = 2 then w else
        w.modRun id fun r => { r with remote := r.remote ++ [(m.key, bs)] }
      let fails (w : State) (e : Err) : State := own w fun id => w.mfmFail id e
      let ends (w : State) : State :=
        let u := if m.op = 3 then (w.dropReq m.tag).setOpid m.dst.toNat m.opid { w.opidRec m.dst.toNat m.opid with done := true } else w.dropReq m.tag
        own u u.resume
      (st = 0 → is (ends (data v ((p.drop 16).take m.size)))) ∧
      (st = 1 → is (ends (fails (data v.draw (v.draw.freeBytes 0 m.size)) (St.guard, src.setWidth 32)))) ∧
      (st = 2 → is (ends (fails (data v.draw (v.draw.freeBytes 0 m.size)) (St.ecc, 0x600)))))) ∧
  (∀ (s : State), (bit (s.rd pgFab 0x104) 31 = true → s.fab.atomOk = false →
      exec .atomicStartDelay s = .next ((s.passTo (s.fab.enAt + 2000)).modFab fun b => { b with atomOk := true })) ∧
    ((bit (s.rd pgFab 0x104) 31 = false ∨ s.fab.atomOk = true) → exec .atomicStartDelay s = .next s) ∧
    (s.pageUse pgFab = false → exec .domWrite s = .next s ∧ exec .domRead s = .next s) ∧
    (s.pageUse pgFab = true →
      let k := fld (s.rd pgFab 0x170) 9 0
      let w0 := s.rd pgFab 0x174 &&& 0x8FFFFFFF
      let w1 := s.rd pgFab 0x178 &&& 0xFFFF003F
      let twice := ∃ p ∈ s.fab.dom, p.1 ≠ k ∧ bit p.2.1 31 = true ∧ fld p.2.1 15 0 = fld w0 15 0
      (bit w0 31 = true → twice → exec .domWrite s = .next (s.errSet pgFab 0)) ∧
      (¬ (bit w0 31 = true ∧ twice) → exec .domWrite s = .next (s.modFab fun b => { b with dom := Tab.set (0, 0) b.dom k (w0, w1) })) ∧
      exec .domRead s = .next ((s.wr pgFab 0x174 (Tab.get (0, 0) s.fab.dom k).1).wr pgFab 0x178 (Tab.get (0, 0) s.fab.dom k).2)))

/-- R305 to R321: the group table; a COLLECTIVE begins with its own values, alone it ends at once and else grants credits, and the ports
toward the members that it sends to swap their banks (R412); GRANT, PARTIAL, FINAL and TOKEN join the operation that they name and move it on, one for an operation not yet started waits,
another is discarded and counted; ABORT and a silent member end it.
The order of shards in a BROADCAST and what a mismatch aborts are the model's readings (log entry 55). -/
def Obligations.CollectivesComplete : Prop :=
  (∀ (s : State) (v : W32),
    (s.pageUse pgColl = false → ∀ c ∈ [Instr.grpWrite, .grpRead, .nfRecClear v], exec c s = .next s) ∧
    (s.pageUse pgColl = true →
      let g := fld (s.rd pgColl 0x100) 7 0
      let w := (List.range 16).map fun i => s.rd pgColl (0x140 + 4 * i) &&& wd grpMask i
      (s.grpRunning g = true → exec .grpWrite s = .next (s.wr pgColl 0x108 0x0B)) ∧
      (s.grpRunning g = false → s.grpBad w = true → exec .grpWrite s = .next (s.wr pgColl 0x108 0x0C)) ∧
      (s.grpRunning g = false → s.grpBad w = false →
        exec .grpWrite s = .next ((s.setGrp g { words := w, opseq := 0, early := [] }).wr pgColl 0x108 0)) ∧
      exec .grpRead s = .next ((putWords s pgColl 0x140 ((List.range 16).map fun i => wd (s.grp g).words i)).wr pgColl 0x108 0) ∧
      (bit v 31 = true → exec (.nfRecClear v) s = .next ((((s.wr pgColl 0x180 0).wr pgColl 0x184 0).wr pgColl 0x188 0).wr pgColl 0x18C 0)) ∧
      (bit v 31 = false → exec (.nfRecClear v) s = .next s))) ∧
  (∀ (s : State) (id : CmdId) (r : Run), running s id r 0x40 →
    let granted (u : State) (y : CollRun) : State := if y.n ≤ 1 then u else
      (if y.mc then y.others else [y.pred]).foldl (fun u k => u.collTo y k 0 (y.grantMsg 4)) u
    (s.bankWait r = true → exec (.collective id) s = .next (s.noteBanks id)) ∧
    (s.bankWait r = false → r.coll = none → exec (.collective id) s = .next s) ∧
    (∀ x, s.bankWait r = false → r.coll = some x → x.begun = true → exec (.collective id) s = .next (s.collOn id)) ∧
    (∀ x, s.bankWait r = false → r.coll = some x → x.begun = false →
      let peers := if x.mc then x.others else [x.pred, x.succ].filter fun k => k ≠ x.rank
      let s' := s.swapPorts r ((List.range (min 256 (x.chunks r))).map (x.group + ·)) (peers.map fun k => (x.ranks.getD k 0).toNat)
      (∀ e, s'.collLocal r x = .error e → exec (.collective id) s = .next (s'.cutRun id e.1 e.2)) ∧
      (∀ u y, s'.collLocal r x = .ok (u, y) →
        exec (.collective id) s = .next (((granted u y).modRun id fun t => { t with coll := some { y with begun := true } }).collOn id)) ∧
      (∀ u y, x.inbox = [] → x.n = 1 → x.idle r = true → x.trap = false → s'.collLocal r x = .ok (u, y) →
        completes (.collective id) s fun t => t = { u with runs := t.runs } ∧ ended t id St.ok 0) ∧
      (x.inbox = [] → x.n > 1 → x.reduces = true → x.mc = false → x.credits = 0 → x.waitP = [] → x.granted = [] → x.missing r ≠ [] →
        exec (.collective id) s = .next ((s'.collTo x x.pred 0 (x.grantMsg 4)).modRun id fun t => { t with coll := some { x with begun := true } })))) ∧
  (∀ (s : State) (src : W16) (p : List Byte) (c : Instr) (k : Nat),
    (c, k) ∈ [(Instr.partialChunk src p, 1), (.finalChunk src p, 2), (.grant src p, 3), (.token src p, 4), (.abort src p, 5)] →
    let m := parseColl p
    let g := s.grp m.group
    let known := bit (wd g.words 0) 31 = true ∧ fld (wd g.words 0) 23 16 = m.gen ∧ src ∈ s.grpRanks g.words
    let hit := s.runs.find? fun y => y.res.isNone && match y.coll with | some z => z.group = m.group && z.opseq = m.opseq | none => false
    (m.kind ≠ k → exec c s = .next s) ∧
    (m.kind = k → ¬ known → exec c s = .next (s.bump pgColl 0x190 1)) ∧
    (m.kind = k → known → hit = none → exec c s = .next (if sub32 m.opseq g.opseq < 2 ^ 31 then
      s.setGrp m.group { g with early := g.early ++ [(src, p)] } else s.bump pgColl 0x190 1)) ∧
    (∀ r, m.kind = k → known → hit = some r → exec c s = .next ((s.modRun r.id fun t => { t with
      coll := t.coll.map fun x => { x with inbox := x.inbox ++ [(src, p)], lastMsg := s.now } }).collOn r.id))) ∧
  (∀ (s : State) (src : W16) (p : List Byte) (id : CmdId) (r : Run) (x : CollRun), collHit s src p id r x →
    let m := parseColl p
    let came := (x.ranks.findIdx? fun h => h = src).getD 0
    let agrees := m.op = x.op ∧ m.red = x.red ∧ m.trap = x.trap ∧ m.chunkLog = x.chunkLog ∧ m.sh = x.sh ∧ m.shard = x.root
    let s1 := s.modRun id fun t => { t with coll := some { x with inbox := [(src, p)], lastMsg := s.now } }
    let r1 := { r with coll := some { x with inbox := [(src, p)], lastMsg := s.now } }
    let x1 := { x with lastMsg := s.now }
    (m.kind = 3 → agrees → x.op = 1 → x.waitP = [] → x.fwdF = [] → x.missing r ≠ [] → (∀ c < x.chunks r, (x.pred, c) ∈ x.sentP) →
      completes (.grant src p) s fun t => t = { s with runs := t.runs } ∧ collNow t id fun y => y = { x1 with
        granted := (x.granted ++ [came]).eraseDups, credits := x.credits + if came = x.succ then m.count.toNat else 0 }) ∧
    (m.kind = 3 → ¬ agrees → completes (.grant src p) s fun t => ended t id St.badDesc 29) ∧
    (∀ own u y v, m.kind = 1 → x.op = 1 → x.waitP = [] → x.credits = 0 → x.trap = false → isInt (slot r.words 0).fmt = true →
      m.shard = x.rank → m.shard < x.n → m.chunk < x.chunks r → s1.ownChunk r1 x1 m.shard m.chunk = .ok (own, u, y) →
      u.putElems r.who (slot r.words 1) (x.dstAt m.shard + (x.span r m.chunk).1)
        (((bytesToWords own.length m.data).zip own).map fun q => fromAcc (slot r.words 1).fmt (foldOp (slot r.words 0).fmt x.red q.1 q.2)) = .ok v →
      completes (.partialChunk src p) s fun t => t.mem = v.mem ∧ ∃ r' z, t.run? id = some r' ∧ r'.coll = some z ∧ (x.rank, m.chunk) ∈ z.doneP) ∧
    (∀ v, m.kind = 2 → x.op = 2 → x.waitP = [] → x.trap = false → x.succ ∉ x.granted → m.shard < x.n → m.chunk < x.chunks r → m.shard ≠ x.rank →
      let n := (x.span r m.chunk).2
      let nb := fmtBits (slot r.words 1).fmt / 8
      let bs := m.data.take (n * nb)
      s1.putElems r.who (slot r.words 1) (x.dstAt m.shard + (x.span r m.chunk).1)
        ((List.range n).map fun i => ofBytes ((bs.drop (i * nb)).take nb)) = .ok v →
      completes (.finalChunk src p) s fun t => t.mem = v.mem ∧ ∃ r' z, t.run? id = some r' ∧ r'.coll = some z ∧ (m.shard, m.chunk) ∈ z.doneF) ∧
    (m.kind = 4 → x.op = 1 → x.credits = 0 → x.trap = false → x.idle r = true → x.n > 1 → x.rank ≠ 0 →
      (m.pass = false → exec (.token src p) s = .next ((s1.collTo x1 x.succ 0 (x.tokenMsg false m.nf)).modRun id fun t =>
        { t with coll := some { x1 with token := none } })) ∧
      (m.pass = true → completes (.token src p) s fun t => ended t id St.ok 0 ∧ t.mem = s.mem)) ∧
    (m.kind = 5 → completes (.abort src p) s fun t => ended t id (match fld m.count 31 24 with | 1 => St.fabricTimeout | 2 => St.badDesc | _ => St.nonfinite)
      (match fld m.count 31 24 with | 1 => BitVec.ofNat 32 (fld m.count 15 0) | 2 => 29 | _ => BitVec.ofNat 32 x.group))) ∧
  (∀ (s : State) (group : Fin 256),
    let hit := bestOf (fun (a b : Run) => a.heardAt < b.heardAt) (s.runs.filter fun y => y.res.isNone &&
      match y.coll with | some z => z.group = group.val && z.n > 1 | none => false)
    (hit = none → exec (.memberTimeout group) s = .next s) ∧
    (∀ r x, hit = some r → s.run? r.id = some r → r.coll = some x →
      completes (.memberTimeout group) s fun t => t.clock.now = max s.now (x.lastMsg + 1000 * fld (wd (s.grp group.val).words 2) 9 0) ∧
        ended t r.id St.fabricTimeout (BitVec.ofNat 32 (x.ranks.getD (x.awaited r) 0).toNat)))

/-! ### Fences, pairs, health -/

namespace Sys2Proof.Claims

/-- What a reset leaves (R375, R376): the work and everything behind VIN_MAIN is lost, and the keys with it; the commands that wait,
the time and host memory stay. -/
def lostWork (s t : State) (cause : BitVec 4) : Prop :=
  t.ctx = [] ∧ t.str = [] ∧ t.queue = [] ∧ t.evt = [] ∧ t.runs = [] ∧ t.cells = [] ∧ t.pairs = [] ∧ t.scouts = [] ∧ t.health = [] ∧
  t.fab = State.reset.fab ∧ t.base = State.reset.base ∧ t.fenced = false ∧
  t.boot.rails = false ∧ t.boot.hub = false ∧ t.boot.locked = false ∧ t.boot.cause = cause ∧ t.boot.sdReady = 0 ∧
  t.mem.hbm = [] ∧ t.mem.spad = [] ∧ t.mem.direct = [] ∧ t.mem.host = s.mem.host ∧ t.sec.keys = [] ∧ t.sec.dbg = .locked ∧
  t.msixPend = [] ∧ t.pending = s.pending ∧ t.clock.now = s.clock.now ∧ t.clock.epoch = s.clock.now

/-- What every reset but a full one keeps besides (R376): the list of retired pages, the lane remaps, management's readiness, the
microcode banks and the life log, which counts the reset. -/
def keptLog (s t : State) (cause : Nat) : Prop :=
  t.mem.retired = s.mem.retired ∧ t.mem.remaps = s.mem.remaps ∧ t.boot.mgmt = s.boot.mgmt ∧ t.sec.bankA = s.sec.bankA ∧ t.sec.bankB = s.sec.bankB ∧
  t.log.acc = (if s.logOn then s.log.acc.countReset cause else s.log.acc)

/-- A running command that satisfies `f` has ended with `CMD_ECC` and a unit. -/
def cutAll (s t : State) (f : Run → Prop) (unit : Nat) : Prop :=
  ∀ id r, s.run? id = some r → r.res = none → f r → ended t id St.ecc (BitVec.ofNat 32 unit)

end Sys2Proof.Claims

/-- R322, R323, R325: each of the four causes fences the hive under its code, so that nothing runs and no port is up; a hive that is
fenced already, or whose hub has not started, stays as it is. A clock island that loses its clock holds its unit and ends its
commands until it relocks; a store die's are those that its engines run (R328, R409), which the die of a SCOUT's digital path and of a
GATHER_KV is the model's choice (log entry 24). -/
def Obligations.FencesAndIslandsComplete : Prop :=
  (∀ (s : State) (i : Instr) (code : Byte),
    (i, code) ∈ [(Instr.lockstepMismatch, (0x01 : Byte)), (.heartbeatLoss, 0x02), (.hubTableEcc, 0x03), (.refclkLoss, 0x0A)] →
    (s.fenced = true ∨ s.boot.hub = false → exec i s = .next s) ∧
    (s.fenced = false → s.boot.hub = true → completes i s fun t => t.fenced = true ∧ t.mech = code ∧ t.runs = [] ∧
      t.boot = { s.boot with die := none, dieWait := none } ∧
      (s.tablesOk → ∀ p < 32, (t.port p).st = .off ∨ (t.port p).st = .down) ∧
      t.sec = s.sec ∧ t.power = s.power ∧ t.phys = s.phys ∧ t.queue = s.queue ∧ t.evt = s.evt ∧ t.base = s.base ∧ t.clock = s.clock)) ∧
  (∀ (s : State) (c : Fin 128), ((s.cell c.val).phys = none → exec (.islandClockLoss (.cell c)) s = .next s) ∧
    ((s.cell c.val).phys ≠ none → completes (.islandClockLoss (.cell c)) s fun t => (t.cell c.val).held = true ∧
      cutAll s t (fun r => r.cell = some c.val ∨ r.partner = some c.val) (0x500 + c.val) ∧
      t = { s with ctx := t.ctx, str := t.str, queue := t.queue, evt := t.evt, runs := t.runs, cells := t.cells, mem := t.mem, free := t.free } ∧
      ((∀ r ∈ s.runs, r.cell = some c.val ∨ r.partner = some c.val → isAtomic r.words = false) → t.queue = s.queue ∧ t.evt = s.evt)) ∧
    exec (.islandRelock (.cell c)) s = .next (s.modCell c.val fun r => { r with held := false })) ∧
  (∀ (s : State) (n : Fin 8), completes (.islandClockLoss (.sd n)) s (fun t =>
      t.base = { s.base with sdHeld := s.base.sdHeld ||| BitVec.ofNat 8 (2 ^ n.val) } ∧ cutAll s t (fun r => n.val ∈ s.agentDies r) (0x700 + n.val) ∧
      t = { s with ctx := t.ctx, str := t.str, runs := t.runs, base := t.base, mem := t.mem, free := t.free }) ∧
    exec (.islandRelock (.sd n)) s = .next (s.modBase fun b => { b with sdHeld := b.sdHeld &&& ~~~ BitVec.ofNat 8 (2 ^ n.val) }))

/-- R328, R339, R341: the cells of a mismatched pair serve again after their BIST, with their partitions zeroed and their `DEGRADED` marks
rebuilt (R177, R179; log entry 83), and one that fails it is retired; a lost cell of a reserve pair is replaced by a suitable one at that
cell's command boundary, and with none the pair is dropped; a comb's spare serves once it has taken a number over. R179, R339, R340: a
failed via is replaced by one of the bundle's four spares; past them a data bundle's bank is degraded and a control bundle's cell is
retired; a power or clock via is only logged. The endpoint reports what changed (R444). -/
def Obligations.PairsAndViasAreRepaired : Prop :=
  ((∀ (s : State) (a b : Fin 128) (passA passB : Bool) (degA degB : W64),
     (a = b ∨ (s.cell a.val).bist = false ∨ (s.cell b.val).bist = false → exec (.twinPairRebuild a b ⟨passA, degA⟩ ⟨passB, degB⟩) s = .next s) ∧
     (a ≠ b → (s.cell a.val).bist = true → (s.cell b.val).bist = true →
       exec (.twinPairRebuild a b ⟨passA, degA⟩ ⟨passB, degB⟩) s =
         (let t := (s.bistOver a.val passA degA).bistOver b.val passB degB
          .next ((t.noteReady s).notify s)) ∧
       ∀ p q, (s.cell a.val).phys = some p → (s.cell b.val).phys = some q →
         (s.tablesOk → a.val / 16 * 17 + p ≠ b.val / 16 * 17 + q → completes (.twinPairRebuild a b ⟨true, degA⟩ ⟨true, degB⟩) s fun t =>
           (t.cell a.val).bist = false ∧ (t.cell a.val).phys = some p ∧ (t.cell b.val).bist = false ∧ (t.cell b.val).phys = some q ∧
           (t.physCell (a.val / 16 * 17 + p)).degraded = degA ∧ (t.physCell (b.val / 16 * 17 + q)).degraded = degB ∧
           (∀ x ∈ t.mem.spad, x.1 / 2 ^ 24 ≠ a.val ∧ x.1 / 2 ^ 24 ≠ b.val) ∧
           t = { s with cells := t.cells, phys := t.phys, mem := t.mem, log := t.log, regs := t.regs, out := t.out, msixPend := t.msixPend }) ∧
         completes (.twinPairRebuild a b ⟨false, degA⟩ ⟨true, degB⟩) s (fun t => (t.physCell (a.val / 16 * 17 + p)).retired = true))) ∧
   (∀ (s : State) (n : Fin 16),
     ((s.pairs.find? fun q => q.n = n.val && (q.lostA || q.lostB)) = none → ∀ x, exec (.reservePairReplace n x) s = .next s) ∧
     ∀ p, (s.pairs.find? fun q => q.n = n.val && (q.lostA || q.lostB)) = some p →
       (∀ x : Fin 128, s.suitable p x.val = true → s.atBoundary x.val = true → exec (.reservePairReplace n (some x)) s =
         .next ((({ s with pairs := s.pairs.map fun (q : Pair) => if q.n = n.val then q.take x.val else q } : State).unpick
           fun id => decide ((s.cell x.val).picked = some id) && (s.cx id.ctx.val).isB).notify s)) ∧
       (∀ x : Fin 128, s.suitable p x.val = false ∨ s.atBoundary x.val = false → exec (.reservePairReplace n (some x)) s = .next s) ∧
       ((∀ y < 128, s.suitable p y = false) → exec (.reservePairReplace n none) s =
         .next (({ s with pairs := s.pairs.filter fun (q : Pair) => q.n ≠ n.val } : State).notify s)) ∧
       (∀ y < 128, s.suitable p y = true → exec (.reservePairReplace n none) s = .next s)) ∧
   (∀ (s : State) (comb : Fin 8), (s.logicalOf comb.val 16 = none → exec (.spareTakeoverDone comb) s = .next s) ∧
     ∀ l, s.logicalOf comb.val 16 = some l → exec (.spareTakeoverDone comb) s =
       .next ((s.modCell l fun r => { r with takeover := false }).noteReady s))) ∧
  (∀ (s : State) (p : Fin 136) (k : Fin 64) (c : Fin 8),
     let used := Tab.get 0 (s.physCell p.val).vias k.val
     let ctl := Tab.get 0 (s.physCell p.val).vias 64
     let gives (b : ViaBundle) (v : State) : Prop := exec (.viaFailure b) s = .next (v.notify s)
     gives (.power c) (s.logEvent 0x22 (unitComb c.val) 0 0) ∧
     (used < 4 → gives (.bankData p k) ((s.modPhys p.val fun r => { r with vias := Tab.set 0 r.vias k.val (used + 1) }).logEvent 0x22 p.val k.val 0)) ∧
     (used ≥ 4 → gives (.bankData p k) ((s.modPhys p.val fun r => { r with
       degraded := r.degraded ||| BitVec.ofNat 64 (2 ^ k.val) }).logEvent 0x23 p.val k.val 0)) ∧
     (ctl < 4 → gives (.control p) ((s.modPhys p.val fun r => { r with vias := Tab.set 0 r.vias 64 (ctl + 1) }).logEvent 0x22 p.val 64 0)) ∧
     (ctl ≥ 4 → completes (.viaFailure (.control p)) s fun t => (t.physCell p.val).retired = true))

/-- R342 to R345: a health round gives every unit 1,000 less its penalties, makes a unit whose score is below PROB_ENTER a probationer
and leaves the others' states, and gives the hive the lowest score in service; a held-back signal is sent once due if the unit is still
in `PROBATION`; a unit leaves `PROBATION` after its hour. Without a signal held back, and outside `PROBATION`, nothing happens.
The numbers of the sensors that signal are the model's choice (log entry 28). -/
def Obligations.HealthRoundScoresEveryUnit : Prop :=
  (∀ (s : State) (heat : List (Nat × Nat)), (s.boot.hub = false → exec (.healthScore heat) s = .next s) ∧
    (s.boot.hub = true → s.tablesOk → completes (.healthScore heat) s fun t =>
      t = { s with regs := t.regs, health := t.health, out := t.out, msixPend := t.msixPend } ∧
      (∀ u ∈ unitCodes, (t.unit u).score = 1000 - (s.penalties heat u).sum ∧ (t.unit u).worst = worstOf (s.penalties heat u) ∧
        (t.unit u).st = (if (t.unit u).score < fld (s.rd pgSafe 0x110) 9 0 then .probation else (s.unit u).st)) ∧
      t.rd pgSafe 0x11C = BitVec.ofNat 32 (((unitCodes.filter fun u => s.removed u = 0).map
        fun u => 1000 - (s.penalties heat u).sum).foldl min 1000))) ∧
  (∀ (s : State) (u : Fin 273), (s.unit u.val).signal = none ∨ (s.unit u.val).defer = false → exec (.probationSignalDeferred u) s = .next s) ∧
  (∀ (s : State) (u : Fin 273), (s.unit u.val).highAt = none ∨ (s.unit u.val).st ≠ .probation → exec (.probationExit u) s = .next s) ∧
  (∀ (s : State) (u : Fin 273) (at_ : Nat), (s.unit u.val).signal = some at_ → (s.unit u.val).defer = true →
    let v := s.passTo (at_ + 600000000)
    ((s.unit u.val).st = .probation → exec (.probationSignalDeferred u) s = .next (((v.event pgSafe).pldm (0x100 + u.val) 1).modUnit
      u.val fun r => { r with signal := some v.now, defer := false })) ∧
    ((s.unit u.val).st ≠ .probation → exec (.probationSignalDeferred u) s = .next (v.modUnit u.val fun r => { r with defer := false }))) ∧
  (∀ (s : State) (u : Fin 273) (since : Nat), (s.unit u.val).highAt = some since → (s.unit u.val).st = .probation →
    exec (.probationExit u) s = .next (((s.passTo (since + 3600000000)).modUnit u.val fun r => { r with st := .ok }).notify s))

/-! ### Supply and heat -/

/-- R353 to R358: a low VIN_MAIN warns and sheds load at once (R246, R352; how far, log entry 86), recovers at 11.5 V and is in order
after 1 ms at 11.5 V or above, when the excursion is logged and command limits advance again; over-voltage is logged once over; every
report takes the extremes of the excursions in force, and one below 11.2 V warns whichever threshold it reports; VHOLD is kept as measured.
That the board asserts PWR_GOOD in the operating range is the model's reading (log entry 33). -/
def Obligations.SupplySupervisionCompletes : Prop :=
  (∀ (s : State) (mv : Nat),
    let v : State := { s with
      power := { s.power with
        vinMain := mv
        riseAt := if s.power.supply = .resume then (if mv ≥ 11500 then some (s.power.riseAt.getD s.now) else none) else s.power.riseAt
        dip := s.power.dip.map (·.low mv)
        brown := s.power.brown.map (·.low mv)
        overV := s.power.overV.map (·.high mv) }
      boot := { s.boot with pwrGood := s.boot.pwrGood || (10800 ≤ mv && mv ≤ 13200) } }
    let w := if mv ≥ 11200 ∨ s.power.supply = .warn then v else (v.modPower fun p => { p with
      supply := .warn, riseAt := none, dip := some ((s.power.dip.map (·.low mv)).getD ⟨s.now, mv⟩) }).pace true |>.event pgPower
    exec (.vinMainWarning mv) s = .next (w.notify s) ∧
    (mv < 11500 ∨ s.power.supply ≠ .warn → exec (.vinMainRecover mv) s = .next (w.notify s)) ∧
    (mv ≥ 11500 → s.power.supply = .warn → exec (.vinMainRecover mv) s =
      .next ((v.modPower fun p => { p with supply := .resume, riseAt := some s.now }).notify s)) ∧
    (mv < 10600 ∨ s.power.brown = none → exec (.vinMainRestore mv) s = .next (w.notify s)) ∧
    (∀ e, mv ≥ 10600 → s.power.brown = some e → exec (.vinMainRestore mv) s =
      .next (((w.modPower fun p => { p with brown := none }).logEvent 0x02 0x110 (min e.extreme mv) (s.now - e.since)).notify s)) ∧
    (s.power.overV = none → exec (.overVoltage mv) s =
      .next ((if mv > 13400 then w.modPower fun p => { p with overV := some ⟨s.now, mv⟩ } else w).notify s)) ∧
    (∀ e, s.power.overV = some e → exec (.overVoltage mv) s =
      .next ((if mv < 13200 then (w.modPower fun p => { p with overV := none }).logEvent 0x03 0x110 (max e.extreme mv) (s.now - e.since)
        else w).notify s))) ∧
  (∀ (s : State) (since : Nat), s.power.riseAt = some since → s.power.supply = .resume → completes .pwrOkTimer s fun t =>
    t = { s with clock := t.clock, cntBanks := t.cntBanks, runs := t.runs, log := t.log, power := t.power, out := t.out } ∧
    t.runs = (s.runs.map fun r => { r with
      suspended := if r.suspEnded then r.suspended else min 2000 (r.suspended + (s.passTo (since + 1000)).inShed r) }) ∧
    t.power = { s.power with supply := .ok, riseAt := none, dip := none } ∧ t.clock.now = max s.now (since + 1000) ∧
    (∀ e, s.power.dip = some e → s.logOn = true → s.log.wait.length < 1024 → t.log.wait = s.log.wait ++
      [⟨0x01, 0x110, s.log.acc.minutes, BitVec.ofNat 32 e.extreme, BitVec.ofNat 32 (t.clock.now - e.since)⟩])) ∧
  (∀ s : State, s.power.riseAt = none ∨ s.power.supply ≠ .resume → exec .pwrOkTimer s = .next s) ∧
  (∀ (s : State) (id : CmdId), (s.run? id = none ∨ s.power.dip = none ∨ s.power.supply = .ok ∨ (∃ r, s.run? id = some r ∧ r.suspEnded = true)) →
    exec (.limitSuspendExpire id) s = .next s) ∧
  (∀ (s : State) (id : CmdId) (r : Run) (e : Excursion), s.run? id = some r → s.power.dip = some e → r.suspEnded = false → s.power.supply ≠ .ok →
    exec (.limitSuspendExpire id) s = .next ((s.passTo (max r.start e.since + (2000 - r.suspended))).modRun id
      fun x => { x with suspended := 2000, suspEnded := true })) ∧
  (∀ (s : State) (v : W16), exec (.holdupCheck v) s = .next (s.modPower fun p => { p with vhold := v }))

/-- R353, R357, R375, R376, R449: a brownout, a low PWR_GOOD, a low VIN_AUX and a reset pin lose the work, each under its cause; a
main-power reset waits for a running persistent write; PWR_GOOD acts while VIN_MAIN feeds a rail, after a trip the 1.8 V rail (R363); one
excursion of VIN_AUX resets once, and lasts until VIN_AUX is back at 3.05 V. -/
def Obligations.ResetsLoseTheWork : Prop :=
  (∀ (s : State) (mv : Nat), (mv ≥ 10200 → exec (.brownout mv) s = exec (.vinMainWarning mv) s) ∧
    (mv < 10200 → s.power.brown = none → s.power.running = none → completes (.brownout mv) s fun t =>
      lostWork s t 4 ∧ keptLog s t 4 ∧ t.power.brown = some ⟨s.now, mv⟩) ∧
    (mv < 10200 → s.power.brown = none → s.power.running ≠ none → exec (.brownout mv) s =
      .next (((s.warn mv).modPower fun p => { p with brown := some ⟨s.now, mv⟩, resetDue := true }).notify s)) ∧
    (mv < 10200 → s.power.brown ≠ none → exec (.brownout mv) s = .next ((s.warn mv).notify s)) ∧
    (let low := s.power.aux ≠ none ∧ s.power.auxEnd = none
     (low → exec (.vinAuxReset mv) s = .next (s.modPower fun p => { p with
       aux := p.aux.map (·.low mv), auxEnd := if mv ≥ 3050 then some s.now else none })) ∧
     (¬ low → mv ≥ 2950 → exec (.vinAuxReset mv) s = .next s) ∧
     (¬ low → mv < 2950 → completes (.vinAuxReset mv) s fun t => lostWork s t 1 ∧ t.boot.mgmt = false ∧
       t.power.aux = some ⟨s.now, mv⟩ ∧ t.power.auxEnd = none))) ∧
  (∀ s : State, let on := s.boot.rails = true ∨ s.power.tripped = true
    (s.boot.pwrGood = false → exec .pwrGoodLow s = .next s) ∧
    (s.boot.pwrGood = true → ¬ on → exec .pwrGoodLow s = .next (s.modBoot fun b => { b with pwrGood := false })) ∧
    (s.boot.pwrGood = true → on → s.power.running = none → completes .pwrGoodLow s fun t =>
      lostWork s t 4 ∧ keptLog s t 4 ∧ t.boot.pwrGood = false) ∧
    (s.boot.pwrGood = true → on → s.power.running ≠ none → exec .pwrGoodLow s =
      .next ((s.modBoot fun b => { b with pwrGood := false }).modPower fun p => { p with resetDue := true }))) ∧
  (∀ s : State, (s.boot.resetN = false → exec (.resetAssert .resetN) s = .next s) ∧
    (s.boot.resetN = true → completes (.resetAssert .resetN) s fun t => lostWork s t 2 ∧ keptLog s t 2 ∧ t.boot.resetN = false) ∧
    (s.boot.perstN = false → exec (.resetAssert .perstN) s = .next s) ∧
    (s.boot.perstN = true → completes (.resetAssert .perstN) s fun t => lostWork s t 3 ∧ keptLog s t 3 ∧ t.boot.perstN = false) ∧
    exec (.resetRelease .resetN) s = .next (s.modBoot fun b => { b with resetN := true }) ∧
    exec (.resetRelease .perstN) s = .next (s.modBoot fun b => { b with perstN := true }))

/-- R360 to R368, R372: a domain's level follows its temperature with the clear values of R360, and warning and throttle are logged (the TYPE
of a warning, and that of a sensor's recovery, are the implementation's: log entry 36); a throttled comb slows by 50 MHz a step
down to 600 MHz, holds between the clear value and the threshold, and speeds up again, a step that the slew governor does not let on
waiting (R246; log entry 86); a reading at shut-down trips, with the rails on or off; the
cross-check takes its readings and estimates and trips on a control value at shut-down; a sensor that deviates for 10 ms is suspect, and
one that agrees for 10 s is not (without such a sensor nothing happens); a clock setting is
taken by the idle cells, a rise as far as the slew governor admits it (how much power that takes, log entry 86). -/
def Obligations.ThermalControlCompletes : Prop :=
  (∀ (s : State) (d : Fin 50),
    let cur := s.level d.val
    let temp := s.domTemp d.val
    let n := nextLevel d.val cur temp
    (thr d.val 2 ≤ temp → n = 2) ∧ (temp < thr d.val 1 → n = 0) ∧ (cur = 0 → temp < thr d.val 0 → n = 0) ∧
    (cur = 2 → thr d.val 3 ≤ temp → n = 2) ∧
    let ev (type : Byte) : LogEvent :=
      ⟨type, BitVec.ofNat 9 (domUnit d.val), s.log.acc.minutes, BitVec.ofNat 32 (s.hottest d.val), BitVec.ofInt 32 temp⟩
    completes (.thermalLevel d) s fun t => t.power = { s.power with levels := Tab.set 0 s.power.levels d.val n } ∧
      (cur = 0 → 1 ≤ n → bit (t.rd pgPower 0x18) 1 = true) ∧
      (s.logOn = true → s.log.wait.length + 1 < 1024 → t.log.wait = s.log.wait ++
        (if cur = 0 ∧ 1 ≤ n then [ev Config.warnType] else []) ++ (if cur < 2 ∧ n = 2 then [ev 0x10] else [])) ∧
      (cur < 2 → n = 2 → d.val = 33 → s.tablesOk → ∀ u < 12, (t.scoutRec u).st = .off) ∧
      (d.val ≠ 33 → t = { s with regs := t.regs, power := t.power, log := t.log, out := t.out, msixPend := t.msixPend })) ∧
  (∀ (s : State) (c : Fin 8),
    let now := min (s.ceiling c.val) s.cellClk
    let hot := (clockDoms c.val).filter fun d => s.level d = 2
    (s.layerDead c.val = true → exec (.clockStep c) s = .next ((s.errSet (pgComb c.val) 1).setCeiling c.val 600)) ∧
    ((∃ d ∈ hot, thr d 2 ≤ s.domTemp d) → s.layerDead c.val = false →
      (now ≤ 600 → exec (.clockStep c) s = .next (s.setCeiling c.val 600)) ∧
      (600 < now → s.downRoom c.val < s.stepPower c.val now → exec (.clockStep c) s = .next s) ∧
      (600 < now → s.stepPower c.val now ≤ s.downRoom c.val → exec (.clockStep c) s =
        .next ((s.noteFall c.val (s.stepPower c.val now)).setCeiling c.val (max 600 (now - 50))))) ∧
    (s.layerDead c.val = false → (∀ d ∈ hot, s.domTemp d < thr d 2) → hot ≠ [] → exec (.clockStep c) s = .next s) ∧
    (s.layerDead c.val = false → hot = [] →
      (s.cellClk < now + 50 → exec (.clockStep c) s = .next (s.setCeiling c.val 1500)) ∧
      (now + 50 ≤ s.cellClk → s.upRoom c.val < s.stepPower c.val now → exec (.clockStep c) s = .next s) ∧
      (now + 50 ≤ s.cellClk → s.stepPower c.val now ≤ s.upRoom c.val → exec (.clockStep c) s =
        .next ((s.noteRise c.val (s.stepPower c.val now)).setCeiling c.val (if s.cellClk ≤ now + 50 then 1500 else now + 50))))) ∧
  (∀ (s : State) (x : Fin 404) (reading : Int), (reading < thr (sensorDom x.val) 4 → exec (.thermalTrip x reading) s = .next s) ∧
    (thr (sensorDom x.val) 4 ≤ reading → s.power.tripped = true → completes (.thermalTrip x reading) s fun t =>
      t = { s with power := t.power } ∧ (t.sensor x.val).reading = reading ∧ t.power.coolAt = none) ∧
    (thr (sensorDom x.val) 4 ≤ reading → s.power.tripped = false → completes (.thermalTrip x reading) s fun t =>
      lostWork s t 5 ∧ keptLog s t 5 ∧ t.power.tripped = true ∧ t.power.coolAt = none ∧ PWrite.flush ∈ t.power.writes ∧
      (t.sensor x.val).reading = reading ∧ (s.logOn = true → s.log.wait.length < 1024 → t.log.wait = s.log.wait ++
        [⟨0x11, BitVec.ofNat 9 (domUnit (sensorDom x.val)), s.log.acc.minutes, BitVec.ofNat 32 x.val, BitVec.ofInt 32 (t.control x.val)⟩]))) ∧
  (∀ (s : State) (readings : List Int) (power : List Nat), s.tablesOk →
    let u := (List.range 404).foldl (fun (u : State) x => u.modSensor x fun r => { r with reading := readings.getD x 0 }) s
    completes (.sensorCrossCheck readings power) s fun t =>
      (∀ x < 320, t.sensor x = u.checkSensor power x) ∧
      (∀ x, 320 ≤ x → x < 404 → t.sensor x = { s.sensor x with reading := readings.getD x 0 }) ∧
      ((∃ x < 404, thr (sensorDom x) 4 ≤ t.control x) → t.power.tripped = true ∧ (s.power.tripped = false → t.boot.rails = false)) ∧
      ((∀ x < 404, t.control x < thr (sensorDom x) 4) → t = { s with regs := t.regs, power := t.power, out := t.out, msixPend := t.msixPend })) ∧
  (∀ (s : State) (x : Fin 320) (since : Nat),
    let r := s.sensor x.val
    let v := s.passTo (since + 10000)
    r.suspect = false → (r.devAt = some since ∧ r.nbAt = none ∨ r.nbAt = some since ∧ r.devAt = none ∨
      ∃ a b, r.devAt = some a ∧ r.nbAt = some b ∧ since = min a b) →
    exec (.sensorSuspect x) s = .next (((((v.modSensor x.val fun r => { r with suspect := true, okAt := none }).event pgPower).logEvent 0x12
      (domUnit (sensorDom x.val)) x.val (apart r.reading r.model))).layerLost (x.val / 40))) ∧
  (∀ (s : State) (x : Fin 320), ((s.sensor x.val).suspect = true ∨ ((s.sensor x.val).devAt = none ∧ (s.sensor x.val).nbAt = none) →
      exec (.sensorSuspect x) s = .next s) ∧
    ((s.sensor x.val).suspect = false ∨ (s.sensor x.val).okAt = none → exec (.sensorRecover x) s = .next s)) ∧
  (∀ (s : State) (x : Fin 320) (since : Nat), (s.sensor x.val).suspect = true → (s.sensor x.val).okAt = some since →
    exec (.sensorRecover x) s = .next ((((s.passTo (since + 10000000)).modSensor x.val fun r => { r with
      suspect := false, okAt := none, devAt := none, nbAt := none }).event pgPower).logEvent Config.sensorOkType
      (domUnit (sensorDom x.val)) x.val (apart (s.sensor x.val).reading (s.sensor x.val).model))) ∧
  (∀ (s : State) (v : W32), (s.pageUse pgPower = false → exec (.cellClkWrite v) s = .next s) ∧
    (s.pageUse pgPower = true →
      let u := s.storeReg pgPower 0x104 v
      exec (.cellClkWrite v) s = .next (s.cells.foldl (fun t p => if p.2.run.isNone then t.takeClock p.1 else t) u) ∧
      ((∀ p ∈ s.cells, p.2.run = none → u.cellClk ≤ p.2.mhz) → s.tablesOk → completes (.cellClkWrite v) s fun t =>
        t = { u with cells := t.cells, base := t.base } ∧
        ∀ p ∈ s.cells, t.cell p.1 = if p.2.run = none then { p.2 with mhz := u.cellClk } else p.2))) ∧
  (∀ (s : State) (i : Nat),
    let x := s.cell i
    let a := min x.mhz (s.ceiling (i / 16))
    let b := min s.cellClk (s.ceiling (i / 16))
    let rise := cdiv (x.power * (b - a)) (max 1 a)
    (s.upRoom (i / 16) < rise → s.takeClock i = s) ∧
    (rise ≤ s.upRoom (i / 16) → s.takeClock i =
      ((s.noteRise (i / 16) rise).noteFall (i / 16) (x.power * (a - b) / max 1 a)).modCell i fun r => { r with mhz := s.cellClk }))

/-! ### The power-on order -/

/-- R377 to R385, R339: each step of the power-on order, under its start condition, brings its unit up, and does nothing without it; requests that
waited for a stack's training are served (R202). A stack's lane remaps are recorded as it trains (R224); a comb's BIST zeroes its
partitions (R177) and rebuilds its cells' `DEGRADED` marks (R179).
What the part reports of a unit is free (log entry 8). -/
def Obligations.PowerOnStepsComplete : Prop :=
  (∀ s : State, let low := s.power.aux ≠ none ∧ s.power.auxEnd = none
    (s.boot.mgmt = true ∨ low → exec .mgmtBoot s = .next s) ∧
    (s.boot.mgmt = false → ¬ low → completes .mgmtBoot s fun t =>
      t = { s with
        regs := t.regs, boot := { s.boot with mgmt := true }, sec := t.sec
        power := { s.power with aux := none, auxEnd := t.power.auxEnd }, log := t.log, out := t.out, msixPend := t.msixPend, free := t.free } ∧
      t.sec.kek = s.sec.sealedKek ∧
      t.log.mram.ring = (s.log.mram.ring.filter fun p => !Config.mramBad s.free p.1) ∧
      (s.sec.verify s.sec.pointer = true → t.sec.active = s.sec.pointer ∧ t.sec.fallback = false) ∧
      (s.sec.verify s.sec.pointer = false → t.sec.active = !s.sec.pointer ∧ t.sec.fallback = s.sec.verify (!s.sec.pointer)))) ∧
  (∀ s : State,
    let starts := s.boot.mgmt = true ∧ s.boot.boardTest = false ∧ s.boot.pwrGood = true ∧ 10600 ≤ s.power.vinMain ∧ s.boot.resetN = true ∧
      (s.boot.cause = 3 → s.boot.perstN = true) ∧ s.boot.rails = false
    let up (u : State) : State := (u.modBoot fun b => { b with rails := true }).modPower fun p => { p with tripped := false, coolAt := none }
    (¬ starts → exec .regulatorUp s = .next s) ∧ (s.power.tripped = true → s.power.coolAt = none → exec .regulatorUp s = .next s) ∧
    (s.power.tripped = false ∨ s.power.coolAt = none → exec .autoRestart s = .next s) ∧ (starts → s.power.tripped = false → exec .regulatorUp s = .next (up s)) ∧
    (∀ c, s.power.tripped = true → s.power.coolAt = some c →
      (starts → s.boot.cause ≠ 5 → c + 30000000 ≤ s.now → exec .regulatorUp s = .next (up s)) ∧
      (s.boot.cause = 5 ∨ s.now < c + 30000000 → exec .regulatorUp s = .next s) ∧
      let u := s.passTo (c + 30000000)
      (s.boot.cause = 5 → Config.autoRestart = false → exec .autoRestart s = .next u) ∧
      (¬ starts → exec .autoRestart s = .next u) ∧
      (starts → s.boot.cause ≠ 5 ∨ Config.autoRestart = true → exec .autoRestart s = .next (up u)))) ∧
  (∀ (s : State) (pass : Bool),
    let starts := s.boot.hub = false ∧ s.boot.rails = true ∧ s.boot.perstN = true ∧ s.boot.resetN = true ∧ (s.sec.validA = true ∨ s.sec.validB = true)
    (¬ starts → exec (.hubStart pass) s = .next s) ∧
    (starts → completes (.hubStart pass) s fun t => t.boot.hub = true ∧ t.clock = { s.clock with epoch := s.now } ∧
      t.fenced = (s.fenced || !pass) ∧
      t.sec.active = (if s.sec.valid s.sec.pointer then s.sec.pointer else !s.sec.pointer) ∧
      t.power = s.power ∧ t.queue = s.queue ∧ t.evt = s.evt ∧ t.phys = s.phys ∧ t.base = s.base)) ∧
  (∀ s : State,
    let starts := s.boot.hp0Ended = false ∧ s.boot.rails = true ∧ s.boot.perstN = true ∧ (s.sec.validA = true ∨ s.sec.validB = true)
    (∀ up, ¬ starts → exec (.hostLinkTrain up) s = .next s) ∧
    (starts → exec (.hostLinkTrain true) s = .next ((s.modBoot fun b => { b with hp0Ended := true, hp0 := true }).modSrc 70 fun r => { r with st := .active }) ∧
      exec (.hostLinkTrain false) s = .next ((s.modBoot fun b => { b with hp0Ended := true, hp0 := false }).event pgDevice))) ∧
  (∀ (s : State) (n : Fin 108),
    let starts := s.boot.hub = true ∧ Tab.get false s.boot.srcEnded n.val = false ∧ (n.val / 9 = 7 ∨ s.group7Over = true)
    let v := s.modBoot fun b => { b with srcEnded := Tab.set false b.srcEnded n.val true }
    (∀ lit, ¬ starts → exec (.sourceLight n lit) s = .next s) ∧
    (starts →
      (let u := (v.modSrc n.val fun r => { r with st := if isSpare n.val then .spareIdle else .active }).lightBack n.val
       let joined := match srcPort n.val with | some p => if (u.port p).st = CpState.off ∨ (u.port p).st = CpState.down then u.train p else u | none => u
       exec (.sourceLight n true) s = .next ((joined.noteReady s).notify s)) ∧
      (isSpare n.val = true → exec (.sourceLight n false) s =
        .next ((((((v.modSrc n.val fun r => { r with st := .active }).modSrc n.val fun r => { r with st := .retired, subst := none }).logEvent 0x26
          (0xC8 + n.val / 9) n.val 0).askWrite .flush |>.event pgLaser).noteReady s).notify s)) ∧
      (isSpare n.val = false → exec (.sourceLight n false) s =
        .next (((((v.modSrc n.val fun r => { r with st := .active }).abruptFail n.val).event pgLaser).noteReady s).notify s)))) ∧
  (∀ (s : State) (dp : Fin 17) (tx rx : List W16),
    let may := s.boot.hub = true ∧ s.boot.rails = true ∧ (s.waysLit dp.val = true ∨ s.fabricEnded = true) ∧
      ((s.diePort dp.val).ended = false ∨ (s.boot.die = some dp.val ∧ s.boot.dieStep = 0 ∧ (s.diePort dp.val).st ≠ .disputed))
    let differ := (s.diePort dp.val).ended = true ∧ s.mapsDiffer dp.val tx rx = true
    (¬ may → exec (.diePortTrain dp tx rx) s = .next s) ∧
    (may → differ → exec (.diePortTrain dp tx rx) s = .next (((s.modDp dp.val fun r => { r with st := .disputed }).noteReady s).notify s)) ∧
    (may → ¬ differ → s.tablesOk → completes (.diePortTrain dp tx rx) s fun t =>
      t = { s with regs := t.regs, base := t.base, boot := t.boot, out := t.out, msixPend := t.msixPend } ∧ (t.diePort dp.val).ended = true ∧
      (t.diePort dp.val).st = (if s.waysLit dp.val = false ∨ t.width dp.val false = 0 ∨ t.width dp.val true = 0 then .down else .up) ∧
      (∀ b < bundlesOf dp.val, (t.bundle dp.val false b).dark = !(s.bundleLit dp.val b) ∧
        (t.bundle dp.val false b).lost = (s.bundle dp.val false b).lost ||| (if s.bundleLit dp.val b then ~~~ (tx.getD b 0) else 0) ∧
        (t.bundle dp.val true b).lost = (s.bundle dp.val true b).lost ||| ~~~ (rx.getD b 0)) ∧
      (s.boot.die ≠ some dp.val → t.boot = s.boot) ∧
      (s.boot.die = some dp.val → t.boot = { s.boot with dieStep := if (t.diePort dp.val).st = .up then 1 else 2 }))) ∧
  (∀ (s : State) (n : Fin 8) (s0 s1 : Bool) (lanes0 lanes1 : List (BitVec 12)),
    let i : Instr := .storeDieReady n ⟨s0, lanes0⟩ ⟨s1, lanes1⟩
    let may := (s.diePort (8 + n.val)).st = .up ∧ (s.boot.sdEnded.getLsbD n.val = false ∨ (s.boot.die = some (8 + n.val) ∧ s.boot.dieStep = 1))
    (¬ may → exec i s = .next (s.serveWaiting.notify s)) ∧
    (may → (let u := (s.readyDie n.val s0 s1 lanes0 lanes1).serveWaiting; exec i s = .next (u.notify s)) ∧
      completes i s fun t =>
        (∀ i < 8, t.boot.sdReady.getLsbD i = (s.boot.sdReady.getLsbD i || decide (i = n.val)) ∧
          t.boot.sdEnded.getLsbD i = (s.boot.sdEnded.getLsbD i || decide (i = n.val))) ∧
        (∀ st < 16, t.boot.hbmUp.getLsbD st = if st = 2 * n.val then s0 else if st = 2 * n.val + 1 then s1 else s.boot.hbmUp.getLsbD st) ∧
        (∀ x ∈ s.mem.remaps, x ∈ t.mem.remaps) ∧
        (s0 = true → ∀ l ∈ lanes0, (2 * n.val, l.toNat) ∈ t.mem.remaps) ∧ (s1 = true → ∀ l ∈ lanes1, (2 * n.val + 1, l.toNat) ∈ t.mem.remaps) ∧
        (s.fab.serveQ = [] → t = { s with
          regs := t.regs, mem := t.mem, fab := t.fab, power := t.power, log := t.log, boot := t.boot, out := t.out, msixPend := t.msixPend, free := t.free }))) ∧
  (∀ (s : State) (c : Fin 8) (pass : BitVec 17) (deg : List W64),
    let may := (s.diePort c.val).st = .up ∧ (s.boot.combEnded.getLsbD c.val = false ∨ (s.boot.die = some c.val ∧ s.boot.dieStep = 1))
    (¬ may → exec (.combBist c ⟨pass, deg⟩) s = .next s) ∧
    (may → s.tablesOk → completes (.combBist c ⟨pass, deg⟩) s fun t =>
      t.boot.combEnded = s.boot.combEnded ||| BitVec.ofNat 8 (2 ^ c.val) ∧ t.sec = s.sec ∧ t.clock = s.clock ∧ t.base = s.base ∧ t.fab = s.fab ∧
      (∀ i < 16, (t.cell (c.val * 16 + i)).takeover = false) ∧
      (∀ p < 17, (t.physCell (c.val * 17 + p)).degraded = deg.getD p 0) ∧
      (∀ x ∈ t.mem.spad, x.1 / 2 ^ 28 ≠ c.val) ∧
      (pass.toNat = 2 ^ 17 - 1 → ∀ i < 16, (t.cell (c.val * 16 + i)).phys = some i ∧ (t.cell (c.val * 16 + i)).ready = true) ∧
      (∀ k < 16, pass.toNat = 2 ^ 17 - 1 - 2 ^ k → ∀ i < 16, (t.cell (c.val * 16 + i)).phys = some (if i = k then 16 else i) ∧
        (t.cell (c.val * 16 + i)).ready = true)))

/-- R27, R359, R381, R388, R390: LOCK forms the reserve once, from ready cells of different combs, no cell in two pairs, and undoes the picks
of B-class commands for its cells; DIE_GO starts a
die reset, waits for a persistent write that uses the die, or is discarded; a die reset ends with its steps; the next persistent write
starts if its check passes, and is refused if not; at its end it leaves what it wrote, and what waited for it follows.
Which units a die reset resets and what a refused pointer write leaves are the model's readings (log entries 35 and 88). -/
def Obligations.LockDieResetsAndPersistentWritesComplete : Prop :=
  (∀ (s : State) (v : W32), (s.pageUse pgDevice = false → exec (.lock v) s = .next s ∧ exec (.dieGo v) s = .next s) ∧
    (bit v 31 = false → exec (.lock v) s = .next s) ∧ (bit v 30 = false → exec (.dieGo v) s = .next s) ∧
    (s.pageUse pgDevice = true → bit v 31 = true → bit v 30 = false →
      (s.boot.locked = true → completes (.lock v) s fun t => t = { s with regs := t.regs, out := t.out, msixPend := t.msixPend }) ∧
      (s.boot.locked = false → s.tablesOk → completes (.lock v) s fun t =>
        t = { s with regs := t.regs, pairs := t.pairs, cells := t.cells, boot := { s.boot with locked := true }, out := t.out, msixPend := t.msixPend } ∧
        (∀ c, t.cell c = s.cell c ∨ t.cell c = { s.cell c with picked := none }) ∧
        (∀ p ∈ t.pairs, ∀ c ∈ [p.a, p.b], ∀ id, (t.cell c).picked = some id → (s.cx id.ctx.val).isB = false) ∧
        t.pairs.length ≤ fld (s.rd pgCtx 0x200) 4 0 ∧ (t.pairs.flatMap fun p => [p.a, p.b]).Nodup ∧
        ∀ p ∈ t.pairs, p.a / 16 ≠ p.b / 16 ∧ s.cellReady p.a = true ∧ s.cellReady p.b = true ∧ s.pinnedB p.a = false ∧ s.pinnedB p.b = false)) ∧
    (∀ d, s.pageUse pgDevice = true → bit v 30 = true → bit v 31 = false → d = fld v 3 0 →
      (s.boot.die ≠ none ∨ s.boot.dieWait ≠ none ∨ s.done = false → completes (.dieGo v) s fun t => t = { s with regs := t.regs, out := t.out, msixPend := t.msixPend }) ∧
      (s.boot.die = none → s.boot.dieWait = none → s.done = true → s.writeUses d = true → completes (.dieGo v) s fun t =>
        t = { s with regs := t.regs, boot := { s.boot with dieWait := some d }, out := t.out, msixPend := t.msixPend }) ∧
      (s.boot.die = none → s.boot.dieWait = none → s.done = true → s.writeUses d = false → s.tablesOk → completes (.dieGo v) s fun t =>
        t.boot.die = some d ∧ t.boot.dieStep = 0 ∧ t.sec = s.sec ∧ t.power = s.power ∧ t.phys = s.phys ∧ t.clock = s.clock ∧
        (d < 8 → ∀ i < 16, (t.cell (d * 16 + i)).phys = none) ∧
        (8 ≤ d → t.boot.sdReady.getLsbD (d - 8) = false ∧ (t.diePort d).st = .training ∧
          ∀ x ∈ t.mem.direct, ¬ ((d - 8) * 2 ^ 26 ≤ x.1 ∧ x.1 < (d - 7) * 2 ^ 26))))) ∧
  (∀ s : State, (s.boot.die ≠ none → s.boot.dieStep = 2 → exec .dieResetDone s = .next (s.modBoot fun b => { b with die := none })) ∧
    (s.boot.die = none ∨ s.boot.dieStep ≠ 2 → exec .dieResetDone s = .next s)) ∧
  (∀ (s : State) (v : W16),
    (s.power.running ≠ none ∨ s.power.writes = [] ∨ s.power.supply ≠ .ok → exec (.persistentWriteStart v) s = .next s) ∧
    (∀ w rest, s.power.running = none → s.power.writes = w :: rest → s.power.supply = .ok →
      (s.flushSoon w = true → exec (.persistentWriteStart v) s = .next s) ∧
      (s.flushSoon w = false →
        let u := s.modPower fun p => { p with vhold := v, writes := rest }
        let enough := w.needs * 20000000 ≤ s.holdCap * (v.toNat * v.toNat - 2000 * 2000)
        (¬ enough → exec (.persistentWriteStart v) s = .next (u.writeRefused w) ∧
          (w = .flush → exec (.persistentWriteStart v) s = .next (u.modLog fun l => { l with refused := satAdd 16 l.refused 1, pending := true })) ∧
          (∀ b, w = .pointer b → completes (.persistentWriteStart v) s fun t => t.sec.pointer = s.sec.pointer ∧
            t.log.refused = satAdd 16 s.log.refused 1 ∧ t.log.pending = true ∧ fld (t.rd pgDevice 0x124) 7 0 = Rs.holdupLow)) ∧
        (enough → ((∀ row go, w ≠ .hard row go) ∨ (∃ row go, w = .hard row go ∧ s.stackUp (rowStack row) = true ∧ (s.mem.row row).soft = true ∧
            s.mem.budgetLeft (rowBank row) ≠ 0)) →
          exec (.persistentWriteStart v) s = .next (u.modPower fun p => { p with running := some w })) ∧
        (enough → ∀ row go, w = .hard row go →
          (s.stackUp (rowStack row) = false ∨ (s.mem.row row).soft = false → exec (.persistentWriteStart v) s = .next (u.goResult row go Rs.ok)) ∧
          (s.stackUp (rowStack row) = true → (s.mem.row row).soft = true → s.mem.budgetLeft (rowBank row) = 0 →
            exec (.persistentWriteStart v) s =
              .next ((if (s.mem.row row).hard ≠ 0 then u.retirePage (row / 64) 2 else u).goResult row go Rs.noBudget)))))) ∧
  (∀ s : State,
    (s.power.running = none → s.boot.dieWait = none → exec .persistentWriteDone s = .next s) ∧
    (∀ d, s.power.running = none → s.boot.dieWait = some d → exec .persistentWriteDone s = .next ((s.beginDie d).notify s)) ∧
    (∀ w, s.power.running = some w →
      let u := s.writeDone w
      (w = .flush ∨ (∃ b, w = .pointer b) → u.log.wait = [] ∧ u.log.mram = u.log.acc ∧ u.log.acc.flushes = s.log.acc.flushes + 1 ∧
        u.log.lastAt = some s.now ∧ u.mem.retiredNew = [] ∧ u.mem.remapsNew = [] ∧ ∀ x ∈ u.mem.rows, x.2.kept = x.2.soft) ∧
      (∀ b, w = .pointer b → u.sec.pointer = b) ∧ (∀ b image, w = .bank b image → u.sec.image b = image) ∧
      (∀ via k, w = .kek via k → u.sec.sealedKek = some k) ∧ (∀ n, w = .svn n → u.sec.minSvn = max s.sec.minSvn n) ∧
      (s.power.resetDue = false → s.boot.dieWait = none → exec .persistentWriteDone s = .next (u.notify s)) ∧
      (∀ d, s.power.resetDue = false → s.boot.dieWait = some d → exec .persistentWriteDone s = .next ((u.beginDie d).notify s)) ∧
      (s.power.resetDue = true → completes .persistentWriteDone s fun t => lostWork u t 4 ∧ keptLog u t 4)))

/-! ### Security -/

/-- R397 to R399: LOAD unwraps a key into the selected slot, CLEAR empties it, each with its refusals in order, and LOAD always zeroes
the wrap registers; SET_KEK in a ready session takes effect at once, and with PERSIST asks for a key-store write, whose outcome answers the session that asked; outside
such a session it has no effect.
The key wrap itself is the one that R398 names and the manual does not restate (log entry 7). -/
def Obligations.KeySlotsComplete : Prop :=
  (∀ s : State, s.pageUse pgSec = true →
    let k := fld (s.rd pgSec 0x100) 11 0
    let used := ∃ p ∈ s.ctx, p.2.st ≠ .free ∧ p.2.keySlot = k
    let ws := (List.range 18).map fun i => Tab.get 0 s.sec.wrap i
    let loads (slots : Tab KeyTag) (st : W32) : Prop := exec .keyLoad s = .next ((s.modSec fun x => { x with wrap := [], keys := slots }).wr pgSec 0x108 st)
    (used → loads s.sec.keys 0x04 ∧ exec .keyClear s = .next (s.wr pgSec 0x108 0x04)) ∧
    (¬ used → exec .keyClear s = .next ((s.modSec fun x => { x with keys := Tab.set none x.keys k none }).wr pgSec 0x108 0)) ∧
    (¬ used → s.sec.kek = none → loads s.sec.keys 0x10) ∧
    (∀ kek, ¬ used → s.sec.kek = some kek → Config.keyUnwrap kek ws = none → loads s.sec.keys 0x0F) ∧
    (∀ kek v, ¬ used → s.sec.kek = some kek → Config.keyUnwrap kek ws = some v →
      (v.toNat / 2 ^ 256 = v.toNat % 2 ^ 256 → loads s.sec.keys 0x0F) ∧
      (v.toNat / 2 ^ 256 ≠ v.toNat % 2 ^ 256 → loads (Tab.set none s.sec.keys k (some v)) 0))) ∧
  (∀ s : State, s.pageUse pgSec = false → exec .keyLoad s = .next s ∧ exec .keyClear s = .next s) ∧
  (∀ (s : State) (n : Fin 4) (kek : BitVec 256),
    (s.session n.val = none ∨ (∃ x, s.session n.val = some x ∧ (x.ready = false ∨ s.answers x.via = false)) →
      ∀ persist, exec (.setKek n kek persist) s = .next s) ∧
    ∀ x, s.session n.val = some x → x.ready = true → s.answers x.via = true →
      exec (.setKek n kek true) s = .next ((s.modSec fun y => { y with kek := some kek }).modPower fun p => { p with writes := p.writes ++ [.kek x.id kek] }) ∧
      exec (.setKek n kek false) s = .next (((s.modSec fun y => { y with kek := some kek }).setSession n.val (some { x with sent := x.sent + 1 })).emit
        (.secured x.via n.val (Config.spdmSeal x.key x.sent 0x7E [0]))))

/-- R393, R394: the SPDM responder answers VERSION, CAPABILITIES, ALGORITHMS in this order and the other requests after them; a request
out of order gets an ERROR, and none answers while its transport is down; only slot 0 holds a certificate; a session begins with
KEY_EXCHANGE, is ready after FINISH, and takes KEY_UPDATE, HEARTBEAT and END_SESSION, whose answers go out protected under the session's key
and its count of messages sent. The bits that spell the table's capabilities and algorithms, and the codes of the responses, are those of
DSP0274, which the model presumes (log entry 7). -/
def Obligations.SpdmRequestsComplete : Prop :=
  (∀ (s : State) (via : Transport) (off : Bool) (slot : Fin 8) (nonce : BitVec 256) (index : Option (Fin 256)) (share key : BitVec 768),
    let late : List Instr := [.getDigests via, .getCertificate via slot, .challenge via slot nonce, .getMeasurements via index nonce,
      .keyExchange via slot share, .vendorDefinedRequest via key]
    let replies (i : Instr) (t : State) (code : Byte) (body : List Nat) : Prop := exec i s = .next (t.emit (.spdm via code body))
    (s.answers via = false → ∀ i ∈ [Instr.getVersion via, .getCapabilities via, .negotiateAlgorithms via off] ++ late, exec i s = .next s) ∧
    (s.answers via = true →
      replies (.getVersion via) (s.setConn via .version) 0x04 [0x12] ∧
      (s.conn via = .version → replies (.getCapabilities via) (s.setConn via .capabilities) 0x61 [0x62D6]) ∧
      (s.conn via ≠ .version → replies (.getCapabilities via) s 0x7F [4]) ∧
      (s.conn via = .capabilities → replies (.negotiateAlgorithms via true) (s.setConn via .algorithms) 0x63 [0x80, 0x2, 0x10, 0x2] ∧
        replies (.negotiateAlgorithms via false) s 0x7F [1]) ∧
      (s.conn via ≠ .capabilities → replies (.negotiateAlgorithms via off) s 0x7F [4]) ∧
      (s.conn via ≠ .algorithms → ∀ i ∈ late, replies i s 0x7F [4]) ∧
      (s.conn via = .algorithms →
        replies (.getDigests via) s 0x01 [1, (Config.sha384 Config.certChain).toNat] ∧
        replies (.getCertificate via slot) s (if slot.val = 0 then 0x02 else 0x7F) [if slot.val = 0 then Config.certChain else 1] ∧
        replies (.challenge via slot nonce) s (if slot.val = 0 then 0x03 else 0x7F)
          [if slot.val = 0 then Config.deviceSign (Config.sha384 nonce.toNat) else 1] ∧
        (∀ i : Fin 256, 1 ≤ i.val → i.val ≤ 5 → ∃ sig, replies (.getMeasurements via (some i) nonce) s 0x60 [(Tab.get 0 s.sec.meas i.val).toNat, sig]) ∧
        (∃ sig, replies (.getMeasurements via none nonce) s 0x60 (((List.range 5).map fun i => (Tab.get 0 s.sec.meas (i + 1)).toNat) ++ [sig])) ∧
        (∀ i : Fin 256, i.val = 0 ∨ 5 < i.val → replies (.getMeasurements via (some i) nonce) s 0x7F [1]) ∧
        replies (.vendorDefinedRequest via key) (s.modSec fun x => { x with ownerKey := some key }) 0x7E [0] ∧
        (slot.val ≠ 0 → replies (.keyExchange via slot share) s 0x7F [1]) ∧
        (slot.val = 0 → (∀ n < 4, s.session n ≠ none) → replies (.keyExchange via slot share) s 0x7F [0xA]) ∧
        ∀ n < 4, slot.val = 0 → s.session n = none → (∀ m < n, s.session m ≠ none) → completes (.keyExchange via slot share) s fun t =>
          (∃ key, t.session n = some ⟨false, key, via, s.free, 0⟩) ∧ t = { s with sec := { s.sec with sessions := t.sec.sessions }, out := t.out, free := t.free }))) ∧
  (∀ (s : State) (n : Fin 4), (s.session n.val = none ∨ ∃ x, s.session n.val = some x ∧ s.answers x.via = false) →
    (∀ i ∈ [Instr.keyUpdate n, .heartbeat n, .endSession n], exec i s = .next s) ∧ ∀ ok, exec (.finish n ok) s = .next s) ∧
  (∀ (s : State) (n : Fin 4) (x : Session), s.session n.val = some x → s.answers x.via = true →
    (x.ready = false →
      exec (.finish n true) s = .next ((s.setSession n.val (some { x with ready := true, sent := x.sent + 1 })).emit
        (.secured x.via n.val (Config.spdmSeal x.key x.sent 0x65 []))) ∧
      exec (.finish n false) s = .next ((s.setSession n.val none).emit (.spdm x.via 0x7F [6])) ∧
      exec (.keyUpdate n) s = .next s ∧ exec (.heartbeat n) s = .next s ∧ exec (.endSession n) s = .next s) ∧
    (x.ready = true →
      (∃ key, exec (.keyUpdate n) s = .next ((s.draw.setSession n.val (some { x with key := key, sent := 1 })).emit
        (.secured x.via n.val (Config.spdmSeal key 0 0x69 [])))) ∧
      exec (.heartbeat n) s = .next ((s.setSession n.val (some { x with sent := x.sent + 1 })).emit
        (.secured x.via n.val (Config.spdmSeal x.key x.sent 0x68 []))) ∧
      exec (.endSession n) s = .next (((s.setSession n.val (some { x with sent := x.sent + 1 })).emit
        (.secured x.via n.val (Config.spdmSeal x.key x.sent 0x6C []))).setSession n.val none) ∧ ∀ ok, exec (.finish n ok) s = .next s))

/-- R401, R402, R404, R405: a link is up under fresh keys once a peer whose chain verifies and whose DATA scope is closed has completed
the exchange, and down otherwise or 100 ms late; keys rotate; CHALLENGE gives a fresh nonce; a good token unlocks its scopes, and
one with DATA first tears every context down and empties the key slots, and DATA itself unlocks once every context is `FREE`; a bad one
unlocks nothing; RELOCK locks. -/
def Obligations.LinkKeysAndDebugUnlockComplete : Prop :=
  (∀ (s : State) (p : Fin 32) (peer : LinkPeer),
    ((s.port p.val).link ≠ .keying → exec (.linkKeyExchange p peer) s = .next s ∧ exec (.linkKeyExchangeTimeout p) s = .next s) ∧
    ((s.port p.val).link = .keying →
      (peer.chainOk = false ∨ peer.dataOpen = true ∨ peer.enc = false → exec (.linkKeyExchange p peer) s = .next ((s.portDown p.val 0xD).notify s)) ∧
      (peer.chainOk = true → peer.dataOpen = false → peer.enc = true → completes (.linkKeyExchange p peer) s fun t =>
        (t.port p.val).st = .up ∧ (t.port p.val).link = .secure ∧ (t.port p.val).txKey.isSome = true ∧ (t.port p.val).rxKey.isSome = true ∧
        (t.port p.val).keyAt = s.now ∧ t = { s with regs := t.regs, fab := t.fab, out := t.out, msixPend := t.msixPend, free := t.free }) ∧
      exec (.linkKeyExchangeTimeout p) s = .next (((s.passTo ((s.port p.val).keyAt + 100000)).portDown p.val 0xD).notify s)) ∧
    ((s.port p.val).link ≠ .secure → exec (.linkKeyRotate p) s = .next s) ∧
    ((s.port p.val).link = .secure → completes (.linkKeyRotate p) s fun t => (t.port p.val).link = .secure ∧
      (t.port p.val).txCount = 0 ∧ (t.port p.val).rxCount = 0 ∧ (t.port p.val).keyAt = t.clock.now ∧
      t = { s with clock := t.clock, fab := t.fab, cntBanks := t.cntBanks, free := t.free } ∧
      t.clock.now = (if 2 ^ 32 ≤ (s.port p.val).txCount + 1 ∨ 2 ^ 32 ≤ (s.port p.val).rxCount + 1 then s.now
        else max s.now ((s.port p.val).keyAt + 1000000 * fld (s.reg (linkKeyAt p.val)) 11 0)))) ∧
  (∀ s : State, s.pageUse pgSec = false → exec .dbgChallenge s = .next s ∧ exec .submit s = .next s ∧ exec .relock s = .next s) ∧
  (∀ s : State, s.pageUse pgSec = true →
    (completes .dbgChallenge s fun t => t = { s with sec := { s.sec with nonce := t.sec.nonce, fresh := true, dbg := t.sec.dbg }, free := t.free } ∧
      t.sec.dbg = (if s.sec.dbg = .unlocked then .unlocked else .challenged)) ∧
    (s.sec.tokenGood = false → exec .submit s = .next (s.modSec fun x => { x with
      fresh := false, dbgResult := 0x11, dbg := if x.dbg = .challenged then .locked else x.dbg })) ∧
    (s.sec.tokenGood = true → s.sec.tokenScope.getLsbD 3 = false → exec .submit s = .next (s.modSec fun x =>
      ({ x with fresh := false, dbgResult := 0, dbg := .unlocked, scope := x.scope ||| (x.tokenScope &&& 7) } : Sec).measureDebug).unlockData) ∧
    (s.sec.tokenGood = true → s.sec.tokenScope.getLsbD 3 = true → s.tablesOk → completes .submit s fun t =>
      (let v := ({ s.sec with
          keys := [], dataDue := true, fresh := false, dbgResult := 0, dbg := .unlocked, scope := s.sec.scope ||| (s.sec.tokenScope &&& 7) } : Sec).measureDebug
       t.sec = if s.ctx.all (fun p => p.2.st = .free) then ({ v with dataDue := false, keys := [], scope := v.scope ||| 8 } : Sec).measureDebug else v) ∧
      (∀ c, s.mayTear c = true → (t.cx c).st = .zeroing) ∧ t.clock = s.clock ∧ t.phys = s.phys ∧ t.power = s.power ∧ t.boot = s.boot) ∧
    (s.tablesOk → completes .relock s fun t => t = { s with
        regs := t.regs, sec := t.sec, mem := t.mem, boot := { s.boot with stackOut := 0 }, out := t.out, msixPend := t.msixPend } ∧
      (s.mem.bar4 = [] → t.mem = s.mem) ∧
      t.sec = ({ s.sec with fresh := false, dbg := .locked, scope := 0, dataDue := false } : Sec).measureDebug ∧
      ∀ n < 8, t.rd (pgSd n) 0x140 = 0 ∧ t.rd (pgSd n) 0x144 = 0)) ∧
  (∀ s : State,
    ((s.sec.dataDue = true ∧ ∀ p ∈ s.ctx, p.2.st = .free) → s.unlockData = s.modSec fun x =>
      ({ x with dataDue := false, keys := [], scope := x.scope ||| 8 } : Sec).measureDebug) ∧
    (¬ (s.sec.dataDue = true ∧ ∀ p ∈ s.ctx, p.2.st = .free) → s.unlockData = s))

/-- R385, R386, R392, R445: ACTIVATE, from the register or the management endpoint, verifies the inactive bank and asks for the pointer's
write; CANCEL takes it back; the sequencers switch once no context has an open step, to a bank that verifies (R2); only the inactive bank
is written, within its size (R452) and while no activation runs; MIN_SVN rises by a signed request only. That an activation refuses an
update, and that a bank which fails at the switch gives the pointer back, are the model's choices (log entry 38). -/
def Obligations.MicrocodeUpdateCompletes : Prop :=
  (∀ s : State,
    let other := !s.sec.active
    let u := s.modSec fun x => x.setValid other (x.verify other)
    let activates (i : Instr) : Prop :=
      (s.sec.uc ≠ .idle → exec i s = .next s) ∧
      (s.sec.uc = .idle → s.sec.verify other = false → exec i s = .next (u.wr pgDevice 0x124 0x0D)) ∧
      (s.sec.uc = .idle → s.sec.verify other = true → exec i s =
        .next ((u.modSec fun x => { x with uc := .pointer }).modPower fun p => { p with writes := p.writes ++ [.pointer other] }))
    (s.pageUse pgDevice = true → activates .activate) ∧ (s.boot.mgmt = true → activates .activateFirmware) ∧
    (s.boot.mgmt = false → exec .activateFirmware s = .next s) ∧
    (s.pageUse pgDevice = false → exec .activate s = .next s ∧ exec .cancel s = .next s)) ∧
  (∀ s : State, s.pageUse pgDevice = true →
    let back := (s.modSec fun x => { x with uc := .undo }).modPower fun p => { p with writes := p.writes ++ [.pointer s.sec.active] }
    (s.sec.uc = .idle ∨ s.sec.uc = .undo → exec .cancel s = .next s) ∧ (s.sec.uc = .waiting → exec .cancel s = .next back) ∧
    (s.sec.uc = .pointer → (∃ b, s.power.running = some (.pointer b)) → exec .cancel s = .next back) ∧
    (s.sec.uc = .pointer → (∀ b, s.power.running ≠ some (.pointer b)) → completes .cancel s fun t =>
      t = (({ s with sec := { s.sec with uc := .idle }, power := { s.power with writes := t.power.writes } } : State)).wr pgDevice 0x124 0 ∧
      t.power.writes.Sublist s.power.writes ∧ ∀ w, w ∈ t.power.writes ↔ w ∈ s.power.writes ∧ ∀ b, w ≠ .pointer b)) ∧
  (∀ s : State, (s.sec.uc ≠ .waiting ∨ (∃ p ∈ s.ctx, p.2.step.st = .opened) → exec .microcodeSwitch s = .next s) ∧
    (s.sec.uc = .waiting → (∀ p ∈ s.ctx, p.2.step.st ≠ .opened) → s.sec.verify s.sec.pointer = false → exec .microcodeSwitch s =
      .next (((s.modSec fun x => { x with uc := .idle }).wr pgDevice 0x124 0x0D).modPower fun p => { p with writes := p.writes ++ [.pointer s.sec.active] })) ∧
    (s.sec.uc = .waiting → (∀ p ∈ s.ctx, p.2.step.st ≠ .opened) → s.sec.verify s.sec.pointer = true → completes .microcodeSwitch s fun t =>
      t.sec = ({ s.sec with active := s.sec.pointer, fallback := false, uc := .idle } : Sec).measureBank ∧ PWrite.flush ∈ t.power.writes ∧
      t.regs = (s.wr pgDevice 0x124 0).regs ∧ t = { s with regs := t.regs, sec := t.sec, power := t.power, log := t.log } ∧
      (s.logOn = true → s.log.wait.length < 1024 → t.log.wait = s.log.wait ++
        [⟨0x51, 0x110, s.log.acc.minutes, s.sec.ucRev s.sec.pointer, 0⟩]))) ∧
  (∀ (s : State) (b : Bool) (image : BankImage), (s.boot.mgmt = false → exec (.updateComponent b image) s = .next s) ∧
    (let refuses := s.sec.uc ≠ .idle ∨ 2 ^ 25 ≤ image.content.log2 ∨ ((s.sec.validA = true ∨ s.sec.validB = true) ∧ b = s.sec.active)
     (s.boot.mgmt = true → refuses → exec (.updateComponent b image) s = .next (s.emit (.pldmResult false 0x80))) ∧
     (s.boot.mgmt = true → ¬ refuses → exec (.updateComponent b image) s = .next (s.modPower fun p => { p with writes := p.writes ++ [.bank b image] })))) ∧
  (∀ (s : State) (n sig : Nat), (s.boot.mgmt = false → exec (.minSvnRaise n sig) s = .next s) ∧
    (s.boot.mgmt = true → (n ≤ s.sec.minSvn ∨ Config.ecdsaVerify Config.microcodeKey (Config.sha384 n) sig = false) →
      exec (.minSvnRaise n sig) s = .next (s.emit (.pldmResult true 0x80))) ∧
    (s.boot.mgmt = true → s.sec.minSvn < n → Config.ecdsaVerify Config.microcodeKey (Config.sha384 n) sig = true →
      exec (.minSvnRaise n sig) s = .next (s.modPower fun p => { p with writes := p.writes ++ [.svn n] })))

/-! ### Functions, pins and registers -/

/-- R378, R389, R438, R439, R453: a function's reset tears down its contexts and no other's, PF0's all of them; HP0 answers configuration
requests once the hub has started, for the functions that exist, sizes BAR4, and masks a function's MSI-X vectors, what is pending leaving
as they are unmasked (the offsets of these capabilities, log entry 21; the mask, 69); a DMA read that fails ends its command, or the unstarted
descriptor that it was to bring, one without a command being an AER log entry; the board-test instructions come into force, and EXTEST and
CLAMP, which hold the regulators off, lose the work at once (their codes, and that a persistent write goes on, log entry 98). -/
def Obligations.FunctionResetsAndPinsComplete : Prop :=
  (∀ (s : State) (fn : Fin 256), s.tablesOk → (fn.val = 0 → exec (.functionLevelReset fn) s = .next s) ∧
    (fn.val ≠ 0 → completes (.functionLevelReset fn) s fun t => t.sec = s.sec ∧ t.boot = { s.boot with
        msixMask := s.boot.msixMask.filter fun n => n ≠ fn.val } ∧ (∀ p ∈ t.msixPend, p.1 ≠ fn.val) ∧ t.power = s.power ∧ t.clock = s.clock ∧
      ∀ c, (s.mayTear c = true → (s.cx c).owner = fn.val → (t.cx c).st = .zeroing) ∧
        ((s.cx c).owner ≠ fn.val → (t.cx c).st = (s.cx c).st))) ∧
  (∀ (s : State) (lost : Bool), s.tablesOk → completes (.pf0Reset lost) s fun t =>
    t.boot = { s.boot with vfs := false, hp0 := s.boot.hp0 && !lost, msixMask := [] } ∧ t.msixPend = [] ∧ t.sec = s.sec ∧ t.power = s.power ∧ t.clock = s.clock ∧
    ∀ c, s.mayTear c = true → (t.cx c).st = .zeroing) ∧
  (∀ (s : State) (fn : Fin 256) (req : CfgReq) (reg : BitVec 12) (v : W32),
    (s.boot.hp0 = false → exec (.configurationRequest fn req) s = .next s) ∧
    (s.boot.hp0 = true → s.boot.hub = false → exec (.configurationRequest fn req) s = .next (s.emit .cfgRetry)) ∧
    (s.boot.hp0 = true → s.boot.hub = true → fn.val ≠ 0 → s.boot.vfs = false → exec (.configurationRequest fn req) s = .next (s.emit .unsupported)) ∧
    (s.boot.hp0 = true → s.boot.hub = true → fn.val = 0 ∨ s.boot.vfs = true →
      exec (.configurationRequest fn (.read 8)) s = .next (s.emit (.cfgDone (0x12000000 ||| (devRev &&& 0xFF)))) ∧
      exec (.configurationRequest fn (.read 0)) s = .next (s.emit (.cfgDone (if fn.val = 0 then 0x0F481F3A else 0x0F491F3A))) ∧
      completes (.configurationRequest fn (.read reg)) s (fun t => ∃ x, t = s.emit (.cfgDone x)) ∧
      (∃ x, exec (.configurationRequest fn (.read 0xB0)) s = .next (s.emit (.cfgDone x)) ∧
        fld x 26 16 = (if fn.val = 0 then 2047 else 15) ∧ bit x 30 = s.boot.msixMask.contains fn.val) ∧
      (fn.val = 0 → (∃ x, exec (.configurationRequest fn (.read 0x168)) s = .next (s.emit (.cfgDone x)) ∧ bit x 0 = s.boot.vfs) ∧
        exec (.configurationRequest fn (.read 0x16C)) s = .next (s.emit (.cfgDone 0x00FF00FF)) ∧
        exec (.configurationRequest fn (.read 0x174)) s = .next (s.emit (.cfgDone 0x00010001)) ∧
        ∃ x, exec (.configurationRequest fn (.read 0x208)) s = .next (s.emit (.cfgDone x)) ∧ fld x 13 8 = s.boot.bar4 % 64) ∧
      (let u := s.modBoot fun b => { b with cfg := Tab.set 0 b.cfg (fn.val * 4096 + reg.toNat) v }
       let n := fld v 13 8
       let w : State :=
         if reg.toNat = 0xB0 then
           if bit v 30 then u.modBoot fun b => { b with msixMask := b.msixMask.filter (fun f => f ≠ fn.val) ++ [fn.val] }
           else { u.modBoot fun b => { b with msixMask := b.msixMask.filter fun f => f ≠ fn.val } with
             msixPend := s.msixPend.filter fun p => p.1 ≠ fn.val
             out := ((s.msixPend.filter fun p => p.1 = fn.val).map fun p => Out.msix p.1 p.2).reverse ++ s.out }
         else if fn.val = 0 ∧ reg.toNat = 0x168 then u.modBoot fun b => { b with vfs := bit v 0 }
         else if fn.val = 0 ∧ reg.toNat = 0x208 ∧ (n = 0 ∨ 10 ≤ n ∧ n ≤ 20) then u.modBoot fun b => { b with bar4 := n }
         else u
       exec (.configurationRequest fn (.write reg v)) s = .next (w.emit (.cfgDone 0))))) ∧
  (∀ (s : State) (id : CmdId) (r : Run), exec (.completionTimeout none) s = .next (s.emit .aer) ∧
    (s.run? id = none → (ringSpace (s.qu id.ctx.val id.q.val).cfg ≠ 4 → exec (.completionTimeout (some id)) s = .next s) ∧
      (ringSpace (s.qu id.ctx.val id.q.val).cfg = 4 → exec (.completionTimeout (some id)) s =
        let failed (f : Fetched) : Fetched := if cmdId id.ctx.val id.q.val f = id then
          { f with bad := some (St.pageFault, 0), words := setAt 0 (List.replicate 32 0) 1 f.expect } else f
        .next ((s.unpick fun x => x = id).modQu id.ctx.val id.q.val fun q => { q with fetched := q.fetched.map failed }))) ∧
    ((∃ x, s.run? id = some x ∧ (x.res ≠ none ∨ opcodeOf x.words ≠ 0x20 ∨
        ((slot x.words 1).space ≠ 4 ∧ (slot x.words 2).space ≠ 4))) → exec (.completionTimeout (some id)) s = .next s) ∧
    (running s id r 0x20 → ((slot r.words 1).space = 4 ∨ (slot r.words 2).space = 4) → completes (.completionTimeout (some id)) s fun t =>
      ended t id 0x07 0 ∧ t = { s with
        ctx := t.ctx, str := t.str, queue := t.queue, evt := t.evt, runs := t.runs, mem := t.mem, free := t.free } ∧
      (isAtomic r.words = false → t.queue = s.queue ∧ t.evt = s.evt))) ∧
  (∀ (s : State) (lands load : BitVec 46),
    let into (j : BitVec 5) : State := s.modBoot fun b => { b with jtag := j }
    exec .bypass s = .next (into 31) ∧
    exec .idcode s = .next ((into 1).emit (.jtag (BitVec.ofNat 64 (Config.stepping.toNat % 16 * 2 ^ 28 + 0xF048 * 2 ^ 12 + 0x3D1 * 2 + 1)))) ∧
    exec (.samplePreload lands load) s = .next ((s.modBoot fun b => { b with jtag := 2, scan := load }).emit (.jtag (lands.setWidth 64))) ∧
    exec .highz s = .next ((into 5).emit (.pins none)) ∧
    ∀ i j, (i, j) ∈ [(Instr.extest, (0 : BitVec 5)), (.clamp, 4)] →
      (s.boot.rails = false → exec i s = .next ((into j).emit (.pins (some s.boot.scan)))) ∧
      (s.boot.rails = true → completes i s fun t => t.boot.jtag = j ∧ t.boot.rails = false ∧ Out.pins (some s.boot.scan) ∈ t.out ∧
        t.power.resetDue = false ∧ ((∀ row go, s.power.running ≠ some (.hard row go)) → lostWork s t 4 ∧ keptLog s t 4 ∧
          t.power.running = s.power.running)))

/-- R426 to R431, R382, R404, R440, R443, R446: a register write stores the register's fields, clears a W1C bit, or is the command whose row it
is; a write through the BAR0 of a virtual function is dropped; one of the wrong size or place sets BAD_ACCESS, and none answers
where a function has no BAR0 or the hive is fenced; injection sets the listed error bits while INJECT is unlocked; the I3C endpoint takes
one address, reads any word and writes what R446 lets it. -/
def Obligations.RegisterAccessesComplete : Prop :=
  (∀ (s : State) (fn : Fin 256) (off : BitVec 26) (v : W32) (p : Page) (rel : Nat), fn.val = 0 → off.toNat % 4 = 0 → pageOf off.toNat = some (p, rel) →
    let writes (t : State) : Prop := exec (.registerWrite (.bar0 fn off) v) s = .next (t.notify s)
    (s.fenced = true → exec (.registerWrite (.bar0 fn off) v) s = .next s) ∧
    (s.fenced = false → writes (s.pageStore p rel v) ∧
      (p.kind ∈ [PageKind.comb, .base, .laser, .safe] → 0x100 ≤ rel → (p.kind = .laser → rel ≠ 0x120) → s.pageReady p = true →
        writes (s.storeReg p rel v)) ∧
      (p = pgLaser → rel = 0x120 → s.pageReady p = true → writes (s.writeEl v)) ∧
      (0x100 ≤ rel → s.pageReady p = false → exec (.registerWrite (.bar0 fn off) v) s = .next s) ∧
      (rel = 0x18 → writes (s.wr p 0x18 (s.rd p 0x18 &&& ~~~ v))) ∧ (rel = 0x20 → writes (s.wr p 0x20 (s.rd p 0x20 &&& ~~~ (v &&& 0xFFFF)))) ∧
      ∀ i, (p, rel, v, i) ∈ [(pgSec, 0x104, (1 : W32), Instr.keyLoad), (pgSec, 0x104, 2, .keyClear), (pgSec, 0x1C0, 1, .dbgChallenge),
          (pgSec, 0x1C0, 2, .submit), (pgSec, 0x1C0, 4, .relock), (pgDevice, 0x120, 1, .activate), (pgDevice, 0x120, 2, .cancel)] →
        ∃ t, exec i s = .next t ∧ writes t)) ∧
  (∀ (s : State) (fn : Fin 256) (off : BitVec 26) (v : W32),
    (fn.val ≠ 0 → off.toNat % 4 = 0 → exec (.registerWrite (.bar0 fn off) v) s = .next s) ∧
    (off.toNat % 4 ≠ 0 → exec (.registerWrite (.bar0 fn off) v) s =
      .next (if s.hasBar0 fn.val off.toNat = true ∧ s.answersAt off.toNat = true then s.errSet pgDevice 0 |>.notify s else s)) ∧
    (pageOf off.toNat = none → fn.val = 0 → off.toNat % 4 = 0 → exec (.registerWrite (.bar0 fn off) v) s = .next s)) ∧
  (∀ (s : State) (fn : Fin 256) (off : BitVec 26) (size : Nat), fn.val = 0 → s.fenced = false →
    let bad := size ≠ 4 ∨ off.toNat % 4 ≠ 0
    (bad → exec (.bar0BadAccess fn off size true) s = .next (s.errSet pgDevice 0) ∧
      exec (.bar0BadAccess fn off size false) s = .next ((s.errSet pgDevice 0).emit .unsupported)) ∧
    (¬ bad → exec (.bar0BadAccess fn off size true) s = .next s ∧
      exec (.bar0BadAccess fn off size false) s = .next (s.draw.emit (.readDone (toBytes 4 (s.bar0Word false off.toNat).toNat))))) ∧
  (∀ (s : State) (fn : Fin 256) (off : BitVec 26) (size : Nat), s.hasBar0 fn.val off.toNat = false ∨ s.answersAt off.toNat = false →
    exec (.bar0BadAccess fn off size true) s = .next s ∧ exec (.bar0BadAccess fn off size false) s = .next (s.emit .unsupported)) ∧
  (∀ (s : State) (page : BitVec 26) (v : W32) (p : Page) (rel : Nat), pageOf page.toNat = some (p, rel) →
    let on := s.fenced = false ∧ s.sec.dbg = .unlocked ∧ s.sec.scope.getLsbD 1 = true
    (¬ on → exec (.blkErrInject page v) s = .next s) ∧
    (on → completes (.blkErrInject page v) s fun t => t = { s with regs := t.regs, out := t.out, msixPend := t.msixPend } ∧
      ∀ b < p.kind.errBits, bit v b = true → bit (t.rd p 0x20) b = true)) ∧
  (∀ (s : State) (how : AddrMethod) (a : BitVec 7),
    (s.boot.mgmt = true → s.sec.i3cAddr = none → exec (.dynamicAddressAssign how a) s = .next (s.modSec fun x => { x with i3cAddr := some a })) ∧
    (s.boot.mgmt = false ∨ s.sec.i3cAddr ≠ none → exec (.dynamicAddressAssign how a) s = .next s)) ∧
  (∀ (s : State) (off : BitVec 26) (v : W32), (s.boot.mgmt = false → exec (.registerMessage (.read off)) s = .next s ∧ exec (.registerMessage (.write off v)) s = .next s) ∧
    (s.boot.mgmt = true → off.toNat % 4 = 0 → exec (.registerMessage (.read off)) s = .next (s.draw.emit (.i3cData (s.bar0Word true off.toNat)))) ∧
    (∀ p rel, s.boot.mgmt = true → pageOf off.toNat = some (p, rel) → p ≠ pgLog → (p ≠ pgSafe ∨ rel ≠ 0x114) →
      exec (.registerMessage (.write off v)) s = .next s) ∧
    (s.boot.mgmt = true → pageOf off.toNat = some (pgLog, 0x110) →
      completes (.registerMessage (.write off v)) s fun t => t.regs = (s.setReg (i3cKey (pgLog.key 0x110)) (v &&& 0xFFFFFC)).regs))

/-- R409, R414 to R416, R420, R422, R424: SNAP copies both banks of the selected engine; a flush is requested by its bit and by period; a
power-on minute counts the minute and each domain's temperature, and the 1,440th of a day keeps the laser means.
What EN = 0 stops and the slot of a day's mean are the model's readings (log entry 62). -/
def Obligations.CountersAndLifeLogComplete : Prop :=
  (∀ (s : State) (page : BitVec 26) (v : W32) (p : Page) (rel : Nat), pageOf page.toNat = some (p, rel) → s.tablesOk →
    let u := s.wr p 0x40 (v &&& 0x010000FF)
    let e := fld v 7 0
    (s.fenced = true ∨ p.engines = 0 → exec (.cntSnap page v) s = .next s) ∧
    (s.fenced = false → p.engines ≠ 0 →
      (bit v 31 = true → e < p.engines → exec (.cntSnap page v) s = .next { u with
        cntSnap := Tab.set {} s.cntSnap (p.off / 4096) (Tab.get {} s.cntBanks (bankKey p e)) }) ∧
      (bit v 31 = false ∨ p.engines ≤ e → exec (.cntSnap page v) s = .next u))) ∧
  (∀ s : State, (s.boot.mgmt = false → exec .logFlush s = .next s) ∧
    (s.boot.mgmt = true → completes .logFlush s fun t => t = { s with clock := t.clock, cntBanks := t.cntBanks, power := t.power } ∧
      t.clock.now = max s.now (s.log.lastAt.getD 0 + fld s.log.ctrl 10 0 * 60000000) ∧
      t.power.writes = (if PWrite.flush ∈ s.power.writes then s.power.writes else s.power.writes ++ [.flush]))) ∧
  (∀ (s : State) (v : W32), (s.pageUse pgLog = false → exec (.logEnableWrite v) s = .next s ∧ exec (.flush v) s = .next s) ∧
    (bit v 30 = false → exec (.flush v) s = .next s) ∧
    (s.pageUse pgLog = true →
      let u := s.modLog fun l => { l with ctrl := BitVec.ofNat 32 ((if bit v 31 then 2 ^ 31 else 0) + max 10 (min 1440 (fld v 10 0))) }
      (bit v 30 = false → exec (.logEnableWrite v) s = .next u) ∧
      (bit v 30 = true → (∀ i ∈ [Instr.logEnableWrite v, .flush v], exec i s = .next (u.modPower fun p => { p with
        writes := if PWrite.flush ∈ p.writes then p.writes else p.writes ++ [.flush] }))))) ∧
  (∀ s : State, (s.boot.mgmt = false ∨ s.logOn = false → exec .lifeLogAccumulation s = .next s) ∧
    (s.boot.mgmt = true → s.logOn = true → completes .lifeLogAccumulation s fun t => t = { s with log := t.log } ∧
      t.log.acc = { s.log.acc with minutes := s.log.acc.minutes + 1, temps := s.tempsNow, laser := t.log.acc.laser } ∧ t.log.mram = s.log.mram ∧
      ((s.log.acc.minutes.toNat + 1) % 1440 ≠ 0 → t.log.acc.laser = s.log.acc.laser ∧ t.log.laser = s.log.laser) ∧
      ((s.log.acc.minutes.toNat + 1) % 1440 = 0 → t.log.acc.laser = s.log.trend ((s.log.acc.minutes.toNat + 1) / 1440 - 1) ∧ t.log.laser = [])))

/-! ### What every step keeps -/

/-- The invariant of the memories, from every state: whatever the front command is, and however many tables it changes, a step leaves
every memory in canonical form. -/
def Obligations.EveryStepKeepsTheMemoriesCanonical : Prop :=
  ∀ s t : State, s.memOk → step s = .next t → t.memOk

/-- The invariant of the tables: a step leaves at most one record for a number, in order. -/
def Obligations.EveryStepKeepsTheTablesInOrder : Prop :=
  ∀ s t : State, s.tablesOk → step s = .next t → t.tablesOk

/-- R392: the security version below which no microcode runs never falls, whatever the command, a full reset included. -/
def Obligations.MinSvnNeverFalls : Prop :=
  ∀ (n : Nat) (s t : State), s.svnAtLeast n → step s = .next t → t.svnAtLeast n

/-- R375, R376: the state after reset has the invariants; it holds no work and no key, its pins are low, and the hub runs nothing.
The values of what the manual gives no reset value are not claimed (log entry 10). -/
def Obligations.ResetLeavesNothingRunning : Prop :=
  State.reset.memOk ∧ State.reset.tablesOk ∧ State.reset.pending = [] ∧ State.reset.runs = [] ∧ State.reset.ctx = [] ∧ State.reset.evt = [] ∧
  State.reset.sec.keys = [] ∧ State.reset.sec.dbg = .locked ∧ State.reset.boot.mgmt = false ∧ State.reset.boot.hub = false ∧ State.reset.fenced = false ∧
  (∀ c q, (State.reset.cx c).st = .free ∧ (State.reset.qu c q).st = .disabled) ∧ ∀ p, (State.reset.port p).st = .off
end

