-- ==== Sys2Proof/Laws/Tab.lean ====
section
/-! SUPPORT. Laws of the sparse tables: every operation keeps the canonical form; a read after a write gives the value
written, and a write leaves every other key alone. -/

namespace Sys2Proof.Machine

/-- Canonical form, said without recursion: keys strictly rising, no default listed. -/
theorem Tab.wf_iff {α : Type} [DecidableEq α] (d : α) (t : Tab α) :
    Tab.wf d t = true ↔ t.Pairwise (fun a b => a.1 < b.1) ∧ ∀ p ∈ t, p.2 ≠ d := by
  induction t with
  | nil => simp [Tab.wf]
  | cons p t ih =>
    obtain ⟨k, v⟩ := p
    cases t with
    | nil => simp [Tab.wf]
    | cons q u =>
      obtain ⟨j, w⟩ := q
      rw [Tab.wf]
      simp only [Bool.and_eq_true, decide_eq_true_eq, ih]
      constructor
      · rintro ⟨⟨h1, h2⟩, h3, h4⟩
        refine ⟨List.Pairwise.cons ?_ h3, ?_⟩
        · intro a ha
          rcases List.mem_cons.mp ha with rfl | ha
          · exact h2
          · exact Nat.lt_trans h2 ((List.pairwise_cons.mp h3).1 a ha)
        · intro p hp
          rcases List.mem_cons.mp hp with rfl | hp
          · simpa using h1
          · exact h4 p hp
      · rintro ⟨h1, h2⟩
        have h1' := List.pairwise_cons.mp h1
        refine ⟨⟨?_, h1'.1 (j, w) (by simp)⟩, h1'.2, fun p hp => h2 p (List.mem_cons_of_mem _ hp)⟩
        simpa using h2 (k, v) (by simp)

theorem Tab.wf_tail {α : Type} [DecidableEq α] {d : α} {p : Nat × α} {t : Tab α} (h : Tab.wf d (p :: t) = true) :
    Tab.wf d t = true := by
  rw [Tab.wf_iff] at h ⊢
  exact ⟨(List.pairwise_cons.mp h.1).2, fun q hq => h.2 q (List.mem_cons_of_mem _ hq)⟩

/-- A filtered table is canonical. -/
theorem Tab.wf_filter {α : Type} [DecidableEq α] {d : α} {t : Tab α} (f : Nat × α → Bool) (h : Tab.wf d t = true) :
    Tab.wf d (t.filter f) = true := by
  rw [Tab.wf_iff] at h ⊢
  exact ⟨h.1.filter f, fun p hp => h.2 p (List.mem_filter.mp hp).1⟩

theorem Tab.wf_clear {α : Type} [DecidableEq α] {d : α} {t : Tab α} (lo hi : Nat) (h : Tab.wf d t = true) :
    Tab.wf d (t.clear lo hi) = true := Tab.wf_filter _ h

/-- Every key of a table after a write was there before or is the key written. -/
theorem Tab.mem_set {α : Type} [DecidableEq α] {d : α} {t : Tab α} {k : Nat} {v : α} {p : Nat × α}
    (h : p ∈ Tab.set d t k v) : p ∈ t ∨ p = (k, v) := by
  induction t with
  | nil => simp only [Tab.set] at h; split at h <;> simp_all
  | cons q t ih =>
    obtain ⟨j, w⟩ := q
    simp only [Tab.set] at h
    split at h
    · split at h
      · exact .inl (List.mem_cons_of_mem _ h)
      · rcases List.mem_cons.mp h with h | h
        · exact .inr h
        · exact .inl (List.mem_cons_of_mem _ h)
    · split at h
      · split at h
        · exact .inl h
        · rcases List.mem_cons.mp h with h | h
          · exact .inr h
          · exact .inl h
      · rcases List.mem_cons.mp h with h | h
        · exact .inl (h ▸ List.mem_cons_self)
        · rcases ih h with h | h
          · exact .inl (List.mem_cons_of_mem _ h)
          · exact .inr h

/-- A write keeps the canonical form. -/
theorem Tab.wf_set {α : Type} [DecidableEq α] {d : α} {t : Tab α} (k : Nat) (v : α) (h : Tab.wf d t = true) :
    Tab.wf d (Tab.set d t k v) = true := by
  induction t with
  | nil => simp only [Tab.set]; split <;> simp_all [Tab.wf]
  | cons q t ih =>
    obtain ⟨j, w⟩ := q
    have ht := ih (Tab.wf_tail h)
    rw [Tab.wf_iff] at h
    have hp := List.pairwise_cons.mp h.1
    simp only [Tab.set]
    split
    · rename_i hj
      subst hj
      split
      · rw [Tab.wf_iff]; exact ⟨hp.2, fun p hp' => h.2 p (List.mem_cons_of_mem _ hp')⟩
      · rename_i hv
        rw [Tab.wf_iff]
        refine ⟨List.Pairwise.cons (fun a ha => hp.1 a ha) hp.2, fun p hp' => ?_⟩
        rcases List.mem_cons.mp hp' with rfl | hp'
        · exact hv
        · exact h.2 p (List.mem_cons_of_mem _ hp')
    · split
      · rename_i hkj
        split
        · rw [Tab.wf_iff]; exact h
        · rename_i hv
          rw [Tab.wf_iff]
          refine ⟨List.Pairwise.cons (fun a ha => ?_) h.1, fun p hp' => ?_⟩
          · rcases List.mem_cons.mp ha with rfl | ha
            · exact hkj
            · exact Nat.lt_trans hkj (hp.1 a ha)
          · rcases List.mem_cons.mp hp' with rfl | hp'
            · exact hv
            · exact h.2 p hp'
      · rename_i hne hkj
        rw [Tab.wf_iff] at ht ⊢
        refine ⟨List.Pairwise.cons (fun a ha => ?_) ht.1, fun p hp' => ?_⟩
        · rcases Tab.mem_set ha with ha | rfl
          · exact hp.1 a ha
          · simp only; omega
        · rcases List.mem_cons.mp hp' with rfl | hp'
          · exact h.2 _ (by simp)
          · exact ht.2 p hp'

/-- The value at a key that no entry of a canonical table has. -/
theorem Tab.get_of_lt {α : Type} {d : α} {t : Tab α} {k : Nat} (h : ∀ p ∈ t, k < p.1) : Tab.get d t k = d := by
  cases t with
  | nil => rfl
  | cons q t =>
    obtain ⟨j, w⟩ := q
    have := h (j, w) (by simp)
    simp only [Tab.get]
    rw [if_neg (by simp only at this; omega), if_pos this]

/-- A read after a write to the same key. -/
theorem Tab.get_set_same {α : Type} [DecidableEq α] {d : α} {t : Tab α} (k : Nat) (v : α) (h : Tab.wf d t = true) :
    Tab.get d (Tab.set d t k v) k = v := by
  induction t with
  | nil => simp only [Tab.set]; split <;> simp_all [Tab.get]
  | cons q t ih =>
    obtain ⟨j, w⟩ := q
    have hi := ih (Tab.wf_tail h)
    have hp := List.pairwise_cons.mp ((Tab.wf_iff d _).mp h).1
    simp only [Tab.set]
    split
    · rename_i hj
      subst hj
      split
      · rename_i hv; rw [hv]; exact Tab.get_of_lt hp.1
      · simp [Tab.get]
    · rename_i hj
      split
      · rename_i hkj
        split
        · rename_i hv; rw [hv]; simp [Tab.get, hj, hkj]
        · simp [Tab.get]
      · rename_i hkj; simp [Tab.get, hj, hkj, hi]

/-- A write leaves every other key alone. -/
theorem Tab.get_set_other {α : Type} [DecidableEq α] {d : α} {t : Tab α} {k j : Nat} (v : α) (h : Tab.wf d t = true)
    (hj : j ≠ k) : Tab.get d (Tab.set d t k v) j = Tab.get d t j := by
  induction t with
  | nil =>
    simp only [Tab.set]; split
    · rfl
    · simp [Tab.get, Ne.symm hj]
  | cons q t ih =>
    obtain ⟨i, w⟩ := q
    have hi := ih (Tab.wf_tail h)
    have hp := List.pairwise_cons.mp ((Tab.wf_iff d _).mp h).1
    simp only [Tab.set]
    split
    · rename_i hik
      subst hik
      split
      · simp only [Tab.get, Ne.symm hj, if_false]
        split
        · rename_i hji; exact Tab.get_of_lt fun p hp' => Nat.lt_trans hji (hp.1 p hp')
        · rfl
      · simp [Tab.get, Ne.symm hj]
    · rename_i hik
      split
      · rename_i hki
        split
        · rfl
        · simp only [Tab.get, Ne.symm hj, if_false]
          split
          · rename_i hjk
            rw [if_neg (by omega), if_pos (by omega)]
          · rfl
      · simp only [Tab.get, hi]

/-- A table copied into another: what lay under the copy is gone, and the form is kept. -/
theorem Tab.wf_copy {α : Type} [DecidableEq α] {d : α} {src t : Tab α} (lo hi dst : Nat) (hs : Tab.wf d src = true)
    (ht : Tab.wf d t = true) : Tab.wf d (Tab.copy src lo hi t dst) = true := by
  have hs' := (Tab.wf_iff d src).mp hs
  have hc := (Tab.wf_iff d _).mp (Tab.wf_clear (d := d) (t := t) dst (dst + (hi - lo)) ht)
  have hr := (Tab.wf_iff d _).mp (Tab.wf_filter (d := d) (t := src) (fun p => lo ≤ p.1 && p.1 < hi) hs)
  rw [Tab.wf_iff]
  unfold Tab.copy Tab.range
  refine ⟨?_, ?_⟩
  · refine List.pairwise_append.mpr ⟨List.pairwise_append.mpr ⟨hc.1.filter _, ?_, ?_⟩, hc.1.filter _, ?_⟩
    · rw [List.pairwise_map]
      refine hr.1.imp_of_mem fun {a b} ha hb h => ?_
      have ha := (List.mem_filter.mp ha).2
      simp only [Bool.and_eq_true, decide_eq_true_eq] at ha
      simp only; omega
    · intro a ha b hb
      obtain ⟨c, -, rfl⟩ := List.mem_map.mp hb
      have ha := (List.mem_filter.mp ha).2
      simp only [decide_eq_true_eq] at ha
      simp only; omega
    · intro a ha b hb
      have hb2 := List.mem_filter.mp hb
      have hbc := (List.mem_filter.mp hb2.1).2
      have hbd := hb2.2
      simp only [Bool.or_eq_true, decide_eq_true_eq] at hbc hbd
      rcases List.mem_append.mp ha with ha | ha
      · have ha := (List.mem_filter.mp ha).2
        simp only [decide_eq_true_eq] at ha
        omega
      · obtain ⟨c, hc', rfl⟩ := List.mem_map.mp ha
        have hc' := (List.mem_filter.mp hc').2
        simp only [Bool.and_eq_true, decide_eq_true_eq] at hc'
        simp only
        omega
  · intro p hp
    rcases List.mem_append.mp hp with hp | hp
    · rcases List.mem_append.mp hp with hp | hp
      · exact hc.2 p (List.mem_filter.mp hp).1
      · obtain ⟨c, hc', rfl⟩ := List.mem_map.mp hp
        exact hr.2 c hc'
    · exact hc.2 p (List.mem_filter.mp hp).1

/-! ### Byte memories -/

theorem Mem.wf_set {m : Mem} (a : Nat) (b : Byte) (h : m.wf = true) : (m.set a b).wf = true := Tab.wf_set a b h

/-- Writing bytes keeps the canonical form. -/
theorem Mem.wf_write {m : Mem} (a : Nat) (bs : List Byte) (h : m.wf = true) : (m.write a bs).wf = true := by
  induction bs generalizing m a with
  | nil => exact h
  | cons b bs ih => exact ih (a + 1) (Mem.wf_set a b h)

/-- A byte outside the bytes written reads as before. -/
theorem Mem.get_write_other {m : Mem} {a x : Nat} (bs : List Byte) (h : m.wf = true) (hx : x < a ∨ a + bs.length ≤ x) :
    (m.write a bs).get x = m.get x := by
  induction bs generalizing m a with
  | nil => rfl
  | cons b bs ih =>
    simp only [List.length_cons] at hx
    rw [Mem.write, ih (Mem.wf_set a b h) (by omega)]
    exact Tab.get_set_other b h (by omega)

/-- Bytes written are read back. -/
theorem Mem.read_write {m : Mem} (a : Nat) (bs : List Byte) (h : m.wf = true) : (m.write a bs).read a bs.length = bs := by
  induction bs generalizing m a with
  | nil => rfl
  | cons b bs ih =>
    simp only [List.length_cons, Mem.read, Mem.write]
    rw [ih (a + 1) (Mem.wf_set a b h), Mem.get_write_other bs (Mem.wf_set a b h) (.inl (Nat.lt_succ_self a))]
    rw [Mem.get, Mem.set, Tab.get_set_same a b h]

/-! ### Sorting -/

theorem mergeBy_perm {α : Type} (le : α → α → Bool) : ∀ (n : Nat) (a b : List α), (mergeBy le n a b).Perm (a ++ b) := by
  intro n
  induction n with
  | zero => intro a b; exact .refl _
  | succ n ih =>
    intro a b
    match a, b with
    | [], b => exact .refl _
    | x :: a, [] => simp [mergeBy]
    | x :: a, y :: b =>
      simp only [mergeBy]
      split
      · exact (ih a (y :: b)).cons x
      · exact ((ih (x :: a) b).cons y).trans (List.perm_middle (l₁ := x :: a)).symm

theorem sortHalves_perm {α : Type} (le : α → α → Bool) : ∀ (n : Nat) (l : List α), (sortHalves le n l).Perm l := by
  intro n
  induction n with
  | zero => intro l; exact .refl _
  | succ n ih =>
    intro l
    simp only [sortHalves]
    split
    · exact .refl _
    · exact ((mergeBy_perm le _ _ _).trans ((ih _).append (ih _))).trans (by rw [List.take_append_drop])

/-- A sorted list has the elements of the list. -/
theorem sortBy_perm {α : Type} (l : List α) (le : α → α → Bool) : (sortBy l le).Perm l := sortHalves_perm le _ l
@[simp] theorem mem_sortBy {α : Type} (l : List α) (le : α → α → Bool) (x : α) : x ∈ sortBy l le ↔ x ∈ l := (sortBy_perm l le).mem_iff
@[simp] theorem length_sortBy {α : Type} (l : List α) (le : α → α → Bool) : (sortBy l le).length = l.length := (sortBy_perm l le).length_eq

end Sys2Proof.Machine
end

