-- ==== Sys2Proof/Laws/Memory.lean ====
section
/-! SUPPORT. Every operation on the memories keeps their canonical form. -/

namespace Sys2Proof.Machine

/-- The canonical form, table by table. -/
theorem MemRec.wf_iff (m : MemRec) : m.wf = true ↔
    Mem.wf m.hbm = true ∧ Mem.wf m.spad = true ∧ Mem.wf m.direct = true ∧ Mem.wf m.host = true ∧
    Tab.wf false m.hbmPoison = true ∧ Tab.wf false m.spadPoison = true ∧ Tab.wf false m.directPoison = true := by
  simp only [MemRec.wf, Bool.and_eq_true, and_assoc]

/-- A fold over operations that keep the form keeps it. -/
theorem MemRec.wf_foldl {α : Type} {f : MemRec → α → MemRec} (hf : ∀ m a, m.wf = true → (f m a).wf = true) (l : List α) (m : MemRec)
    (h : m.wf = true) : (l.foldl f m).wf = true := by
  induction l generalizing m with
  | nil => exact h
  | cons a l ih => exact ih (f m a) (hf m a h)

theorem unpoison_wf {t : Tab Bool} (a n : Nat) (h : Tab.wf false t = true) : Tab.wf false (unpoison t a n) = true :=
  Tab.wf_filter _ h

/-- Bytes written to HBM as stored, with the poison they cover. -/
theorem MemRec.wf_putHbm {m : MemRec} {x : Mem} {t : Tab Bool} (h : m.wf = true) (hx : Mem.wf x = true) (ht : Tab.wf false t = true) :
    MemRec.wf { m with hbm := x, hbmPoison := t } = true := by
  rw [MemRec.wf_iff] at h ⊢
  exact ⟨hx, h.2.1, h.2.2.1, h.2.2.2.1, ht, h.2.2.2.2.2⟩

theorem MemRec.wf_rekey {m : MemRec} (k : KeyTag) (sec : Nat) (h : m.wf = true) : (m.rekey k sec).wf = true := by
  unfold MemRec.rekey
  split
  · exact h
  · have h' := (MemRec.wf_iff _).mp h
    exact MemRec.wf_putHbm h (Mem.wf_write _ _ h'.1) h'.2.2.2.2.1

theorem MemRec.wf_putSpad {m : MemRec} {x : Mem} {t : Tab Bool} (h : m.wf = true) (hx : Mem.wf x = true) (ht : Tab.wf false t = true) :
    MemRec.wf { m with spad := x, spadPoison := t } = true := by
  rw [MemRec.wf_iff] at h ⊢
  exact ⟨h.1, hx, h.2.2.1, h.2.2.2.1, h.2.2.2.2.1, ht, h.2.2.2.2.2.2⟩

theorem MemRec.wf_putDirect {m : MemRec} {x : Mem} {t : Tab Bool} (h : m.wf = true) (hx : Mem.wf x = true) (ht : Tab.wf false t = true) :
    MemRec.wf { m with direct := x, directPoison := t } = true := by
  rw [MemRec.wf_iff] at h ⊢
  exact ⟨h.1, h.2.1, hx, h.2.2.2.1, h.2.2.2.2.1, h.2.2.2.2.2.1, ht⟩

theorem MemRec.wf_hbmWrite {m : MemRec} (k : KeyTag) (a : Nat) (bs : List Byte) (h : m.wf = true) : (m.hbmWrite k a bs).wf = true := by
  unfold MemRec.hbmWrite
  split
  · exact h
  · have h1 := MemRec.wf_foldl (f := fun m i => m.rekey k (a / 64 + i)) (fun m i hm => MemRec.wf_rekey k _ hm)
      (List.range ((a + bs.length - 1) / 64 + 1 - a / 64)) m h
    have h2 := (MemRec.wf_iff _).mp h1
    exact MemRec.wf_putHbm h1 (Mem.wf_write _ _ h2.1) (unpoison_wf _ _ h2.2.2.2.2.1)

theorem MemRec.wf_zeroPage {m : MemRec} (k : KeyTag) (p : Nat) (h : m.wf = true) : (m.zeroPage k p).wf = true := by
  rw [MemRec.wf_iff] at h ⊢
  obtain ⟨h1, h2, h3, h4, h5, h6, h7⟩ := h
  exact ⟨Tab.wf_clear _ _ h1, h2, h3, h4, Tab.wf_clear _ _ h5, h6, h7⟩

theorem MemRec.wf_copyPage {m : MemRec} (k : KeyTag) (p q : Nat) (h : m.wf = true) : (m.copyPage k p q).wf = true := by
  have hz := MemRec.wf_zeroPage k q h
  have hz' := (MemRec.wf_iff _).mp hz
  have h := (MemRec.wf_iff _).mp h
  exact MemRec.wf_putHbm hz (Mem.wf_write _ _ hz'.1) (Tab.wf_copy _ _ _ h.2.2.2.2.1 hz'.2.2.2.2.1)

theorem MemRec.wf_spillPage {m : MemRec} (k : KeyTag) (i p : Nat) (h : m.wf = true) : (m.spillPage k i p).wf = true := by
  have hz := MemRec.wf_zeroPage k p h
  have hz' := (MemRec.wf_iff _).mp hz
  exact MemRec.wf_putHbm hz (Tab.wf_copy _ _ _ hz'.2.1 hz'.1) (Tab.wf_copy _ _ _ hz'.2.2.2.2.2.1 hz'.2.2.2.2.1)

theorem MemRec.wf_fillPage {m : MemRec} (k : KeyTag) (i p : Nat) (h : m.wf = true) : (m.fillPage k i p).wf = true := by
  have h' := (MemRec.wf_iff _).mp h
  refine MemRec.wf_putSpad h ?_ (Tab.wf_copy _ _ _ h'.2.2.2.2.1 h'.2.2.2.2.2.1)
  split
  · exact Tab.wf_copy _ _ _ h'.1 h'.2.1
  · exact Mem.wf_write _ _ h'.2.1

theorem MemRec.wf_zeroBank {m : MemRec} (c b : Nat) (h : m.wf = true) : (m.zeroBank c b).wf = true := by
  rw [MemRec.wf_iff] at h ⊢
  obtain ⟨h1, h2, h3, h4, h5, h6, h7⟩ := h
  exact ⟨h1, Tab.wf_clear _ _ h2, h3, h4, h5, Tab.wf_clear _ _ h6, h7⟩

theorem MemRec.wf_freeDirect {m : MemRec} (d : Nat) (h : m.wf = true) : (m.freeDirect d).wf = true := by
  rw [MemRec.wf_iff] at h ⊢
  obtain ⟨h1, h2, h3, h4, h5, h6, h7⟩ := h
  exact ⟨h1, h2, Tab.wf_clear _ _ h3, h4, h5, h6, Tab.wf_clear _ _ h7⟩

theorem MemRec.wf_modRow {m : MemRec} (r : Nat) (f : RowRec → RowRec) (h : m.wf = true) : (m.modRow r f).wf = true := h

theorem MemRec.wf_tick {m : MemRec} (h : m.wf = true) : m.tick.wf = true := h

theorem MemRec.wf_without {m : MemRec} (c : Nat) (ws : List Nat) (h : m.wf = true) : (m.without c ws).wf = true := by
  unfold MemRec.without
  refine MemRec.wf_foldl (fun m p hm => ?_) _ _ (MemRec.wf_foldl (fun m p hm => MemRec.wf_zeroPage _ _ hm) _ _
    (MemRec.wf_foldl (fun m p hm => MemRec.wf_freeDirect _ hm) _ _ h))
  exact hm

/-- After a reset only host memory lists anything. -/
theorem MemRec.wf_kept {m : MemRec} (full : Bool) (h : m.wf = true) : (m.kept full).wf = true := by
  rw [MemRec.wf_iff] at h ⊢
  exact ⟨rfl, rfl, rfl, h.2.2.2.1, rfl, rfl, rfl⟩

theorem State.memOk_modMem {s : State} {f : MemRec → MemRec} (hf : ∀ m, m.wf = true → (f m).wf = true) (h : s.memOk) :
    (s.modMem f).memOk := hf _ h

end Sys2Proof.Machine
end

