-- ==== Sys2Proof/Laws/State.lean ====
section
/-! SUPPORT. One lemma per field per update of the state: what an update leaves alone it leaves as it was, and the field that
it changes holds the new value. The updates of one record of a table are said by the update of the table. -/

namespace Sys2Proof.Machine

variable (s : State)

/-! ### setReg -/
@[simp] theorem State.setReg_pending (k : Nat) (v : W32) : (s.setReg k v).pending = s.pending := rfl
@[simp] theorem State.setReg_clock (k : Nat) (v : W32) : (s.setReg k v).clock = s.clock := rfl
@[simp] theorem State.setReg_regs (k : Nat) (v : W32) : (s.setReg k v).regs = Tab.set (regReset k) s.regs k v := rfl
@[simp] theorem State.setReg_ctx (k : Nat) (v : W32) : (s.setReg k v).ctx = s.ctx := rfl
@[simp] theorem State.setReg_str (k : Nat) (v : W32) : (s.setReg k v).str = s.str := rfl
@[simp] theorem State.setReg_queue (k : Nat) (v : W32) : (s.setReg k v).queue = s.queue := rfl
@[simp] theorem State.setReg_evtSel (k : Nat) (v : W32) : (s.setReg k v).evtSel = s.evtSel := rfl
@[simp] theorem State.setReg_evt (k : Nat) (v : W32) : (s.setReg k v).evt = s.evt := rfl
@[simp] theorem State.setReg_runs (k : Nat) (v : W32) : (s.setReg k v).runs = s.runs := rfl
@[simp] theorem State.setReg_cells (k : Nat) (v : W32) : (s.setReg k v).cells = s.cells := rfl
@[simp] theorem State.setReg_phys (k : Nat) (v : W32) : (s.setReg k v).phys = s.phys := rfl
@[simp] theorem State.setReg_pairs (k : Nat) (v : W32) : (s.setReg k v).pairs = s.pairs := rfl
@[simp] theorem State.setReg_mem (k : Nat) (v : W32) : (s.setReg k v).mem = s.mem := rfl
@[simp] theorem State.setReg_buckets (k : Nat) (v : W32) : (s.setReg k v).buckets = s.buckets := rfl
@[simp] theorem State.setReg_rrStack (k : Nat) (v : W32) : (s.setReg k v).rrStack = s.rrStack := rfl
@[simp] theorem State.setReg_scouts (k : Nat) (v : W32) : (s.setReg k v).scouts = s.scouts := rfl
@[simp] theorem State.setReg_base (k : Nat) (v : W32) : (s.setReg k v).base = s.base := rfl
@[simp] theorem State.setReg_fab (k : Nat) (v : W32) : (s.setReg k v).fab = s.fab := rfl
@[simp] theorem State.setReg_fenced (k : Nat) (v : W32) : (s.setReg k v).fenced = s.fenced := rfl
@[simp] theorem State.setReg_mech (k : Nat) (v : W32) : (s.setReg k v).mech = s.mech := rfl
@[simp] theorem State.setReg_health (k : Nat) (v : W32) : (s.setReg k v).health = s.health := rfl
@[simp] theorem State.setReg_power (k : Nat) (v : W32) : (s.setReg k v).power = s.power := rfl
@[simp] theorem State.setReg_sec (k : Nat) (v : W32) : (s.setReg k v).sec = s.sec := rfl
@[simp] theorem State.setReg_cntBanks (k : Nat) (v : W32) : (s.setReg k v).cntBanks = s.cntBanks := rfl
@[simp] theorem State.setReg_cntSnap (k : Nat) (v : W32) : (s.setReg k v).cntSnap = s.cntSnap := rfl
@[simp] theorem State.setReg_log (k : Nat) (v : W32) : (s.setReg k v).log = s.log := rfl
@[simp] theorem State.setReg_boot (k : Nat) (v : W32) : (s.setReg k v).boot = s.boot := rfl
@[simp] theorem State.setReg_msixPend (k : Nat) (v : W32) : (s.setReg k v).msixPend = s.msixPend := rfl
@[simp] theorem State.setReg_vfMap (k : Nat) (v : W32) : (s.setReg k v).vfMap = s.vfMap := rfl
@[simp] theorem State.setReg_out (k : Nat) (v : W32) : (s.setReg k v).out = s.out := rfl
@[simp] theorem State.setReg_free (k : Nat) (v : W32) : (s.setReg k v).free = s.free := rfl

/-! ### setCx -/
@[simp] theorem State.setCx_pending (c : Nat) (r : CtxRec) : (s.setCx c r).pending = s.pending := rfl
@[simp] theorem State.setCx_clock (c : Nat) (r : CtxRec) : (s.setCx c r).clock = s.clock := rfl
@[simp] theorem State.setCx_regs (c : Nat) (r : CtxRec) : (s.setCx c r).regs = s.regs := rfl
@[simp] theorem State.setCx_ctx (c : Nat) (r : CtxRec) : (s.setCx c r).ctx = Tab.set {} s.ctx c r := rfl
@[simp] theorem State.setCx_str (c : Nat) (r : CtxRec) : (s.setCx c r).str = s.str := rfl
@[simp] theorem State.setCx_queue (c : Nat) (r : CtxRec) : (s.setCx c r).queue = s.queue := rfl
@[simp] theorem State.setCx_evtSel (c : Nat) (r : CtxRec) : (s.setCx c r).evtSel = s.evtSel := rfl
@[simp] theorem State.setCx_evt (c : Nat) (r : CtxRec) : (s.setCx c r).evt = s.evt := rfl
@[simp] theorem State.setCx_runs (c : Nat) (r : CtxRec) : (s.setCx c r).runs = s.runs := rfl
@[simp] theorem State.setCx_cells (c : Nat) (r : CtxRec) : (s.setCx c r).cells = s.cells := rfl
@[simp] theorem State.setCx_phys (c : Nat) (r : CtxRec) : (s.setCx c r).phys = s.phys := rfl
@[simp] theorem State.setCx_pairs (c : Nat) (r : CtxRec) : (s.setCx c r).pairs = s.pairs := rfl
@[simp] theorem State.setCx_mem (c : Nat) (r : CtxRec) : (s.setCx c r).mem = s.mem := rfl
@[simp] theorem State.setCx_buckets (c : Nat) (r : CtxRec) : (s.setCx c r).buckets = s.buckets := rfl
@[simp] theorem State.setCx_rrStack (c : Nat) (r : CtxRec) : (s.setCx c r).rrStack = s.rrStack := rfl
@[simp] theorem State.setCx_scouts (c : Nat) (r : CtxRec) : (s.setCx c r).scouts = s.scouts := rfl
@[simp] theorem State.setCx_base (c : Nat) (r : CtxRec) : (s.setCx c r).base = s.base := rfl
@[simp] theorem State.setCx_fab (c : Nat) (r : CtxRec) : (s.setCx c r).fab = s.fab := rfl
@[simp] theorem State.setCx_fenced (c : Nat) (r : CtxRec) : (s.setCx c r).fenced = s.fenced := rfl
@[simp] theorem State.setCx_mech (c : Nat) (r : CtxRec) : (s.setCx c r).mech = s.mech := rfl
@[simp] theorem State.setCx_health (c : Nat) (r : CtxRec) : (s.setCx c r).health = s.health := rfl
@[simp] theorem State.setCx_power (c : Nat) (r : CtxRec) : (s.setCx c r).power = s.power := rfl
@[simp] theorem State.setCx_sec (c : Nat) (r : CtxRec) : (s.setCx c r).sec = s.sec := rfl
@[simp] theorem State.setCx_cntBanks (c : Nat) (r : CtxRec) : (s.setCx c r).cntBanks = s.cntBanks := rfl
@[simp] theorem State.setCx_cntSnap (c : Nat) (r : CtxRec) : (s.setCx c r).cntSnap = s.cntSnap := rfl
@[simp] theorem State.setCx_log (c : Nat) (r : CtxRec) : (s.setCx c r).log = s.log := rfl
@[simp] theorem State.setCx_boot (c : Nat) (r : CtxRec) : (s.setCx c r).boot = s.boot := rfl
@[simp] theorem State.setCx_msixPend (c : Nat) (r : CtxRec) : (s.setCx c r).msixPend = s.msixPend := rfl
@[simp] theorem State.setCx_vfMap (c : Nat) (r : CtxRec) : (s.setCx c r).vfMap = s.vfMap := rfl
@[simp] theorem State.setCx_out (c : Nat) (r : CtxRec) : (s.setCx c r).out = s.out := rfl
@[simp] theorem State.setCx_free (c : Nat) (r : CtxRec) : (s.setCx c r).free = s.free := rfl

/-! ### setStm -/
@[simp] theorem State.setStm_pending (n : Nat) (r : StreamRec) : (s.setStm n r).pending = s.pending := rfl
@[simp] theorem State.setStm_clock (n : Nat) (r : StreamRec) : (s.setStm n r).clock = s.clock := rfl
@[simp] theorem State.setStm_regs (n : Nat) (r : StreamRec) : (s.setStm n r).regs = s.regs := rfl
@[simp] theorem State.setStm_ctx (n : Nat) (r : StreamRec) : (s.setStm n r).ctx = s.ctx := rfl
@[simp] theorem State.setStm_str (n : Nat) (r : StreamRec) : (s.setStm n r).str = Tab.set {} s.str n r := rfl
@[simp] theorem State.setStm_queue (n : Nat) (r : StreamRec) : (s.setStm n r).queue = s.queue := rfl
@[simp] theorem State.setStm_evtSel (n : Nat) (r : StreamRec) : (s.setStm n r).evtSel = s.evtSel := rfl
@[simp] theorem State.setStm_evt (n : Nat) (r : StreamRec) : (s.setStm n r).evt = s.evt := rfl
@[simp] theorem State.setStm_runs (n : Nat) (r : StreamRec) : (s.setStm n r).runs = s.runs := rfl
@[simp] theorem State.setStm_cells (n : Nat) (r : StreamRec) : (s.setStm n r).cells = s.cells := rfl
@[simp] theorem State.setStm_phys (n : Nat) (r : StreamRec) : (s.setStm n r).phys = s.phys := rfl
@[simp] theorem State.setStm_pairs (n : Nat) (r : StreamRec) : (s.setStm n r).pairs = s.pairs := rfl
@[simp] theorem State.setStm_mem (n : Nat) (r : StreamRec) : (s.setStm n r).mem = s.mem := rfl
@[simp] theorem State.setStm_buckets (n : Nat) (r : StreamRec) : (s.setStm n r).buckets = s.buckets := rfl
@[simp] theorem State.setStm_rrStack (n : Nat) (r : StreamRec) : (s.setStm n r).rrStack = s.rrStack := rfl
@[simp] theorem State.setStm_scouts (n : Nat) (r : StreamRec) : (s.setStm n r).scouts = s.scouts := rfl
@[simp] theorem State.setStm_base (n : Nat) (r : StreamRec) : (s.setStm n r).base = s.base := rfl
@[simp] theorem State.setStm_fab (n : Nat) (r : StreamRec) : (s.setStm n r).fab = s.fab := rfl
@[simp] theorem State.setStm_fenced (n : Nat) (r : StreamRec) : (s.setStm n r).fenced = s.fenced := rfl
@[simp] theorem State.setStm_mech (n : Nat) (r : StreamRec) : (s.setStm n r).mech = s.mech := rfl
@[simp] theorem State.setStm_health (n : Nat) (r : StreamRec) : (s.setStm n r).health = s.health := rfl
@[simp] theorem State.setStm_power (n : Nat) (r : StreamRec) : (s.setStm n r).power = s.power := rfl
@[simp] theorem State.setStm_sec (n : Nat) (r : StreamRec) : (s.setStm n r).sec = s.sec := rfl
@[simp] theorem State.setStm_cntBanks (n : Nat) (r : StreamRec) : (s.setStm n r).cntBanks = s.cntBanks := rfl
@[simp] theorem State.setStm_cntSnap (n : Nat) (r : StreamRec) : (s.setStm n r).cntSnap = s.cntSnap := rfl
@[simp] theorem State.setStm_log (n : Nat) (r : StreamRec) : (s.setStm n r).log = s.log := rfl
@[simp] theorem State.setStm_boot (n : Nat) (r : StreamRec) : (s.setStm n r).boot = s.boot := rfl
@[simp] theorem State.setStm_msixPend (n : Nat) (r : StreamRec) : (s.setStm n r).msixPend = s.msixPend := rfl
@[simp] theorem State.setStm_vfMap (n : Nat) (r : StreamRec) : (s.setStm n r).vfMap = s.vfMap := rfl
@[simp] theorem State.setStm_out (n : Nat) (r : StreamRec) : (s.setStm n r).out = s.out := rfl
@[simp] theorem State.setStm_free (n : Nat) (r : StreamRec) : (s.setStm n r).free = s.free := rfl

/-! ### setQu -/
@[simp] theorem State.setQu_pending (c q : Nat) (r : QueueRec) : (s.setQu c q r).pending = s.pending := rfl
@[simp] theorem State.setQu_clock (c q : Nat) (r : QueueRec) : (s.setQu c q r).clock = s.clock := rfl
@[simp] theorem State.setQu_regs (c q : Nat) (r : QueueRec) : (s.setQu c q r).regs = s.regs := rfl
@[simp] theorem State.setQu_ctx (c q : Nat) (r : QueueRec) : (s.setQu c q r).ctx = s.ctx := rfl
@[simp] theorem State.setQu_str (c q : Nat) (r : QueueRec) : (s.setQu c q r).str = s.str := rfl
@[simp] theorem State.setQu_queue (c q : Nat) (r : QueueRec) : (s.setQu c q r).queue = Tab.set {} s.queue (qKey c q) r := rfl
@[simp] theorem State.setQu_evtSel (c q : Nat) (r : QueueRec) : (s.setQu c q r).evtSel = s.evtSel := rfl
@[simp] theorem State.setQu_evt (c q : Nat) (r : QueueRec) : (s.setQu c q r).evt = s.evt := rfl
@[simp] theorem State.setQu_runs (c q : Nat) (r : QueueRec) : (s.setQu c q r).runs = s.runs := rfl
@[simp] theorem State.setQu_cells (c q : Nat) (r : QueueRec) : (s.setQu c q r).cells = s.cells := rfl
@[simp] theorem State.setQu_phys (c q : Nat) (r : QueueRec) : (s.setQu c q r).phys = s.phys := rfl
@[simp] theorem State.setQu_pairs (c q : Nat) (r : QueueRec) : (s.setQu c q r).pairs = s.pairs := rfl
@[simp] theorem State.setQu_mem (c q : Nat) (r : QueueRec) : (s.setQu c q r).mem = s.mem := rfl
@[simp] theorem State.setQu_buckets (c q : Nat) (r : QueueRec) : (s.setQu c q r).buckets = s.buckets := rfl
@[simp] theorem State.setQu_rrStack (c q : Nat) (r : QueueRec) : (s.setQu c q r).rrStack = s.rrStack := rfl
@[simp] theorem State.setQu_scouts (c q : Nat) (r : QueueRec) : (s.setQu c q r).scouts = s.scouts := rfl
@[simp] theorem State.setQu_base (c q : Nat) (r : QueueRec) : (s.setQu c q r).base = s.base := rfl
@[simp] theorem State.setQu_fab (c q : Nat) (r : QueueRec) : (s.setQu c q r).fab = s.fab := rfl
@[simp] theorem State.setQu_fenced (c q : Nat) (r : QueueRec) : (s.setQu c q r).fenced = s.fenced := rfl
@[simp] theorem State.setQu_mech (c q : Nat) (r : QueueRec) : (s.setQu c q r).mech = s.mech := rfl
@[simp] theorem State.setQu_health (c q : Nat) (r : QueueRec) : (s.setQu c q r).health = s.health := rfl
@[simp] theorem State.setQu_power (c q : Nat) (r : QueueRec) : (s.setQu c q r).power = s.power := rfl
@[simp] theorem State.setQu_sec (c q : Nat) (r : QueueRec) : (s.setQu c q r).sec = s.sec := rfl
@[simp] theorem State.setQu_cntBanks (c q : Nat) (r : QueueRec) : (s.setQu c q r).cntBanks = s.cntBanks := rfl
@[simp] theorem State.setQu_cntSnap (c q : Nat) (r : QueueRec) : (s.setQu c q r).cntSnap = s.cntSnap := rfl
@[simp] theorem State.setQu_log (c q : Nat) (r : QueueRec) : (s.setQu c q r).log = s.log := rfl
@[simp] theorem State.setQu_boot (c q : Nat) (r : QueueRec) : (s.setQu c q r).boot = s.boot := rfl
@[simp] theorem State.setQu_msixPend (c q : Nat) (r : QueueRec) : (s.setQu c q r).msixPend = s.msixPend := rfl
@[simp] theorem State.setQu_vfMap (c q : Nat) (r : QueueRec) : (s.setQu c q r).vfMap = s.vfMap := rfl
@[simp] theorem State.setQu_out (c q : Nat) (r : QueueRec) : (s.setQu c q r).out = s.out := rfl
@[simp] theorem State.setQu_free (c q : Nat) (r : QueueRec) : (s.setQu c q r).free = s.free := rfl

/-! ### setCell -/
@[simp] theorem State.setCell_pending (c : Nat) (r : CellRec) : (s.setCell c r).pending = s.pending := rfl
@[simp] theorem State.setCell_clock (c : Nat) (r : CellRec) : (s.setCell c r).clock = s.clock := rfl
@[simp] theorem State.setCell_regs (c : Nat) (r : CellRec) : (s.setCell c r).regs = s.regs := rfl
@[simp] theorem State.setCell_ctx (c : Nat) (r : CellRec) : (s.setCell c r).ctx = s.ctx := rfl
@[simp] theorem State.setCell_str (c : Nat) (r : CellRec) : (s.setCell c r).str = s.str := rfl
@[simp] theorem State.setCell_queue (c : Nat) (r : CellRec) : (s.setCell c r).queue = s.queue := rfl
@[simp] theorem State.setCell_evtSel (c : Nat) (r : CellRec) : (s.setCell c r).evtSel = s.evtSel := rfl
@[simp] theorem State.setCell_evt (c : Nat) (r : CellRec) : (s.setCell c r).evt = s.evt := rfl
@[simp] theorem State.setCell_runs (c : Nat) (r : CellRec) : (s.setCell c r).runs = s.runs := rfl
@[simp] theorem State.setCell_cells (c : Nat) (r : CellRec) : (s.setCell c r).cells = Tab.set {} s.cells c r := rfl
@[simp] theorem State.setCell_phys (c : Nat) (r : CellRec) : (s.setCell c r).phys = s.phys := rfl
@[simp] theorem State.setCell_pairs (c : Nat) (r : CellRec) : (s.setCell c r).pairs = s.pairs := rfl
@[simp] theorem State.setCell_mem (c : Nat) (r : CellRec) : (s.setCell c r).mem = s.mem := rfl
@[simp] theorem State.setCell_buckets (c : Nat) (r : CellRec) : (s.setCell c r).buckets = s.buckets := rfl
@[simp] theorem State.setCell_rrStack (c : Nat) (r : CellRec) : (s.setCell c r).rrStack = s.rrStack := rfl
@[simp] theorem State.setCell_scouts (c : Nat) (r : CellRec) : (s.setCell c r).scouts = s.scouts := rfl
@[simp] theorem State.setCell_base (c : Nat) (r : CellRec) : (s.setCell c r).base = s.base := rfl
@[simp] theorem State.setCell_fab (c : Nat) (r : CellRec) : (s.setCell c r).fab = s.fab := rfl
@[simp] theorem State.setCell_fenced (c : Nat) (r : CellRec) : (s.setCell c r).fenced = s.fenced := rfl
@[simp] theorem State.setCell_mech (c : Nat) (r : CellRec) : (s.setCell c r).mech = s.mech := rfl
@[simp] theorem State.setCell_health (c : Nat) (r : CellRec) : (s.setCell c r).health = s.health := rfl
@[simp] theorem State.setCell_power (c : Nat) (r : CellRec) : (s.setCell c r).power = s.power := rfl
@[simp] theorem State.setCell_sec (c : Nat) (r : CellRec) : (s.setCell c r).sec = s.sec := rfl
@[simp] theorem State.setCell_cntBanks (c : Nat) (r : CellRec) : (s.setCell c r).cntBanks = s.cntBanks := rfl
@[simp] theorem State.setCell_cntSnap (c : Nat) (r : CellRec) : (s.setCell c r).cntSnap = s.cntSnap := rfl
@[simp] theorem State.setCell_log (c : Nat) (r : CellRec) : (s.setCell c r).log = s.log := rfl
@[simp] theorem State.setCell_boot (c : Nat) (r : CellRec) : (s.setCell c r).boot = s.boot := rfl
@[simp] theorem State.setCell_msixPend (c : Nat) (r : CellRec) : (s.setCell c r).msixPend = s.msixPend := rfl
@[simp] theorem State.setCell_vfMap (c : Nat) (r : CellRec) : (s.setCell c r).vfMap = s.vfMap := rfl
@[simp] theorem State.setCell_out (c : Nat) (r : CellRec) : (s.setCell c r).out = s.out := rfl
@[simp] theorem State.setCell_free (c : Nat) (r : CellRec) : (s.setCell c r).free = s.free := rfl

/-! ### modPhys -/
@[simp] theorem State.modPhys_pending (p : Nat) (f : PhysCell → PhysCell) : (s.modPhys p f).pending = s.pending := rfl
@[simp] theorem State.modPhys_clock (p : Nat) (f : PhysCell → PhysCell) : (s.modPhys p f).clock = s.clock := rfl
@[simp] theorem State.modPhys_regs (p : Nat) (f : PhysCell → PhysCell) : (s.modPhys p f).regs = s.regs := rfl
@[simp] theorem State.modPhys_ctx (p : Nat) (f : PhysCell → PhysCell) : (s.modPhys p f).ctx = s.ctx := rfl
@[simp] theorem State.modPhys_str (p : Nat) (f : PhysCell → PhysCell) : (s.modPhys p f).str = s.str := rfl
@[simp] theorem State.modPhys_queue (p : Nat) (f : PhysCell → PhysCell) : (s.modPhys p f).queue = s.queue := rfl
@[simp] theorem State.modPhys_evtSel (p : Nat) (f : PhysCell → PhysCell) : (s.modPhys p f).evtSel = s.evtSel := rfl
@[simp] theorem State.modPhys_evt (p : Nat) (f : PhysCell → PhysCell) : (s.modPhys p f).evt = s.evt := rfl
@[simp] theorem State.modPhys_runs (p : Nat) (f : PhysCell → PhysCell) : (s.modPhys p f).runs = s.runs := rfl
@[simp] theorem State.modPhys_cells (p : Nat) (f : PhysCell → PhysCell) : (s.modPhys p f).cells = s.cells := rfl
@[simp] theorem State.modPhys_phys (p : Nat) (f : PhysCell → PhysCell) : (s.modPhys p f).phys = Tab.set {} s.phys p (f (s.physCell p)) := rfl
@[simp] theorem State.modPhys_pairs (p : Nat) (f : PhysCell → PhysCell) : (s.modPhys p f).pairs = s.pairs := rfl
@[simp] theorem State.modPhys_mem (p : Nat) (f : PhysCell → PhysCell) : (s.modPhys p f).mem = s.mem := rfl
@[simp] theorem State.modPhys_buckets (p : Nat) (f : PhysCell → PhysCell) : (s.modPhys p f).buckets = s.buckets := rfl
@[simp] theorem State.modPhys_rrStack (p : Nat) (f : PhysCell → PhysCell) : (s.modPhys p f).rrStack = s.rrStack := rfl
@[simp] theorem State.modPhys_scouts (p : Nat) (f : PhysCell → PhysCell) : (s.modPhys p f).scouts = s.scouts := rfl
@[simp] theorem State.modPhys_base (p : Nat) (f : PhysCell → PhysCell) : (s.modPhys p f).base = s.base := rfl
@[simp] theorem State.modPhys_fab (p : Nat) (f : PhysCell → PhysCell) : (s.modPhys p f).fab = s.fab := rfl
@[simp] theorem State.modPhys_fenced (p : Nat) (f : PhysCell → PhysCell) : (s.modPhys p f).fenced = s.fenced := rfl
@[simp] theorem State.modPhys_mech (p : Nat) (f : PhysCell → PhysCell) : (s.modPhys p f).mech = s.mech := rfl
@[simp] theorem State.modPhys_health (p : Nat) (f : PhysCell → PhysCell) : (s.modPhys p f).health = s.health := rfl
@[simp] theorem State.modPhys_power (p : Nat) (f : PhysCell → PhysCell) : (s.modPhys p f).power = s.power := rfl
@[simp] theorem State.modPhys_sec (p : Nat) (f : PhysCell → PhysCell) : (s.modPhys p f).sec = s.sec := rfl
@[simp] theorem State.modPhys_cntBanks (p : Nat) (f : PhysCell → PhysCell) : (s.modPhys p f).cntBanks = s.cntBanks := rfl
@[simp] theorem State.modPhys_cntSnap (p : Nat) (f : PhysCell → PhysCell) : (s.modPhys p f).cntSnap = s.cntSnap := rfl
@[simp] theorem State.modPhys_log (p : Nat) (f : PhysCell → PhysCell) : (s.modPhys p f).log = s.log := rfl
@[simp] theorem State.modPhys_boot (p : Nat) (f : PhysCell → PhysCell) : (s.modPhys p f).boot = s.boot := rfl
@[simp] theorem State.modPhys_msixPend (p : Nat) (f : PhysCell → PhysCell) : (s.modPhys p f).msixPend = s.msixPend := rfl
@[simp] theorem State.modPhys_vfMap (p : Nat) (f : PhysCell → PhysCell) : (s.modPhys p f).vfMap = s.vfMap := rfl
@[simp] theorem State.modPhys_out (p : Nat) (f : PhysCell → PhysCell) : (s.modPhys p f).out = s.out := rfl
@[simp] theorem State.modPhys_free (p : Nat) (f : PhysCell → PhysCell) : (s.modPhys p f).free = s.free := rfl

/-! ### modScout -/
@[simp] theorem State.modScout_pending (u : Nat) (f : ScoutRec → ScoutRec) : (s.modScout u f).pending = s.pending := rfl
@[simp] theorem State.modScout_clock (u : Nat) (f : ScoutRec → ScoutRec) : (s.modScout u f).clock = s.clock := rfl
@[simp] theorem State.modScout_regs (u : Nat) (f : ScoutRec → ScoutRec) : (s.modScout u f).regs = s.regs := rfl
@[simp] theorem State.modScout_ctx (u : Nat) (f : ScoutRec → ScoutRec) : (s.modScout u f).ctx = s.ctx := rfl
@[simp] theorem State.modScout_str (u : Nat) (f : ScoutRec → ScoutRec) : (s.modScout u f).str = s.str := rfl
@[simp] theorem State.modScout_queue (u : Nat) (f : ScoutRec → ScoutRec) : (s.modScout u f).queue = s.queue := rfl
@[simp] theorem State.modScout_evtSel (u : Nat) (f : ScoutRec → ScoutRec) : (s.modScout u f).evtSel = s.evtSel := rfl
@[simp] theorem State.modScout_evt (u : Nat) (f : ScoutRec → ScoutRec) : (s.modScout u f).evt = s.evt := rfl
@[simp] theorem State.modScout_runs (u : Nat) (f : ScoutRec → ScoutRec) : (s.modScout u f).runs = s.runs := rfl
@[simp] theorem State.modScout_cells (u : Nat) (f : ScoutRec → ScoutRec) : (s.modScout u f).cells = s.cells := rfl
@[simp] theorem State.modScout_phys (u : Nat) (f : ScoutRec → ScoutRec) : (s.modScout u f).phys = s.phys := rfl
@[simp] theorem State.modScout_pairs (u : Nat) (f : ScoutRec → ScoutRec) : (s.modScout u f).pairs = s.pairs := rfl
@[simp] theorem State.modScout_mem (u : Nat) (f : ScoutRec → ScoutRec) : (s.modScout u f).mem = s.mem := rfl
@[simp] theorem State.modScout_buckets (u : Nat) (f : ScoutRec → ScoutRec) : (s.modScout u f).buckets = s.buckets := rfl
@[simp] theorem State.modScout_rrStack (u : Nat) (f : ScoutRec → ScoutRec) : (s.modScout u f).rrStack = s.rrStack := rfl
@[simp] theorem State.modScout_scouts (u : Nat) (f : ScoutRec → ScoutRec) : (s.modScout u f).scouts = Tab.set {} s.scouts u (f (s.scoutRec u)) := rfl
@[simp] theorem State.modScout_base (u : Nat) (f : ScoutRec → ScoutRec) : (s.modScout u f).base = s.base := rfl
@[simp] theorem State.modScout_fab (u : Nat) (f : ScoutRec → ScoutRec) : (s.modScout u f).fab = s.fab := rfl
@[simp] theorem State.modScout_fenced (u : Nat) (f : ScoutRec → ScoutRec) : (s.modScout u f).fenced = s.fenced := rfl
@[simp] theorem State.modScout_mech (u : Nat) (f : ScoutRec → ScoutRec) : (s.modScout u f).mech = s.mech := rfl
@[simp] theorem State.modScout_health (u : Nat) (f : ScoutRec → ScoutRec) : (s.modScout u f).health = s.health := rfl
@[simp] theorem State.modScout_power (u : Nat) (f : ScoutRec → ScoutRec) : (s.modScout u f).power = s.power := rfl
@[simp] theorem State.modScout_sec (u : Nat) (f : ScoutRec → ScoutRec) : (s.modScout u f).sec = s.sec := rfl
@[simp] theorem State.modScout_cntBanks (u : Nat) (f : ScoutRec → ScoutRec) : (s.modScout u f).cntBanks = s.cntBanks := rfl
@[simp] theorem State.modScout_cntSnap (u : Nat) (f : ScoutRec → ScoutRec) : (s.modScout u f).cntSnap = s.cntSnap := rfl
@[simp] theorem State.modScout_log (u : Nat) (f : ScoutRec → ScoutRec) : (s.modScout u f).log = s.log := rfl
@[simp] theorem State.modScout_boot (u : Nat) (f : ScoutRec → ScoutRec) : (s.modScout u f).boot = s.boot := rfl
@[simp] theorem State.modScout_msixPend (u : Nat) (f : ScoutRec → ScoutRec) : (s.modScout u f).msixPend = s.msixPend := rfl
@[simp] theorem State.modScout_vfMap (u : Nat) (f : ScoutRec → ScoutRec) : (s.modScout u f).vfMap = s.vfMap := rfl
@[simp] theorem State.modScout_out (u : Nat) (f : ScoutRec → ScoutRec) : (s.modScout u f).out = s.out := rfl
@[simp] theorem State.modScout_free (u : Nat) (f : ScoutRec → ScoutRec) : (s.modScout u f).free = s.free := rfl

/-! ### setCtr -/
@[simp] theorem State.setCtr_pending (c : Nat) (v : W32) : (s.setCtr c v).pending = s.pending := rfl
@[simp] theorem State.setCtr_clock (c : Nat) (v : W32) : (s.setCtr c v).clock = s.clock := rfl
@[simp] theorem State.setCtr_regs (c : Nat) (v : W32) : (s.setCtr c v).regs = s.regs := rfl
@[simp] theorem State.setCtr_ctx (c : Nat) (v : W32) : (s.setCtr c v).ctx = s.ctx := rfl
@[simp] theorem State.setCtr_str (c : Nat) (v : W32) : (s.setCtr c v).str = s.str := rfl
@[simp] theorem State.setCtr_queue (c : Nat) (v : W32) : (s.setCtr c v).queue = s.queue := rfl
@[simp] theorem State.setCtr_evtSel (c : Nat) (v : W32) : (s.setCtr c v).evtSel = s.evtSel := rfl
@[simp] theorem State.setCtr_evt (c : Nat) (v : W32) : (s.setCtr c v).evt = Tab.set 0 s.evt c v := rfl
@[simp] theorem State.setCtr_runs (c : Nat) (v : W32) : (s.setCtr c v).runs = s.runs := rfl
@[simp] theorem State.setCtr_cells (c : Nat) (v : W32) : (s.setCtr c v).cells = s.cells := rfl
@[simp] theorem State.setCtr_phys (c : Nat) (v : W32) : (s.setCtr c v).phys = s.phys := rfl
@[simp] theorem State.setCtr_pairs (c : Nat) (v : W32) : (s.setCtr c v).pairs = s.pairs := rfl
@[simp] theorem State.setCtr_mem (c : Nat) (v : W32) : (s.setCtr c v).mem = s.mem := rfl
@[simp] theorem State.setCtr_buckets (c : Nat) (v : W32) : (s.setCtr c v).buckets = s.buckets := rfl
@[simp] theorem State.setCtr_rrStack (c : Nat) (v : W32) : (s.setCtr c v).rrStack = s.rrStack := rfl
@[simp] theorem State.setCtr_scouts (c : Nat) (v : W32) : (s.setCtr c v).scouts = s.scouts := rfl
@[simp] theorem State.setCtr_base (c : Nat) (v : W32) : (s.setCtr c v).base = s.base := rfl
@[simp] theorem State.setCtr_fab (c : Nat) (v : W32) : (s.setCtr c v).fab = s.fab := rfl
@[simp] theorem State.setCtr_fenced (c : Nat) (v : W32) : (s.setCtr c v).fenced = s.fenced := rfl
@[simp] theorem State.setCtr_mech (c : Nat) (v : W32) : (s.setCtr c v).mech = s.mech := rfl
@[simp] theorem State.setCtr_health (c : Nat) (v : W32) : (s.setCtr c v).health = s.health := rfl
@[simp] theorem State.setCtr_power (c : Nat) (v : W32) : (s.setCtr c v).power = s.power := rfl
@[simp] theorem State.setCtr_sec (c : Nat) (v : W32) : (s.setCtr c v).sec = s.sec := rfl
@[simp] theorem State.setCtr_cntBanks (c : Nat) (v : W32) : (s.setCtr c v).cntBanks = s.cntBanks := rfl
@[simp] theorem State.setCtr_cntSnap (c : Nat) (v : W32) : (s.setCtr c v).cntSnap = s.cntSnap := rfl
@[simp] theorem State.setCtr_log (c : Nat) (v : W32) : (s.setCtr c v).log = s.log := rfl
@[simp] theorem State.setCtr_boot (c : Nat) (v : W32) : (s.setCtr c v).boot = s.boot := rfl
@[simp] theorem State.setCtr_msixPend (c : Nat) (v : W32) : (s.setCtr c v).msixPend = s.msixPend := rfl
@[simp] theorem State.setCtr_vfMap (c : Nat) (v : W32) : (s.setCtr c v).vfMap = s.vfMap := rfl
@[simp] theorem State.setCtr_out (c : Nat) (v : W32) : (s.setCtr c v).out = s.out := rfl
@[simp] theorem State.setCtr_free (c : Nat) (v : W32) : (s.setCtr c v).free = s.free := rfl

/-! ### modFab -/
@[simp] theorem State.modFab_pending (f : Fabric → Fabric) : (s.modFab f).pending = s.pending := rfl
@[simp] theorem State.modFab_clock (f : Fabric → Fabric) : (s.modFab f).clock = s.clock := rfl
@[simp] theorem State.modFab_regs (f : Fabric → Fabric) : (s.modFab f).regs = s.regs := rfl
@[simp] theorem State.modFab_ctx (f : Fabric → Fabric) : (s.modFab f).ctx = s.ctx := rfl
@[simp] theorem State.modFab_str (f : Fabric → Fabric) : (s.modFab f).str = s.str := rfl
@[simp] theorem State.modFab_queue (f : Fabric → Fabric) : (s.modFab f).queue = s.queue := rfl
@[simp] theorem State.modFab_evtSel (f : Fabric → Fabric) : (s.modFab f).evtSel = s.evtSel := rfl
@[simp] theorem State.modFab_evt (f : Fabric → Fabric) : (s.modFab f).evt = s.evt := rfl
@[simp] theorem State.modFab_runs (f : Fabric → Fabric) : (s.modFab f).runs = s.runs := rfl
@[simp] theorem State.modFab_cells (f : Fabric → Fabric) : (s.modFab f).cells = s.cells := rfl
@[simp] theorem State.modFab_phys (f : Fabric → Fabric) : (s.modFab f).phys = s.phys := rfl
@[simp] theorem State.modFab_pairs (f : Fabric → Fabric) : (s.modFab f).pairs = s.pairs := rfl
@[simp] theorem State.modFab_mem (f : Fabric → Fabric) : (s.modFab f).mem = s.mem := rfl
@[simp] theorem State.modFab_buckets (f : Fabric → Fabric) : (s.modFab f).buckets = s.buckets := rfl
@[simp] theorem State.modFab_rrStack (f : Fabric → Fabric) : (s.modFab f).rrStack = s.rrStack := rfl
@[simp] theorem State.modFab_scouts (f : Fabric → Fabric) : (s.modFab f).scouts = s.scouts := rfl
@[simp] theorem State.modFab_base (f : Fabric → Fabric) : (s.modFab f).base = s.base := rfl
@[simp] theorem State.modFab_fab (f : Fabric → Fabric) : (s.modFab f).fab = f s.fab := rfl
@[simp] theorem State.modFab_fenced (f : Fabric → Fabric) : (s.modFab f).fenced = s.fenced := rfl
@[simp] theorem State.modFab_mech (f : Fabric → Fabric) : (s.modFab f).mech = s.mech := rfl
@[simp] theorem State.modFab_health (f : Fabric → Fabric) : (s.modFab f).health = s.health := rfl
@[simp] theorem State.modFab_power (f : Fabric → Fabric) : (s.modFab f).power = s.power := rfl
@[simp] theorem State.modFab_sec (f : Fabric → Fabric) : (s.modFab f).sec = s.sec := rfl
@[simp] theorem State.modFab_cntBanks (f : Fabric → Fabric) : (s.modFab f).cntBanks = s.cntBanks := rfl
@[simp] theorem State.modFab_cntSnap (f : Fabric → Fabric) : (s.modFab f).cntSnap = s.cntSnap := rfl
@[simp] theorem State.modFab_log (f : Fabric → Fabric) : (s.modFab f).log = s.log := rfl
@[simp] theorem State.modFab_boot (f : Fabric → Fabric) : (s.modFab f).boot = s.boot := rfl
@[simp] theorem State.modFab_msixPend (f : Fabric → Fabric) : (s.modFab f).msixPend = s.msixPend := rfl
@[simp] theorem State.modFab_vfMap (f : Fabric → Fabric) : (s.modFab f).vfMap = s.vfMap := rfl
@[simp] theorem State.modFab_out (f : Fabric → Fabric) : (s.modFab f).out = s.out := rfl
@[simp] theorem State.modFab_free (f : Fabric → Fabric) : (s.modFab f).free = s.free := rfl

/-! ### modBase -/
@[simp] theorem State.modBase_pending (f : Base → Base) : (s.modBase f).pending = s.pending := rfl
@[simp] theorem State.modBase_clock (f : Base → Base) : (s.modBase f).clock = s.clock := rfl
@[simp] theorem State.modBase_regs (f : Base → Base) : (s.modBase f).regs = s.regs := rfl
@[simp] theorem State.modBase_ctx (f : Base → Base) : (s.modBase f).ctx = s.ctx := rfl
@[simp] theorem State.modBase_str (f : Base → Base) : (s.modBase f).str = s.str := rfl
@[simp] theorem State.modBase_queue (f : Base → Base) : (s.modBase f).queue = s.queue := rfl
@[simp] theorem State.modBase_evtSel (f : Base → Base) : (s.modBase f).evtSel = s.evtSel := rfl
@[simp] theorem State.modBase_evt (f : Base → Base) : (s.modBase f).evt = s.evt := rfl
@[simp] theorem State.modBase_runs (f : Base → Base) : (s.modBase f).runs = s.runs := rfl
@[simp] theorem State.modBase_cells (f : Base → Base) : (s.modBase f).cells = s.cells := rfl
@[simp] theorem State.modBase_phys (f : Base → Base) : (s.modBase f).phys = s.phys := rfl
@[simp] theorem State.modBase_pairs (f : Base → Base) : (s.modBase f).pairs = s.pairs := rfl
@[simp] theorem State.modBase_mem (f : Base → Base) : (s.modBase f).mem = s.mem := rfl
@[simp] theorem State.modBase_buckets (f : Base → Base) : (s.modBase f).buckets = s.buckets := rfl
@[simp] theorem State.modBase_rrStack (f : Base → Base) : (s.modBase f).rrStack = s.rrStack := rfl
@[simp] theorem State.modBase_scouts (f : Base → Base) : (s.modBase f).scouts = s.scouts := rfl
@[simp] theorem State.modBase_base (f : Base → Base) : (s.modBase f).base = f s.base := rfl
@[simp] theorem State.modBase_fab (f : Base → Base) : (s.modBase f).fab = s.fab := rfl
@[simp] theorem State.modBase_fenced (f : Base → Base) : (s.modBase f).fenced = s.fenced := rfl
@[simp] theorem State.modBase_mech (f : Base → Base) : (s.modBase f).mech = s.mech := rfl
@[simp] theorem State.modBase_health (f : Base → Base) : (s.modBase f).health = s.health := rfl
@[simp] theorem State.modBase_power (f : Base → Base) : (s.modBase f).power = s.power := rfl
@[simp] theorem State.modBase_sec (f : Base → Base) : (s.modBase f).sec = s.sec := rfl
@[simp] theorem State.modBase_cntBanks (f : Base → Base) : (s.modBase f).cntBanks = s.cntBanks := rfl
@[simp] theorem State.modBase_cntSnap (f : Base → Base) : (s.modBase f).cntSnap = s.cntSnap := rfl
@[simp] theorem State.modBase_log (f : Base → Base) : (s.modBase f).log = s.log := rfl
@[simp] theorem State.modBase_boot (f : Base → Base) : (s.modBase f).boot = s.boot := rfl
@[simp] theorem State.modBase_msixPend (f : Base → Base) : (s.modBase f).msixPend = s.msixPend := rfl
@[simp] theorem State.modBase_vfMap (f : Base → Base) : (s.modBase f).vfMap = s.vfMap := rfl
@[simp] theorem State.modBase_out (f : Base → Base) : (s.modBase f).out = s.out := rfl
@[simp] theorem State.modBase_free (f : Base → Base) : (s.modBase f).free = s.free := rfl

/-! ### modMem -/
@[simp] theorem State.modMem_pending (f : MemRec → MemRec) : (s.modMem f).pending = s.pending := rfl
@[simp] theorem State.modMem_clock (f : MemRec → MemRec) : (s.modMem f).clock = s.clock := rfl
@[simp] theorem State.modMem_regs (f : MemRec → MemRec) : (s.modMem f).regs = s.regs := rfl
@[simp] theorem State.modMem_ctx (f : MemRec → MemRec) : (s.modMem f).ctx = s.ctx := rfl
@[simp] theorem State.modMem_str (f : MemRec → MemRec) : (s.modMem f).str = s.str := rfl
@[simp] theorem State.modMem_queue (f : MemRec → MemRec) : (s.modMem f).queue = s.queue := rfl
@[simp] theorem State.modMem_evtSel (f : MemRec → MemRec) : (s.modMem f).evtSel = s.evtSel := rfl
@[simp] theorem State.modMem_evt (f : MemRec → MemRec) : (s.modMem f).evt = s.evt := rfl
@[simp] theorem State.modMem_runs (f : MemRec → MemRec) : (s.modMem f).runs = s.runs := rfl
@[simp] theorem State.modMem_cells (f : MemRec → MemRec) : (s.modMem f).cells = s.cells := rfl
@[simp] theorem State.modMem_phys (f : MemRec → MemRec) : (s.modMem f).phys = s.phys := rfl
@[simp] theorem State.modMem_pairs (f : MemRec → MemRec) : (s.modMem f).pairs = s.pairs := rfl
@[simp] theorem State.modMem_mem (f : MemRec → MemRec) : (s.modMem f).mem = f s.mem := rfl
@[simp] theorem State.modMem_buckets (f : MemRec → MemRec) : (s.modMem f).buckets = s.buckets := rfl
@[simp] theorem State.modMem_rrStack (f : MemRec → MemRec) : (s.modMem f).rrStack = s.rrStack := rfl
@[simp] theorem State.modMem_scouts (f : MemRec → MemRec) : (s.modMem f).scouts = s.scouts := rfl
@[simp] theorem State.modMem_base (f : MemRec → MemRec) : (s.modMem f).base = s.base := rfl
@[simp] theorem State.modMem_fab (f : MemRec → MemRec) : (s.modMem f).fab = s.fab := rfl
@[simp] theorem State.modMem_fenced (f : MemRec → MemRec) : (s.modMem f).fenced = s.fenced := rfl
@[simp] theorem State.modMem_mech (f : MemRec → MemRec) : (s.modMem f).mech = s.mech := rfl
@[simp] theorem State.modMem_health (f : MemRec → MemRec) : (s.modMem f).health = s.health := rfl
@[simp] theorem State.modMem_power (f : MemRec → MemRec) : (s.modMem f).power = s.power := rfl
@[simp] theorem State.modMem_sec (f : MemRec → MemRec) : (s.modMem f).sec = s.sec := rfl
@[simp] theorem State.modMem_cntBanks (f : MemRec → MemRec) : (s.modMem f).cntBanks = s.cntBanks := rfl
@[simp] theorem State.modMem_cntSnap (f : MemRec → MemRec) : (s.modMem f).cntSnap = s.cntSnap := rfl
@[simp] theorem State.modMem_log (f : MemRec → MemRec) : (s.modMem f).log = s.log := rfl
@[simp] theorem State.modMem_boot (f : MemRec → MemRec) : (s.modMem f).boot = s.boot := rfl
@[simp] theorem State.modMem_msixPend (f : MemRec → MemRec) : (s.modMem f).msixPend = s.msixPend := rfl
@[simp] theorem State.modMem_vfMap (f : MemRec → MemRec) : (s.modMem f).vfMap = s.vfMap := rfl
@[simp] theorem State.modMem_out (f : MemRec → MemRec) : (s.modMem f).out = s.out := rfl
@[simp] theorem State.modMem_free (f : MemRec → MemRec) : (s.modMem f).free = s.free := rfl

/-! ### modPower -/
@[simp] theorem State.modPower_pending (f : Power → Power) : (s.modPower f).pending = s.pending := rfl
@[simp] theorem State.modPower_clock (f : Power → Power) : (s.modPower f).clock = s.clock := rfl
@[simp] theorem State.modPower_regs (f : Power → Power) : (s.modPower f).regs = s.regs := rfl
@[simp] theorem State.modPower_ctx (f : Power → Power) : (s.modPower f).ctx = s.ctx := rfl
@[simp] theorem State.modPower_str (f : Power → Power) : (s.modPower f).str = s.str := rfl
@[simp] theorem State.modPower_queue (f : Power → Power) : (s.modPower f).queue = s.queue := rfl
@[simp] theorem State.modPower_evtSel (f : Power → Power) : (s.modPower f).evtSel = s.evtSel := rfl
@[simp] theorem State.modPower_evt (f : Power → Power) : (s.modPower f).evt = s.evt := rfl
@[simp] theorem State.modPower_runs (f : Power → Power) : (s.modPower f).runs = s.runs := rfl
@[simp] theorem State.modPower_cells (f : Power → Power) : (s.modPower f).cells = s.cells := rfl
@[simp] theorem State.modPower_phys (f : Power → Power) : (s.modPower f).phys = s.phys := rfl
@[simp] theorem State.modPower_pairs (f : Power → Power) : (s.modPower f).pairs = s.pairs := rfl
@[simp] theorem State.modPower_mem (f : Power → Power) : (s.modPower f).mem = s.mem := rfl
@[simp] theorem State.modPower_buckets (f : Power → Power) : (s.modPower f).buckets = s.buckets := rfl
@[simp] theorem State.modPower_rrStack (f : Power → Power) : (s.modPower f).rrStack = s.rrStack := rfl
@[simp] theorem State.modPower_scouts (f : Power → Power) : (s.modPower f).scouts = s.scouts := rfl
@[simp] theorem State.modPower_base (f : Power → Power) : (s.modPower f).base = s.base := rfl
@[simp] theorem State.modPower_fab (f : Power → Power) : (s.modPower f).fab = s.fab := rfl
@[simp] theorem State.modPower_fenced (f : Power → Power) : (s.modPower f).fenced = s.fenced := rfl
@[simp] theorem State.modPower_mech (f : Power → Power) : (s.modPower f).mech = s.mech := rfl
@[simp] theorem State.modPower_health (f : Power → Power) : (s.modPower f).health = s.health := rfl
@[simp] theorem State.modPower_power (f : Power → Power) : (s.modPower f).power = f s.power := rfl
@[simp] theorem State.modPower_sec (f : Power → Power) : (s.modPower f).sec = s.sec := rfl
@[simp] theorem State.modPower_cntBanks (f : Power → Power) : (s.modPower f).cntBanks = s.cntBanks := rfl
@[simp] theorem State.modPower_cntSnap (f : Power → Power) : (s.modPower f).cntSnap = s.cntSnap := rfl
@[simp] theorem State.modPower_log (f : Power → Power) : (s.modPower f).log = s.log := rfl
@[simp] theorem State.modPower_boot (f : Power → Power) : (s.modPower f).boot = s.boot := rfl
@[simp] theorem State.modPower_msixPend (f : Power → Power) : (s.modPower f).msixPend = s.msixPend := rfl
@[simp] theorem State.modPower_vfMap (f : Power → Power) : (s.modPower f).vfMap = s.vfMap := rfl
@[simp] theorem State.modPower_out (f : Power → Power) : (s.modPower f).out = s.out := rfl
@[simp] theorem State.modPower_free (f : Power → Power) : (s.modPower f).free = s.free := rfl

/-! ### modSec -/
@[simp] theorem State.modSec_pending (f : Sec → Sec) : (s.modSec f).pending = s.pending := rfl
@[simp] theorem State.modSec_clock (f : Sec → Sec) : (s.modSec f).clock = s.clock := rfl
@[simp] theorem State.modSec_regs (f : Sec → Sec) : (s.modSec f).regs = s.regs := rfl
@[simp] theorem State.modSec_ctx (f : Sec → Sec) : (s.modSec f).ctx = s.ctx := rfl
@[simp] theorem State.modSec_str (f : Sec → Sec) : (s.modSec f).str = s.str := rfl
@[simp] theorem State.modSec_queue (f : Sec → Sec) : (s.modSec f).queue = s.queue := rfl
@[simp] theorem State.modSec_evtSel (f : Sec → Sec) : (s.modSec f).evtSel = s.evtSel := rfl
@[simp] theorem State.modSec_evt (f : Sec → Sec) : (s.modSec f).evt = s.evt := rfl
@[simp] theorem State.modSec_runs (f : Sec → Sec) : (s.modSec f).runs = s.runs := rfl
@[simp] theorem State.modSec_cells (f : Sec → Sec) : (s.modSec f).cells = s.cells := rfl
@[simp] theorem State.modSec_phys (f : Sec → Sec) : (s.modSec f).phys = s.phys := rfl
@[simp] theorem State.modSec_pairs (f : Sec → Sec) : (s.modSec f).pairs = s.pairs := rfl
@[simp] theorem State.modSec_mem (f : Sec → Sec) : (s.modSec f).mem = s.mem := rfl
@[simp] theorem State.modSec_buckets (f : Sec → Sec) : (s.modSec f).buckets = s.buckets := rfl
@[simp] theorem State.modSec_rrStack (f : Sec → Sec) : (s.modSec f).rrStack = s.rrStack := rfl
@[simp] theorem State.modSec_scouts (f : Sec → Sec) : (s.modSec f).scouts = s.scouts := rfl
@[simp] theorem State.modSec_base (f : Sec → Sec) : (s.modSec f).base = s.base := rfl
@[simp] theorem State.modSec_fab (f : Sec → Sec) : (s.modSec f).fab = s.fab := rfl
@[simp] theorem State.modSec_fenced (f : Sec → Sec) : (s.modSec f).fenced = s.fenced := rfl
@[simp] theorem State.modSec_mech (f : Sec → Sec) : (s.modSec f).mech = s.mech := rfl
@[simp] theorem State.modSec_health (f : Sec → Sec) : (s.modSec f).health = s.health := rfl
@[simp] theorem State.modSec_power (f : Sec → Sec) : (s.modSec f).power = s.power := rfl
@[simp] theorem State.modSec_sec (f : Sec → Sec) : (s.modSec f).sec = f s.sec := rfl
@[simp] theorem State.modSec_cntBanks (f : Sec → Sec) : (s.modSec f).cntBanks = s.cntBanks := rfl
@[simp] theorem State.modSec_cntSnap (f : Sec → Sec) : (s.modSec f).cntSnap = s.cntSnap := rfl
@[simp] theorem State.modSec_log (f : Sec → Sec) : (s.modSec f).log = s.log := rfl
@[simp] theorem State.modSec_boot (f : Sec → Sec) : (s.modSec f).boot = s.boot := rfl
@[simp] theorem State.modSec_msixPend (f : Sec → Sec) : (s.modSec f).msixPend = s.msixPend := rfl
@[simp] theorem State.modSec_vfMap (f : Sec → Sec) : (s.modSec f).vfMap = s.vfMap := rfl
@[simp] theorem State.modSec_out (f : Sec → Sec) : (s.modSec f).out = s.out := rfl
@[simp] theorem State.modSec_free (f : Sec → Sec) : (s.modSec f).free = s.free := rfl

/-! ### modBoot -/
@[simp] theorem State.modBoot_pending (f : Boot → Boot) : (s.modBoot f).pending = s.pending := rfl
@[simp] theorem State.modBoot_clock (f : Boot → Boot) : (s.modBoot f).clock = s.clock := rfl
@[simp] theorem State.modBoot_regs (f : Boot → Boot) : (s.modBoot f).regs = s.regs := rfl
@[simp] theorem State.modBoot_ctx (f : Boot → Boot) : (s.modBoot f).ctx = s.ctx := rfl
@[simp] theorem State.modBoot_str (f : Boot → Boot) : (s.modBoot f).str = s.str := rfl
@[simp] theorem State.modBoot_queue (f : Boot → Boot) : (s.modBoot f).queue = s.queue := rfl
@[simp] theorem State.modBoot_evtSel (f : Boot → Boot) : (s.modBoot f).evtSel = s.evtSel := rfl
@[simp] theorem State.modBoot_evt (f : Boot → Boot) : (s.modBoot f).evt = s.evt := rfl
@[simp] theorem State.modBoot_runs (f : Boot → Boot) : (s.modBoot f).runs = s.runs := rfl
@[simp] theorem State.modBoot_cells (f : Boot → Boot) : (s.modBoot f).cells = s.cells := rfl
@[simp] theorem State.modBoot_phys (f : Boot → Boot) : (s.modBoot f).phys = s.phys := rfl
@[simp] theorem State.modBoot_pairs (f : Boot → Boot) : (s.modBoot f).pairs = s.pairs := rfl
@[simp] theorem State.modBoot_mem (f : Boot → Boot) : (s.modBoot f).mem = s.mem := rfl
@[simp] theorem State.modBoot_buckets (f : Boot → Boot) : (s.modBoot f).buckets = s.buckets := rfl
@[simp] theorem State.modBoot_rrStack (f : Boot → Boot) : (s.modBoot f).rrStack = s.rrStack := rfl
@[simp] theorem State.modBoot_scouts (f : Boot → Boot) : (s.modBoot f).scouts = s.scouts := rfl
@[simp] theorem State.modBoot_base (f : Boot → Boot) : (s.modBoot f).base = s.base := rfl
@[simp] theorem State.modBoot_fab (f : Boot → Boot) : (s.modBoot f).fab = s.fab := rfl
@[simp] theorem State.modBoot_fenced (f : Boot → Boot) : (s.modBoot f).fenced = s.fenced := rfl
@[simp] theorem State.modBoot_mech (f : Boot → Boot) : (s.modBoot f).mech = s.mech := rfl
@[simp] theorem State.modBoot_health (f : Boot → Boot) : (s.modBoot f).health = s.health := rfl
@[simp] theorem State.modBoot_power (f : Boot → Boot) : (s.modBoot f).power = s.power := rfl
@[simp] theorem State.modBoot_sec (f : Boot → Boot) : (s.modBoot f).sec = s.sec := rfl
@[simp] theorem State.modBoot_cntBanks (f : Boot → Boot) : (s.modBoot f).cntBanks = s.cntBanks := rfl
@[simp] theorem State.modBoot_cntSnap (f : Boot → Boot) : (s.modBoot f).cntSnap = s.cntSnap := rfl
@[simp] theorem State.modBoot_log (f : Boot → Boot) : (s.modBoot f).log = s.log := rfl
@[simp] theorem State.modBoot_boot (f : Boot → Boot) : (s.modBoot f).boot = f s.boot := rfl
@[simp] theorem State.modBoot_msixPend (f : Boot → Boot) : (s.modBoot f).msixPend = s.msixPend := rfl
@[simp] theorem State.modBoot_vfMap (f : Boot → Boot) : (s.modBoot f).vfMap = s.vfMap := rfl
@[simp] theorem State.modBoot_out (f : Boot → Boot) : (s.modBoot f).out = s.out := rfl
@[simp] theorem State.modBoot_free (f : Boot → Boot) : (s.modBoot f).free = s.free := rfl

/-! ### modLog -/
@[simp] theorem State.modLog_pending (f : LifeLog → LifeLog) : (s.modLog f).pending = s.pending := rfl
@[simp] theorem State.modLog_clock (f : LifeLog → LifeLog) : (s.modLog f).clock = s.clock := rfl
@[simp] theorem State.modLog_regs (f : LifeLog → LifeLog) : (s.modLog f).regs = s.regs := rfl
@[simp] theorem State.modLog_ctx (f : LifeLog → LifeLog) : (s.modLog f).ctx = s.ctx := rfl
@[simp] theorem State.modLog_str (f : LifeLog → LifeLog) : (s.modLog f).str = s.str := rfl
@[simp] theorem State.modLog_queue (f : LifeLog → LifeLog) : (s.modLog f).queue = s.queue := rfl
@[simp] theorem State.modLog_evtSel (f : LifeLog → LifeLog) : (s.modLog f).evtSel = s.evtSel := rfl
@[simp] theorem State.modLog_evt (f : LifeLog → LifeLog) : (s.modLog f).evt = s.evt := rfl
@[simp] theorem State.modLog_runs (f : LifeLog → LifeLog) : (s.modLog f).runs = s.runs := rfl
@[simp] theorem State.modLog_cells (f : LifeLog → LifeLog) : (s.modLog f).cells = s.cells := rfl
@[simp] theorem State.modLog_phys (f : LifeLog → LifeLog) : (s.modLog f).phys = s.phys := rfl
@[simp] theorem State.modLog_pairs (f : LifeLog → LifeLog) : (s.modLog f).pairs = s.pairs := rfl
@[simp] theorem State.modLog_mem (f : LifeLog → LifeLog) : (s.modLog f).mem = s.mem := rfl
@[simp] theorem State.modLog_buckets (f : LifeLog → LifeLog) : (s.modLog f).buckets = s.buckets := rfl
@[simp] theorem State.modLog_rrStack (f : LifeLog → LifeLog) : (s.modLog f).rrStack = s.rrStack := rfl
@[simp] theorem State.modLog_scouts (f : LifeLog → LifeLog) : (s.modLog f).scouts = s.scouts := rfl
@[simp] theorem State.modLog_base (f : LifeLog → LifeLog) : (s.modLog f).base = s.base := rfl
@[simp] theorem State.modLog_fab (f : LifeLog → LifeLog) : (s.modLog f).fab = s.fab := rfl
@[simp] theorem State.modLog_fenced (f : LifeLog → LifeLog) : (s.modLog f).fenced = s.fenced := rfl
@[simp] theorem State.modLog_mech (f : LifeLog → LifeLog) : (s.modLog f).mech = s.mech := rfl
@[simp] theorem State.modLog_health (f : LifeLog → LifeLog) : (s.modLog f).health = s.health := rfl
@[simp] theorem State.modLog_power (f : LifeLog → LifeLog) : (s.modLog f).power = s.power := rfl
@[simp] theorem State.modLog_sec (f : LifeLog → LifeLog) : (s.modLog f).sec = s.sec := rfl
@[simp] theorem State.modLog_cntBanks (f : LifeLog → LifeLog) : (s.modLog f).cntBanks = s.cntBanks := rfl
@[simp] theorem State.modLog_cntSnap (f : LifeLog → LifeLog) : (s.modLog f).cntSnap = s.cntSnap := rfl
@[simp] theorem State.modLog_log (f : LifeLog → LifeLog) : (s.modLog f).log = f s.log := rfl
@[simp] theorem State.modLog_boot (f : LifeLog → LifeLog) : (s.modLog f).boot = s.boot := rfl
@[simp] theorem State.modLog_msixPend (f : LifeLog → LifeLog) : (s.modLog f).msixPend = s.msixPend := rfl
@[simp] theorem State.modLog_vfMap (f : LifeLog → LifeLog) : (s.modLog f).vfMap = s.vfMap := rfl
@[simp] theorem State.modLog_out (f : LifeLog → LifeLog) : (s.modLog f).out = s.out := rfl
@[simp] theorem State.modLog_free (f : LifeLog → LifeLog) : (s.modLog f).free = s.free := rfl

/-! ### modUnit -/
@[simp] theorem State.modUnit_pending (u : Nat) (f : HealthRec → HealthRec) : (s.modUnit u f).pending = s.pending := rfl
@[simp] theorem State.modUnit_clock (u : Nat) (f : HealthRec → HealthRec) : (s.modUnit u f).clock = s.clock := rfl
@[simp] theorem State.modUnit_regs (u : Nat) (f : HealthRec → HealthRec) : (s.modUnit u f).regs = s.regs := rfl
@[simp] theorem State.modUnit_ctx (u : Nat) (f : HealthRec → HealthRec) : (s.modUnit u f).ctx = s.ctx := rfl
@[simp] theorem State.modUnit_str (u : Nat) (f : HealthRec → HealthRec) : (s.modUnit u f).str = s.str := rfl
@[simp] theorem State.modUnit_queue (u : Nat) (f : HealthRec → HealthRec) : (s.modUnit u f).queue = s.queue := rfl
@[simp] theorem State.modUnit_evtSel (u : Nat) (f : HealthRec → HealthRec) : (s.modUnit u f).evtSel = s.evtSel := rfl
@[simp] theorem State.modUnit_evt (u : Nat) (f : HealthRec → HealthRec) : (s.modUnit u f).evt = s.evt := rfl
@[simp] theorem State.modUnit_runs (u : Nat) (f : HealthRec → HealthRec) : (s.modUnit u f).runs = s.runs := rfl
@[simp] theorem State.modUnit_cells (u : Nat) (f : HealthRec → HealthRec) : (s.modUnit u f).cells = s.cells := rfl
@[simp] theorem State.modUnit_phys (u : Nat) (f : HealthRec → HealthRec) : (s.modUnit u f).phys = s.phys := rfl
@[simp] theorem State.modUnit_pairs (u : Nat) (f : HealthRec → HealthRec) : (s.modUnit u f).pairs = s.pairs := rfl
@[simp] theorem State.modUnit_mem (u : Nat) (f : HealthRec → HealthRec) : (s.modUnit u f).mem = s.mem := rfl
@[simp] theorem State.modUnit_buckets (u : Nat) (f : HealthRec → HealthRec) : (s.modUnit u f).buckets = s.buckets := rfl
@[simp] theorem State.modUnit_rrStack (u : Nat) (f : HealthRec → HealthRec) : (s.modUnit u f).rrStack = s.rrStack := rfl
@[simp] theorem State.modUnit_scouts (u : Nat) (f : HealthRec → HealthRec) : (s.modUnit u f).scouts = s.scouts := rfl
@[simp] theorem State.modUnit_base (u : Nat) (f : HealthRec → HealthRec) : (s.modUnit u f).base = s.base := rfl
@[simp] theorem State.modUnit_fab (u : Nat) (f : HealthRec → HealthRec) : (s.modUnit u f).fab = s.fab := rfl
@[simp] theorem State.modUnit_fenced (u : Nat) (f : HealthRec → HealthRec) : (s.modUnit u f).fenced = s.fenced := rfl
@[simp] theorem State.modUnit_mech (u : Nat) (f : HealthRec → HealthRec) : (s.modUnit u f).mech = s.mech := rfl
@[simp] theorem State.modUnit_health (u : Nat) (f : HealthRec → HealthRec) : (s.modUnit u f).health = Tab.set {} s.health u (f (s.unit u)) := rfl
@[simp] theorem State.modUnit_power (u : Nat) (f : HealthRec → HealthRec) : (s.modUnit u f).power = s.power := rfl
@[simp] theorem State.modUnit_sec (u : Nat) (f : HealthRec → HealthRec) : (s.modUnit u f).sec = s.sec := rfl
@[simp] theorem State.modUnit_cntBanks (u : Nat) (f : HealthRec → HealthRec) : (s.modUnit u f).cntBanks = s.cntBanks := rfl
@[simp] theorem State.modUnit_cntSnap (u : Nat) (f : HealthRec → HealthRec) : (s.modUnit u f).cntSnap = s.cntSnap := rfl
@[simp] theorem State.modUnit_log (u : Nat) (f : HealthRec → HealthRec) : (s.modUnit u f).log = s.log := rfl
@[simp] theorem State.modUnit_boot (u : Nat) (f : HealthRec → HealthRec) : (s.modUnit u f).boot = s.boot := rfl
@[simp] theorem State.modUnit_msixPend (u : Nat) (f : HealthRec → HealthRec) : (s.modUnit u f).msixPend = s.msixPend := rfl
@[simp] theorem State.modUnit_vfMap (u : Nat) (f : HealthRec → HealthRec) : (s.modUnit u f).vfMap = s.vfMap := rfl
@[simp] theorem State.modUnit_out (u : Nat) (f : HealthRec → HealthRec) : (s.modUnit u f).out = s.out := rfl
@[simp] theorem State.modUnit_free (u : Nat) (f : HealthRec → HealthRec) : (s.modUnit u f).free = s.free := rfl

/-! ### modRun -/
@[simp] theorem State.modRun_pending (id : CmdId) (f : Run → Run) : (s.modRun id f).pending = s.pending := rfl
@[simp] theorem State.modRun_clock (id : CmdId) (f : Run → Run) : (s.modRun id f).clock = s.clock := rfl
@[simp] theorem State.modRun_regs (id : CmdId) (f : Run → Run) : (s.modRun id f).regs = s.regs := rfl
@[simp] theorem State.modRun_ctx (id : CmdId) (f : Run → Run) : (s.modRun id f).ctx = s.ctx := rfl
@[simp] theorem State.modRun_str (id : CmdId) (f : Run → Run) : (s.modRun id f).str = s.str := rfl
@[simp] theorem State.modRun_queue (id : CmdId) (f : Run → Run) : (s.modRun id f).queue = s.queue := rfl
@[simp] theorem State.modRun_evtSel (id : CmdId) (f : Run → Run) : (s.modRun id f).evtSel = s.evtSel := rfl
@[simp] theorem State.modRun_evt (id : CmdId) (f : Run → Run) : (s.modRun id f).evt = s.evt := rfl
@[simp] theorem State.modRun_runs (id : CmdId) (f : Run → Run) : (s.modRun id f).runs = s.runs.map fun r => if r.id = id then f r else r := rfl
@[simp] theorem State.modRun_cells (id : CmdId) (f : Run → Run) : (s.modRun id f).cells = s.cells := rfl
@[simp] theorem State.modRun_phys (id : CmdId) (f : Run → Run) : (s.modRun id f).phys = s.phys := rfl
@[simp] theorem State.modRun_pairs (id : CmdId) (f : Run → Run) : (s.modRun id f).pairs = s.pairs := rfl
@[simp] theorem State.modRun_mem (id : CmdId) (f : Run → Run) : (s.modRun id f).mem = s.mem := rfl
@[simp] theorem State.modRun_buckets (id : CmdId) (f : Run → Run) : (s.modRun id f).buckets = s.buckets := rfl
@[simp] theorem State.modRun_rrStack (id : CmdId) (f : Run → Run) : (s.modRun id f).rrStack = s.rrStack := rfl
@[simp] theorem State.modRun_scouts (id : CmdId) (f : Run → Run) : (s.modRun id f).scouts = s.scouts := rfl
@[simp] theorem State.modRun_base (id : CmdId) (f : Run → Run) : (s.modRun id f).base = s.base := rfl
@[simp] theorem State.modRun_fab (id : CmdId) (f : Run → Run) : (s.modRun id f).fab = s.fab := rfl
@[simp] theorem State.modRun_fenced (id : CmdId) (f : Run → Run) : (s.modRun id f).fenced = s.fenced := rfl
@[simp] theorem State.modRun_mech (id : CmdId) (f : Run → Run) : (s.modRun id f).mech = s.mech := rfl
@[simp] theorem State.modRun_health (id : CmdId) (f : Run → Run) : (s.modRun id f).health = s.health := rfl
@[simp] theorem State.modRun_power (id : CmdId) (f : Run → Run) : (s.modRun id f).power = s.power := rfl
@[simp] theorem State.modRun_sec (id : CmdId) (f : Run → Run) : (s.modRun id f).sec = s.sec := rfl
@[simp] theorem State.modRun_cntBanks (id : CmdId) (f : Run → Run) : (s.modRun id f).cntBanks = s.cntBanks := rfl
@[simp] theorem State.modRun_cntSnap (id : CmdId) (f : Run → Run) : (s.modRun id f).cntSnap = s.cntSnap := rfl
@[simp] theorem State.modRun_log (id : CmdId) (f : Run → Run) : (s.modRun id f).log = s.log := rfl
@[simp] theorem State.modRun_boot (id : CmdId) (f : Run → Run) : (s.modRun id f).boot = s.boot := rfl
@[simp] theorem State.modRun_msixPend (id : CmdId) (f : Run → Run) : (s.modRun id f).msixPend = s.msixPend := rfl
@[simp] theorem State.modRun_vfMap (id : CmdId) (f : Run → Run) : (s.modRun id f).vfMap = s.vfMap := rfl
@[simp] theorem State.modRun_out (id : CmdId) (f : Run → Run) : (s.modRun id f).out = s.out := rfl
@[simp] theorem State.modRun_free (id : CmdId) (f : Run → Run) : (s.modRun id f).free = s.free := rfl

/-! ### draw -/
@[simp] theorem State.draw_pending : (s.draw).pending = s.pending := rfl
@[simp] theorem State.draw_clock : (s.draw).clock = s.clock := rfl
@[simp] theorem State.draw_regs : (s.draw).regs = s.regs := rfl
@[simp] theorem State.draw_ctx : (s.draw).ctx = s.ctx := rfl
@[simp] theorem State.draw_str : (s.draw).str = s.str := rfl
@[simp] theorem State.draw_queue : (s.draw).queue = s.queue := rfl
@[simp] theorem State.draw_evtSel : (s.draw).evtSel = s.evtSel := rfl
@[simp] theorem State.draw_evt : (s.draw).evt = s.evt := rfl
@[simp] theorem State.draw_runs : (s.draw).runs = s.runs := rfl
@[simp] theorem State.draw_cells : (s.draw).cells = s.cells := rfl
@[simp] theorem State.draw_phys : (s.draw).phys = s.phys := rfl
@[simp] theorem State.draw_pairs : (s.draw).pairs = s.pairs := rfl
@[simp] theorem State.draw_mem : (s.draw).mem = s.mem := rfl
@[simp] theorem State.draw_buckets : (s.draw).buckets = s.buckets := rfl
@[simp] theorem State.draw_rrStack : (s.draw).rrStack = s.rrStack := rfl
@[simp] theorem State.draw_scouts : (s.draw).scouts = s.scouts := rfl
@[simp] theorem State.draw_base : (s.draw).base = s.base := rfl
@[simp] theorem State.draw_fab : (s.draw).fab = s.fab := rfl
@[simp] theorem State.draw_fenced : (s.draw).fenced = s.fenced := rfl
@[simp] theorem State.draw_mech : (s.draw).mech = s.mech := rfl
@[simp] theorem State.draw_health : (s.draw).health = s.health := rfl
@[simp] theorem State.draw_power : (s.draw).power = s.power := rfl
@[simp] theorem State.draw_sec : (s.draw).sec = s.sec := rfl
@[simp] theorem State.draw_cntBanks : (s.draw).cntBanks = s.cntBanks := rfl
@[simp] theorem State.draw_cntSnap : (s.draw).cntSnap = s.cntSnap := rfl
@[simp] theorem State.draw_log : (s.draw).log = s.log := rfl
@[simp] theorem State.draw_boot : (s.draw).boot = s.boot := rfl
@[simp] theorem State.draw_msixPend : (s.draw).msixPend = s.msixPend := rfl
@[simp] theorem State.draw_vfMap : (s.draw).vfMap = s.vfMap := rfl
@[simp] theorem State.draw_out : (s.draw).out = s.out := rfl
@[simp] theorem State.draw_free : (s.draw).free = s.free + 1 := rfl

/-! ### emit -/
@[simp] theorem State.emit_pending (o : Out) : (s.emit o).pending = s.pending := rfl
@[simp] theorem State.emit_clock (o : Out) : (s.emit o).clock = s.clock := rfl
@[simp] theorem State.emit_regs (o : Out) : (s.emit o).regs = s.regs := rfl
@[simp] theorem State.emit_ctx (o : Out) : (s.emit o).ctx = s.ctx := rfl
@[simp] theorem State.emit_str (o : Out) : (s.emit o).str = s.str := rfl
@[simp] theorem State.emit_queue (o : Out) : (s.emit o).queue = s.queue := rfl
@[simp] theorem State.emit_evtSel (o : Out) : (s.emit o).evtSel = s.evtSel := rfl
@[simp] theorem State.emit_evt (o : Out) : (s.emit o).evt = s.evt := rfl
@[simp] theorem State.emit_runs (o : Out) : (s.emit o).runs = s.runs := rfl
@[simp] theorem State.emit_cells (o : Out) : (s.emit o).cells = s.cells := rfl
@[simp] theorem State.emit_phys (o : Out) : (s.emit o).phys = s.phys := rfl
@[simp] theorem State.emit_pairs (o : Out) : (s.emit o).pairs = s.pairs := rfl
@[simp] theorem State.emit_mem (o : Out) : (s.emit o).mem = s.mem := rfl
@[simp] theorem State.emit_buckets (o : Out) : (s.emit o).buckets = s.buckets := rfl
@[simp] theorem State.emit_rrStack (o : Out) : (s.emit o).rrStack = s.rrStack := rfl
@[simp] theorem State.emit_scouts (o : Out) : (s.emit o).scouts = s.scouts := rfl
@[simp] theorem State.emit_base (o : Out) : (s.emit o).base = s.base := rfl
@[simp] theorem State.emit_fab (o : Out) : (s.emit o).fab = s.fab := rfl
@[simp] theorem State.emit_fenced (o : Out) : (s.emit o).fenced = s.fenced := rfl
@[simp] theorem State.emit_mech (o : Out) : (s.emit o).mech = s.mech := rfl
@[simp] theorem State.emit_health (o : Out) : (s.emit o).health = s.health := rfl
@[simp] theorem State.emit_power (o : Out) : (s.emit o).power = s.power := rfl
@[simp] theorem State.emit_sec (o : Out) : (s.emit o).sec = s.sec := rfl
@[simp] theorem State.emit_cntBanks (o : Out) : (s.emit o).cntBanks = s.cntBanks := rfl
@[simp] theorem State.emit_cntSnap (o : Out) : (s.emit o).cntSnap = s.cntSnap := rfl
@[simp] theorem State.emit_log (o : Out) : (s.emit o).log = s.log := rfl
@[simp] theorem State.emit_boot (o : Out) : (s.emit o).boot = s.boot := rfl
@[simp] theorem State.emit_msixPend (o : Out) : (s.emit o).msixPend = s.msixPend := rfl
@[simp] theorem State.emit_vfMap (o : Out) : (s.emit o).vfMap = s.vfMap := rfl
@[simp] theorem State.emit_out (o : Out) : (s.emit o).out = o :: s.out := rfl
@[simp] theorem State.emit_free (o : Out) : (s.emit o).free = s.free := rfl

/-! ### Updates of one record -/
@[simp] theorem State.modCx_eq (c : Nat) (f : CtxRec → CtxRec) : s.modCx c f = s.setCx c (f (s.cx c)) := rfl
@[simp] theorem State.modStm_eq (n : Nat) (f : StreamRec → StreamRec) : s.modStm n f = s.setStm n (f (s.stm n)) := rfl
@[simp] theorem State.modQu_eq (c q : Nat) (f : QueueRec → QueueRec) : s.modQu c q f = s.setQu c q (f (s.qu c q)) := rfl
@[simp] theorem State.modCell_eq (c : Nat) (f : CellRec → CellRec) : s.modCell c f = s.setCell c (f (s.cell c)) := rfl
@[simp] theorem State.modPort_eq (p : Nat) (f : PortRec → PortRec) : s.modPort p f = s.modFab fun b => { b with ports := Tab.set {} b.ports p (f (s.port p)) } := rfl
@[simp] theorem State.modDp_eq (d : Nat) (f : DiePort → DiePort) : s.modDp d f = s.modBase fun b => { b with dp := Tab.set {} b.dp d (f (s.diePort d)) } := rfl
@[simp] theorem State.modSrc_eq (n : Nat) (f : SrcRec → SrcRec) : s.modSrc n f = s.modBase fun b => { b with src := Tab.set {} b.src n (f (s.source n)) } := rfl
@[simp] theorem State.wr_eq (p : Page) (rel : Nat) (v : W32) : s.wr p rel v = s.setReg (p.key rel) v := rfl
@[simp] theorem State.result_eq (p : Page) (rel st : Nat) : s.result p rel st = s.setReg (p.key rel) (BitVec.ofNat 32 st) := rfl
@[simp] theorem State.bump_eq (p : Page) (rel k : Nat) : s.bump p rel k = s.setReg (p.key rel) (satAdd 32 (s.rd p rel) k) := rfl
@[simp] theorem State.putRun_eq (r : Run) : s.putRun r = s.modRun r.id fun _ => r := rfl
@[simp] theorem State.pldm_eq (sensor value : Nat) : s.pldm sensor value = (s.emit .ibi).emit (.pldmEvent sensor value) := rfl
@[simp] theorem State.passTo_eq (t : Nat) : s.passTo t = s.elapse (t - s.clock.now) := rfl

/-! ### Time -/
@[simp] theorem State.elapse_pending (n : Nat) : (s.elapse n).pending = s.pending := rfl
@[simp] theorem State.elapse_regs (n : Nat) : (s.elapse n).regs = s.regs := rfl
@[simp] theorem State.elapse_ctx (n : Nat) : (s.elapse n).ctx = s.ctx := rfl
@[simp] theorem State.elapse_str (n : Nat) : (s.elapse n).str = s.str := rfl
@[simp] theorem State.elapse_queue (n : Nat) : (s.elapse n).queue = s.queue := rfl
@[simp] theorem State.elapse_evtSel (n : Nat) : (s.elapse n).evtSel = s.evtSel := rfl
@[simp] theorem State.elapse_evt (n : Nat) : (s.elapse n).evt = s.evt := rfl
@[simp] theorem State.elapse_runs (n : Nat) : (s.elapse n).runs = s.runs := rfl
@[simp] theorem State.elapse_cells (n : Nat) : (s.elapse n).cells = s.cells := rfl
@[simp] theorem State.elapse_phys (n : Nat) : (s.elapse n).phys = s.phys := rfl
@[simp] theorem State.elapse_pairs (n : Nat) : (s.elapse n).pairs = s.pairs := rfl
@[simp] theorem State.elapse_mem (n : Nat) : (s.elapse n).mem = s.mem := rfl
@[simp] theorem State.elapse_buckets (n : Nat) : (s.elapse n).buckets = s.buckets := rfl
@[simp] theorem State.elapse_rrStack (n : Nat) : (s.elapse n).rrStack = s.rrStack := rfl
@[simp] theorem State.elapse_scouts (n : Nat) : (s.elapse n).scouts = s.scouts := rfl
@[simp] theorem State.elapse_base (n : Nat) : (s.elapse n).base = s.base := rfl
@[simp] theorem State.elapse_fab (n : Nat) : (s.elapse n).fab = s.fab := rfl
@[simp] theorem State.elapse_fenced (n : Nat) : (s.elapse n).fenced = s.fenced := rfl
@[simp] theorem State.elapse_mech (n : Nat) : (s.elapse n).mech = s.mech := rfl
@[simp] theorem State.elapse_health (n : Nat) : (s.elapse n).health = s.health := rfl
@[simp] theorem State.elapse_power (n : Nat) : (s.elapse n).power = s.power := rfl
@[simp] theorem State.elapse_sec (n : Nat) : (s.elapse n).sec = s.sec := rfl
@[simp] theorem State.elapse_cntSnap (n : Nat) : (s.elapse n).cntSnap = s.cntSnap := rfl
@[simp] theorem State.elapse_log (n : Nat) : (s.elapse n).log = s.log := rfl
@[simp] theorem State.elapse_boot (n : Nat) : (s.elapse n).boot = s.boot := rfl
@[simp] theorem State.elapse_msixPend (n : Nat) : (s.elapse n).msixPend = s.msixPend := rfl
@[simp] theorem State.elapse_vfMap (n : Nat) : (s.elapse n).vfMap = s.vfMap := rfl
@[simp] theorem State.elapse_out (n : Nat) : (s.elapse n).out = s.out := rfl
@[simp] theorem State.elapse_free (n : Nat) : (s.elapse n).free = s.free := rfl
@[simp] theorem State.elapse_now (n : Nat) : (s.elapse n).clock.now = s.clock.now + n := rfl
@[simp] theorem State.elapse_epoch (n : Nat) : (s.elapse n).clock.epoch = s.clock.epoch := rfl

end Sys2Proof.Machine
end

