-- ==== Sys2Proof/Laws/Ops.lean ====
section
/-! SUPPORT. What each shared operation can do, said once: the guards of the rows, interrupts and errors, the log, time, running
commands, outputs. A proof about a command cites these and unfolds none of the operations. -/

namespace Sys2Proof.Machine
open Host

/-! ### The guards of the rows -/

/-- A write to a page acts where the page can be used, and does nothing elsewhere. -/
theorem State.onPage_cases (s : State) (p : Page) (f : State → State) :
    (s.pageUse p = true ∧ s.onPage p f = f s) ∨ (s.pageUse p = false ∧ s.onPage p f = s) := by
  cases h : s.pageUse p
  · exact .inr ⟨rfl, by unfold State.onPage; rw [h]; rfl⟩
  · exact .inl ⟨rfl, by unfold State.onPage; rw [h]; rfl⟩

theorem State.onPage_of_use {s : State} {p : Page} {f : State → State} (h : s.pageUse p = true) : s.onPage p f = f s := by
  unfold State.onPage; rw [h]; rfl

theorem State.onPage_of_not {s : State} {p : Page} {f : State → State} (h : s.pageUse p = false) : s.onPage p f = s := by
  unfold State.onPage; rw [h]; rfl

/-- A write to a doorbell page acts on the context that the page reaches, and does nothing where it reaches none. -/
theorem State.onDb_cases (s : State) (fn page : Nat) (f : Nat → State → State) :
    (∃ c, s.dbCtx fn page = some c ∧ s.dbOpen = true ∧ s.onDb fn page f = f c s) ∨
    ((s.dbCtx fn page = none ∨ s.dbOpen = false) ∧ s.onDb fn page f = s) := by
  unfold State.onDb
  cases hc : s.dbCtx fn page with
  | none => exact .inr ⟨.inl rfl, rfl⟩
  | some c =>
    cases ho : s.dbOpen
    · exact .inr ⟨.inr rfl, rfl⟩
    · exact .inl ⟨c, rfl, rfl, rfl⟩

theorem State.onDb_of {s : State} {fn page c : Nat} {f : Nat → State → State} (hc : s.dbCtx fn page = some c) (ho : s.dbOpen = true) :
    s.onDb fn page f = f c s := by
  unfold State.onDb; rw [hc]; simp [ho]

/-- A row of an engine acts on a running command of the right opcode whose work has not ended. -/
theorem State.onRun_cases (s : State) (id : CmdId) (p : List W32 → Bool) (f : Run → State) :
    (∃ r, s.run? id = some r ∧ r.res = none ∧ p r.words = true ∧ s.onRun id p f = f r) ∨
    ((∀ r, s.run? id = some r → r.res ≠ none ∨ p r.words = false) ∧ s.onRun id p f = s) := by
  unfold State.onRun
  cases hr : s.run? id with
  | none => exact .inr ⟨fun r h => (by cases h), rfl⟩
  | some r =>
    cases hp : r.res with
    | some x => exact .inr ⟨fun q h => (by cases h; exact .inl (by simp [hp])), by simp [hp]⟩
    | none =>
      cases hw : p r.words
      · exact .inr ⟨fun q h => (by cases h; exact .inr hw), by simp [hw]⟩
      · exact .inl ⟨r, rfl, hp, hw, by simp [hp, hw]⟩

theorem State.onRun_of {s : State} {id : CmdId} {r : Run} {p : List W32 → Bool} {f : Run → State} (hr : s.run? id = some r)
    (hn : r.res = none) (hp : p r.words = true) : s.onRun id p f = f r := by
  unfold State.onRun; rw [hr]; simp [hn, hp]

/-- A row of a hub command acts once its banks are there. -/
theorem State.onHub_of {s : State} {id : CmdId} {r : Run} {p : List W32 → Bool} {f : Run → State} (hr : s.run? id = some r)
    (hn : r.res = none) (hp : p r.words = true) (hb : s.bankWait r = false) : s.onHub id p f = f r := by
  unfold State.onHub; rw [State.onRun_of hr hn hp]; simp [hb]

/-! ### Interrupts and errors: registers, outputs and pending MSI-X vectors only -/

/-- An MSI-X message leaves, or is pending while its function is masked. -/
theorem State.sendMsix_frame (s : State) (fn v : Nat) :
    s.sendMsix fn v = { s with out := (s.sendMsix fn v).out, msixPend := (s.sendMsix fn v).msixPend } := by
  unfold State.sendMsix
  split <;> rfl

/-- A message of a function that is not masked leaves. -/
theorem State.sendMsix_open {s : State} {fn : Nat} (h : s.boot.msixMask.contains fn = false) (v : Nat) : s.sendMsix fn v = s.emit (.msix fn v) := by
  unfold State.sendMsix; rw [h]; rfl

/-- An interrupt changes registers, outputs and pending vectors only. -/
theorem State.irqSet_frame (s : State) (p : Page) (b : Nat) :
    s.irqSet p b = { s with regs := (s.irqSet p b).regs, out := (s.irqSet p b).out,
                            msixPend := (s.irqSet p b).msixPend } := by
  by_cases h1 : bit (s.rd p 0x18) b = true
  · have h : s.irqSet p b = s := by simp only [State.irqSet, h1, if_true]
    rw [h]
  · by_cases h2 : bit ((s.wr p 0x18 (s.rd p 0x18 ||| BitVec.ofNat 32 (2 ^ b))).rd p 0x1C) b = true
    · have h : s.irqSet p b = (s.wr p 0x18 (s.rd p 0x18 ||| BitVec.ofNat 32 (2 ^ b))).sendMsix 0
          (fld ((s.wr p 0x18 (s.rd p 0x18 ||| BitVec.ofNat 32 (2 ^ b))).rd p 0x30) 11 0) := by
        simp only [State.irqSet, h1, h2, if_true, if_false, Bool.false_eq_true]
      rw [h, State.sendMsix_frame]; rfl
    · have h : s.irqSet p b = s.wr p 0x18 (s.rd p 0x18 ||| BitVec.ofNat 32 (2 ^ b)) := by
        simp only [State.irqSet, h1, h2, if_false, Bool.false_eq_true]
      rw [h]; rfl

/-- An event raises its block's interrupt. -/
theorem State.event_frame (s : State) (p : Page) :
    s.event p = { s with regs := (s.event p).regs, out := (s.event p).out, msixPend := (s.event p).msixPend } :=
  s.irqSet_frame p 1

/-- An error bit changes registers, outputs and pending vectors only. -/
theorem State.errSet_frame (s : State) (p : Page) (b : Nat) :
    s.errSet p b = { s with regs := (s.errSet p b).regs, out := (s.errSet p b).out,
                            msixPend := (s.errSet p b).msixPend } := by
  by_cases h1 : bit (s.rd p 0x20) b = true
  · have h : s.errSet p b = s := by simp only [State.errSet, h1, if_true]
    rw [h]
  · by_cases h2 : bit ((s.wr p 0x20 (s.rd p 0x20 ||| BitVec.ofNat 32 (2 ^ b))).rd p 0x24) b = true
    · have h : s.errSet p b = s.wr p 0x20 (s.rd p 0x20 ||| BitVec.ofNat 32 (2 ^ b)) := by
        simp only [State.errSet, h1, h2, if_true, if_false, Bool.false_eq_true]
      rw [h]; rfl
    · have h : s.errSet p b = (s.wr p 0x20 (s.rd p 0x20 ||| BitVec.ofNat 32 (2 ^ b))).irqSet p 0 := by
        simp only [State.errSet, h1, h2, if_false, Bool.false_eq_true]
      rw [h, State.irqSet_frame]; rfl

/-- An interrupt status bit that is raised reads as 1. -/
theorem State.irqSet_already {s : State} {p : Page} {b : Nat} (h : bit (s.rd p 0x18) b = true) : s.irqSet p b = s := by
  simp only [State.irqSet, h, if_true]

/-- A context's error is kept in its `CTX_ERR` and raised in the context block; nothing else changes. -/
theorem State.ctxErr_frame (s : State) (c b : Nat) :
    s.ctxErr c b = { s with ctx := (s.modCx c fun r => { r with err := r.err ||| BitVec.ofNat 32 (2 ^ b) }).ctx,
                            regs := (s.ctxErr c b).regs, out := (s.ctxErr c b).out,
                            msixPend := (s.ctxErr c b).msixPend } := by
  unfold State.ctxErr
  rw [State.errSet_frame]; rfl

/-- A change of readiness changes registers, outputs and pending vectors only. -/
theorem State.noteReady_frame (s old : State) :
    s.noteReady old = { s with regs := (s.noteReady old).regs, out := (s.noteReady old).out,
                               msixPend := (s.noteReady old).msixPend } := by
  unfold State.noteReady
  have key : ∀ (l : List Page) (t : State), t = { s with regs := t.regs, out := t.out, msixPend := t.msixPend } →
      l.foldl (fun t p => if old.blkReady p = s.blkReady p then t else t.irqSet p 2) t =
        { s with regs := (l.foldl (fun t p => if old.blkReady p = s.blkReady p then t else t.irqSet p 2) t).regs,
                 out := (l.foldl (fun t p => if old.blkReady p = s.blkReady p then t else t.irqSet p 2) t).out,
                 msixPend := (l.foldl (fun t p => if old.blkReady p = s.blkReady p then t else t.irqSet p 2) t).msixPend } := by
    intro l
    induction l with
    | nil => intro t h; exact h
    | cons p l ih =>
      intro t h
      refine ih _ ?_
      dsimp only
      split
      · exact h
      · rw [State.irqSet_frame, h]
  exact key pages s rfl

/-- Nothing whose readiness is the same is reported. -/
theorem State.noteReady_same {s old : State} (h : ∀ p ∈ pages, old.blkReady p = s.blkReady p) : s.noteReady old = s := by
  unfold State.noteReady
  have key : ∀ (l : List Page), (∀ p ∈ l, old.blkReady p = s.blkReady p) →
      l.foldl (fun t p => if old.blkReady p = s.blkReady p then t else t.irqSet p 2) s = s := by
    intro l
    induction l with
    | nil => intro _; rfl
    | cons p l ih =>
      intro hl
      rw [List.foldl_cons, if_pos (hl p (List.mem_cons_self ..))]
      exact ih fun q hq => hl q (List.mem_cons_of_mem _ hq)
  exact key pages h

/-- A stored register changes registers, outputs and pending vectors only. -/
theorem State.storeReg_frame (s : State) (p : Page) (rel : Nat) (v : W32) :
    s.storeReg p rel v = { s with regs := (s.storeReg p rel v).regs, out := (s.storeReg p rel v).out,
                                  msixPend := (s.storeReg p rel v).msixPend } := by
  by_cases h2 : (applyFields s.boot.locked (p.fields rel) (s.rd p rel) v).2 = true
  · have h : s.storeReg p rel v = (s.wr p rel (applyFields s.boot.locked (p.fields rel) (s.rd p rel) v).1).errSet pgDevice 1 := by
      simp only [State.storeReg, h2, if_true]
    rw [h, State.errSet_frame]; rfl
  · have h : s.storeReg p rel v = s.wr p rel (applyFields s.boot.locked (p.fields rel) (s.rd p rel) v).1 := by
      simp only [State.storeReg, h2, if_false, Bool.false_eq_true]
    rw [h]; rfl

/-! ### The endpoint's reports: outputs only -/

/-- A report changes outputs only. -/
theorem State.notify_frame (s old : State) : s.notify old = { s with out := (s.notify old).out } := by
  unfold State.notify
  dsimp only
  have step : ∀ (t : State) (sensor a b : Nat), t = { s with out := t.out } →
      (if a = b then t else t.pldm sensor b) = { s with out := (if a = b then t else t.pldm sensor b).out } := by
    intro t sensor a b h
    split
    · exact h
    · rw [h]; rfl
  have key : ∀ (l : List Nat) (t : State), t = { s with out := t.out } →
      l.foldl (fun (t : State) u => if s.unitState u = 1 then t
        else if old.unitState u = s.unitState u then t else t.pldm (0x100 + u) (s.unitState u)) t =
      { s with out := (l.foldl (fun (t : State) u => if s.unitState u = 1 then t
        else if old.unitState u = s.unitState u then t else t.pldm (0x100 + u) (s.unitState u)) t).out } := by
    intro l
    induction l with
    | nil => intro t h; exact h
    | cons u l ih =>
      intro t h
      refine ih _ ?_
      dsimp only
      split
      · exact h
      · exact step t _ _ _ h
  exact key unitCodes _ (step _ _ _ _ (step s _ _ _ rfl))

/-- A state that reports the same states as before reports nothing. -/
theorem State.notify_same {s old : State} (h0 : old.safeState = s.safeState) (h1 : old.power.supply = s.power.supply)
    (hu : ∀ u ∈ unitCodes, old.unitState u = s.unitState u) : s.notify old = s := by
  unfold State.notify
  dsimp only
  rw [h0, h1]
  simp only [if_true]
  have key : ∀ (l : List Nat), (∀ u ∈ l, old.unitState u = s.unitState u) →
      l.foldl (fun (t : State) u => if s.unitState u = 1 then t
        else if old.unitState u = s.unitState u then t else t.pldm (0x100 + u) (s.unitState u)) s = s := by
    intro l
    induction l with
    | nil => intro _; rfl
    | cons u l ih =>
      intro hl
      rw [List.foldl_cons, if_pos (hl u (List.mem_cons_self ..)), ite_self]
      exact ih fun v hv => hl v (List.mem_cons_of_mem _ hv)
  exact key unitCodes hu

/-- A state reports nothing against itself. -/
@[simp] theorem State.notify_self (s : State) : s.notify s = s := State.notify_same rfl rfl fun _ _ => rfl

/-! ### The log, persistent writes, time -/

/-- An event for the life log waits there, or is lost where 1,024 wait; nothing else changes. -/
theorem State.logEvent_frame (s : State) (type : Byte) (u d0 d1 : Nat) :
    s.logEvent type u d0 d1 = { s with log := { s.log with wait := (s.logEvent type u d0 d1).log.wait, lost := (s.logEvent type u d0 d1).log.lost } } := by
  unfold State.logEvent
  split
  · rfl
  · split <;> rfl

/-- A request for a persistent write joins the waiting ones; a flush waits at most once. -/
theorem State.askWrite_cases (s : State) (w : PWrite) :
    (w = .flush ∧ PWrite.flush ∈ s.power.writes ∧ s.askWrite w = s) ∨
    ((w ≠ .flush ∨ PWrite.flush ∉ s.power.writes) ∧ s.askWrite w = s.modPower fun p => { p with writes := p.writes ++ [w] }) := by
  unfold State.askWrite
  by_cases h : w = .flush ∧ PWrite.flush ∈ s.power.writes
  · exact .inl ⟨h.1, h.2, by simp [h.1, h.2]⟩
  · refine .inr ⟨?_, ?_⟩
    · by_cases hw : w = .flush
      · exact .inr fun hm => h ⟨hw, hm⟩
      · exact .inl hw
    · rw [if_neg]; simpa using fun hw hm => h ⟨hw, hm⟩

/-- Time that passes moves the clock and the counting banks only. -/
theorem State.elapse_frame (s : State) (n : Nat) :
    s.elapse n = { s with clock := { s.clock with now := s.clock.now + n }, cntBanks := (s.elapse n).cntBanks } := rfl

/-- The clock is brought to a time, unless it is later already. -/
theorem State.passTo_now (s : State) (t : Nat) : (s.passTo t).clock.now = max s.clock.now t := by
  change s.clock.now + (t - s.clock.now) = _
  omega

theorem State.passTo_frame (s : State) (t : Nat) :
    s.passTo t = { s with clock := { s.clock with now := max s.clock.now t }, cntBanks := (s.passTo t).cntBanks } := by
  have h : s.clock.now + (t - s.clock.now) = max s.clock.now t := by omega
  unfold State.passTo
  rw [State.elapse_frame, h]

/-! ### Running commands -/

/-- A command that is changed under its name is found changed. -/
theorem State.run?_modRun {s : State} {id : CmdId} {r : Run} {f : Run → Run} (h : s.run? id = some r) (hf : ∀ x, x.id = id → (f x).id = id) :
    (s.modRun id f).run? id = some (f r) := by
  change s.runs.find? (fun r => decide (r.id = id)) = some r at h
  change (s.runs.map fun r => if r.id = id then f r else r).find? (fun r => decide (r.id = id)) = some (f r)
  revert h
  generalize s.runs = l
  intro h
  induction l with
  | nil => cases h
  | cons x l ih =>
    rw [List.map_cons]
    by_cases hx : x.id = id
    · rw [List.find?_cons_of_pos (by simp [hx])] at h
      cases h
      rw [if_pos hx, List.find?_cons_of_pos (by simp [hf _ hx])]
    · rw [List.find?_cons_of_neg (by simp [hx])] at h
      rw [if_neg hx, List.find?_cons_of_neg (by simp [hx])]
      exact ih h

/-- A command whose work ends holds its status, once. -/
theorem State.run?_endRun {s : State} {id : CmdId} {r : Run} {st : Byte} {d : W32} (h : s.run? id = some r) (hn : r.res = none)
    (hs : st ≠ St.notYet) : (s.endRun id st d).run? id = some { r with res := some (st, d), begun := true } := by
  unfold State.endRun
  rw [State.run?_modRun h]
  · simp [hn, hs]
  · intro x hx; split <;> exact hx

/-- The end of a command's work changes the running commands only. -/
theorem State.endRun_frame (s : State) (id : CmdId) (st : Byte) (d : W32) : s.endRun id st d = { s with runs := (s.endRun id st d).runs } := rfl

/-- Another command is found as it was. -/
theorem State.run?_modRun_other {s : State} {id j : CmdId} {f : Run → Run} (hj : j ≠ id) (hf : ∀ x, x.id = id → (f x).id = id) :
    (s.modRun id f).run? j = s.run? j := by
  change (s.runs.map fun r => if r.id = id then f r else r).find? (fun r => decide (r.id = j)) = s.runs.find? (fun r => decide (r.id = j))
  generalize s.runs = l
  induction l with
  | nil => rfl
  | cons x l ih =>
    rw [List.map_cons]
    by_cases hx : x.id = id
    · rw [if_pos hx, List.find?_cons_of_neg (by simp [hf x hx, Ne.symm hj]), List.find?_cons_of_neg (by simp [hx, Ne.symm hj]), ih]
    · rw [if_neg hx]
      by_cases hxj : x.id = j
      · rw [List.find?_cons_of_pos (by simp [hxj]), List.find?_cons_of_pos (by simp [hxj])]
      · rw [List.find?_cons_of_neg (by simp [hxj]), List.find?_cons_of_neg (by simp [hxj]), ih]

/-! ### The step -/

/-- The step runs the front command with the queue's rest. -/
theorem step_cons {c : Instr} {rest : List Instr} {s : State} (h : s.pending = c :: rest) : step s = exec c { s with pending := rest } := by
  unfold step; rw [h]

end Sys2Proof.Machine
end

