-- ==== Sys2Proof/Laws/Rising.lean ====
section
/-! SUPPORT. Tables whose keys rise: every operation on a table keeps them rising, and reads back what it wrote. -/

namespace Sys2Proof.Machine

theorem Tab.rising_iff {α : Type} (t : Tab α) : Tab.rising t = true ↔ t.Pairwise fun a b => a.1 < b.1 := by
  unfold Tab.rising; exact decide_eq_true_iff

theorem Tab.rising_nil {α : Type} : Tab.rising ([] : Tab α) = true := rfl

theorem Tab.rising_cons {α : Type} (p : Nat × α) (t : Tab α) :
    Tab.rising (p :: t) = true ↔ (∀ q ∈ t, p.1 < q.1) ∧ Tab.rising t = true := by
  rw [Tab.rising_iff, Tab.rising_iff, List.pairwise_cons]

theorem Tab.rising_filter {α : Type} {t : Tab α} (f : Nat × α → Bool) (h : Tab.rising t = true) : Tab.rising (t.filter f : Tab α) = true := by
  rw [Tab.rising_iff] at h ⊢; exact h.filter f

theorem Tab.rising_clear {α : Type} {t : Tab α} (lo hi : Nat) (h : Tab.rising t = true) : Tab.rising (t.clear lo hi) = true :=
  Tab.rising_filter _ h

/-- A change of values under the same keys keeps the table rising. -/
theorem Tab.rising_map {α : Type} {t : Tab α} (f : Nat × α → Nat × α) (hf : ∀ p, (f p).1 = p.1) (h : Tab.rising t = true) :
    Tab.rising (t.map f : Tab α) = true := by
  rw [Tab.rising_iff] at h ⊢
  rw [List.pairwise_map]
  exact h.imp fun {a b} hab => by rw [hf a, hf b]; exact hab

theorem Tab.rising_set {α : Type} [DecidableEq α] {d : α} {t : Tab α} (k : Nat) (v : α) (h : Tab.rising t = true) :
    Tab.rising (Tab.set d t k v) = true := by
  induction t with
  | nil => unfold Tab.set; split <;> rfl
  | cons p t ih =>
    obtain ⟨j, w⟩ := p
    obtain ⟨hj, ht⟩ := (Tab.rising_cons _ _).mp h
    unfold Tab.set
    by_cases hk : j = k
    · rw [if_pos hk]
      split
      · exact ht
      · exact (Tab.rising_cons _ _).mpr ⟨fun q hq => hk ▸ hj q hq, ht⟩
    · rw [if_neg hk]
      by_cases hlt : k < j
      · rw [if_pos hlt]
        split
        · exact h
        · refine (Tab.rising_cons _ _).mpr ⟨fun q hq => ?_, h⟩
          rcases List.mem_cons.mp hq with rfl | hq
          · exact hlt
          · exact Nat.lt_trans hlt (hj q hq)
      · rw [if_neg hlt]
        refine (Tab.rising_cons _ _).mpr ⟨fun q hq => ?_, ih ht⟩
        rcases Tab.mem_set hq with hq | hq
        · exact hj q hq
        · rw [hq]; exact Nat.lt_of_le_of_ne (Nat.le_of_not_lt hlt) hk

/-- What was written under a key is read back. -/
theorem Tab.get_set_rising {α : Type} [DecidableEq α] {d : α} {t : Tab α} (k : Nat) (v : α) (h : Tab.rising t = true) :
    Tab.get d (Tab.set d t k v) k = v := by
  induction t with
  | nil =>
    unfold Tab.set; split
    · rename_i hv; rw [hv]; rfl
    · simp [Tab.get]
  | cons p t ih =>
    obtain ⟨j, w⟩ := p
    obtain ⟨hj, ht⟩ := (Tab.rising_cons _ _).mp h
    unfold Tab.set
    by_cases hk : j = k
    · rw [if_pos hk]
      split
      · rename_i hv; rw [hv]; exact Tab.get_of_lt fun q hq => hk ▸ hj q hq
      · simp [Tab.get]
    · rw [if_neg hk]
      by_cases hlt : k < j
      · rw [if_pos hlt]
        split
        · rename_i hv; rw [hv]; simp [Tab.get, hk, hlt]
        · simp [Tab.get]
      · rw [if_neg hlt]; simp [Tab.get, hk, hlt, ih ht]

/-- Any other key reads as before. -/
theorem Tab.get_set_rising_other {α : Type} [DecidableEq α] {d : α} {t : Tab α} {k j : Nat} (v : α) (h : Tab.rising t = true) (hj : j ≠ k) :
    Tab.get d (Tab.set d t k v) j = Tab.get d t j := by
  induction t with
  | nil =>
    unfold Tab.set; split
    · rfl
    · simp [Tab.get, Ne.symm hj]
  | cons p t ih =>
    obtain ⟨i, w⟩ := p
    obtain ⟨hi, ht⟩ := (Tab.rising_cons _ _).mp h
    unfold Tab.set
    by_cases hk : i = k
    · rw [if_pos hk]
      by_cases hlt : j < i
      · have h1 : Tab.get d ((i, w) :: t) j = d := by simp [Tab.get, hlt, Nat.ne_of_gt hlt]
        rw [h1]
        split
        · exact Tab.get_of_lt fun q hq => Nat.lt_trans hlt (hi q hq)
        · simp [Tab.get, Ne.symm hj, hk ▸ hlt]
      · have h1 : Tab.get d ((i, w) :: t) j = Tab.get d t j := by simp [Tab.get, hk, Ne.symm hj, hk ▸ hlt]
        rw [h1]
        split
        · rfl
        · simp [Tab.get, Ne.symm hj, hk ▸ hlt]
    · rw [if_neg hk]
      by_cases hlt : k < i
      · rw [if_pos hlt]
        split
        · rfl
        · by_cases hjk : j < k
          · simp [Tab.get, Ne.symm hj, hjk, Nat.lt_trans hjk hlt, Nat.ne_of_gt (Nat.lt_trans hjk hlt)]
          · simp [Tab.get, Ne.symm hj, hjk]
      · rw [if_neg hlt]; simp [Tab.get, ih ht]

end Sys2Proof.Machine
end

