-- ==== Sys2Proof/Laws/Sensors.lean ====
section
/-! SUPPORT. What the sensors' cross-check leaves in the table of sensors, said once. -/

namespace Sys2Proof.Machine
open Host

@[simp] theorem State.notePeak_sensors (s : State) (x : Nat) : (s.notePeak x).power.sensors = s.power.sensors := rfl
@[simp] theorem State.noteCool_sensors (s : State) : s.noteCool.power.sensors = s.power.sensors := rfl
@[simp] theorem State.layerLost_sensors (s : State) (c : Nat) : (s.layerLost c).power.sensors = s.power.sensors := by
  unfold State.layerLost
  split
  · show (s.errSet (pgComb c) 1).power.sensors = _
    rw [State.errSet_frame]
  · rfl

/-- A request for a write changes only what waits to be written. -/
theorem State.askWrite_frame (s : State) (w : PWrite) : s.askWrite w = s.modPower fun p => { p with writes := (s.askWrite w).power.writes } := by
  unfold State.askWrite
  split <;> rfl

/-- A reset other than a full one keeps the sensors; no hard repair may be running, whose end would come first. -/
theorem State.resetNow_sensors {s : State} {cause : Nat} (hc : cause ≠ 1) (hr : ∀ row go, s.power.running ≠ some (.hard row go)) :
    (s.resetNow cause).power.sensors = s.power.sensors := by
  have hf : decide (cause = 1) = false := decide_eq_false hc
  show (State.afterReset s cause).power.sensors = _
  unfold State.afterReset
  simp only [hf]
  split
  · rename_i w hw
    cases w with
    | hard row go => exact absurd hw (hr row go)
    | _ => rfl
  · rfl

/-- What the endpoint reports leaves the power state. -/
@[simp] theorem State.notify_power (s old : State) : (s.notify old).power = s.power := by
  rw [State.notify_frame]

/-- An event that is logged leaves the power state. -/
@[simp] theorem State.logEvent_power (s : State) (type : Byte) (u d0 d1 : Nat) : (s.logEvent type u d0 d1).power = s.power := by
  rw [State.logEvent_frame]

/-- A trip keeps the readings: the sensors work with the rails off. -/
@[simp] theorem State.trip_sensors (s : State) (x : Nat) : (s.trip x).power.sensors = s.power.sensors := by
  unfold State.trip
  split
  · rfl
  · simp only
    rw [State.askWrite_frame]
    split
    · refine (State.resetNow_sensors (cause := 5) (by decide) fun row go => ?_).trans ?_
      · rw [State.logEvent_power]; exact fun h => nomatch h
      · rw [State.logEvent_power]; rfl
    · rename_i hn
      refine (State.resetNow_sensors (cause := 5) (by decide) fun row go => ?_).trans ?_
      · rw [State.logEvent_power]; exact hn row go
      · rw [State.logEvent_power]

theorem State.trip_tripped (s : State) (x : Nat) : (s.trip x).power.tripped = true := by
  unfold State.trip
  split
  · assumption
  · simp only
    rw [State.askWrite_frame]; rfl

/-- A fold that leaves the sensors at each step leaves them. -/
theorem State.foldl_sensors {α : Type} (f : State → α → State) (hf : ∀ s a, (f s a).power.sensors = s.power.sensors) (l : List α) (s : State) :
    (l.foldl f s).power.sensors = s.power.sensors := by
  induction l generalizing s with
  | nil => rfl
  | cons a l ih => exact (ih _).trans (hf s a)

/-- Sensors changed one after another, each once, each from its own value. -/
theorem State.foldl_modSensor (g : Nat → Sensor → Sensor) (l : List Nat) (hl : l.Nodup) (s : State)
    (hs : Tab.rising s.power.sensors = true) :
    let t := l.foldl (fun (t : State) x => t.modSensor x (g x)) s
    Tab.rising t.power.sensors = true ∧ ∀ x, t.sensor x = if x ∈ l then g x (s.sensor x) else s.sensor x := by
  induction l generalizing s with
  | nil => exact ⟨hs, fun x => rfl⟩
  | cons a l ih =>
    obtain ⟨ha, hl⟩ := List.nodup_cons.mp hl
    obtain ⟨h1, h2⟩ := ih hl (s.modSensor a (g a)) (Tab.rising_set _ _ hs)
    refine ⟨h1, fun x => (h2 x).trans ?_⟩
    by_cases hx : x = a
    · subst hx
      simp only [ha, if_false, List.mem_cons, true_or, if_true]
      exact Tab.get_set_rising _ _ hs
    · have ho : (s.modSensor a (g a)).sensor x = s.sensor x := Tab.get_set_rising_other _ hs hx
      simp only [ho, List.mem_cons, hx, false_or]

/-- What trips keeps the sensors. -/
@[simp] theorem State.tripFirst_sensors (s : State) : s.tripFirst.power.sensors = s.power.sensors := by
  unfold State.tripFirst
  split <;> simp

/-- The sensors after the readings: one without an estimate has its reading, a comb's its reading, estimate and stamps. -/
theorem State.readSensors_sensor (s : State) (rs : List Int) (power : List Nat) (hs : Tab.rising s.power.sensors = true) (x : Nat) (hx : x < 404) :
    let u := (List.range 404).foldl (fun (u : State) x => u.modSensor x fun r => { r with reading := rs.getD x 0 }) s
    (s.readSensors rs power).sensor x = if x < 320 then u.checkSensor power x else { s.sensor x with reading := rs.getD x 0 } := by
  intro u
  obtain ⟨hu, hur⟩ := State.foldl_modSensor (fun x r => { r with reading := rs.getD x 0 }) (List.range 404) List.nodup_range s hs
  let new := (List.range 320).map fun x => u.checkSensor power x
  obtain ⟨_, hvr⟩ := State.foldl_modSensor (fun x _ => new.getD x {}) (List.range 320) List.nodup_range u hu
  have key : (s.readSensors rs power).power.sensors =
      ((List.range 320).foldl (fun (s : State) x => s.modSensor x fun _ => new.getD x {}) u).power.sensors := by
    unfold State.readSensors
    simp only [State.noteCool_sensors]
    rw [State.foldl_sensors _ State.layerLost_sensors, State.foldl_sensors _ State.notePeak_sensors]
  have hk : (s.readSensors rs power).sensor x = ((List.range 320).foldl (fun (s : State) x => s.modSensor x fun _ => new.getD x {}) u).sensor x := by
    unfold State.sensor; rw [key]
  rw [hk, hvr x]
  by_cases h : x < 320
  · simp only [List.mem_range, h, if_true, new]
    rw [List.getD_eq_getElem?_getD, List.getElem?_map, List.getElem?_range h]
    rfl
  · simp only [List.mem_range, h, if_false]
    exact (hur x).trans (by simp [hx])

/-- A sensor after a cross-check: as the readings leave it. -/
theorem State.crossCheck_sensor (s : State) (rs : List Int) (power : List Nat) (x : Nat) :
    (s.crossCheck rs power).sensor x = (s.readSensors rs power).sensor x := by
  unfold State.crossCheck State.sensor; rw [State.tripFirst_sensors]

/-- With some control value at shut-down the part is tripped; with none nothing happens. -/
theorem State.tripFirst_cases (s : State) :
    ((∃ x < 404, thr (sensorDom x) 4 ≤ s.control x) ∧ s.tripFirst.power.tripped = true) ∨
    ((∀ x < 404, s.control x < thr (sensorDom x) 4) ∧ s.tripFirst = s) := by
  unfold State.tripFirst
  cases hf : (List.range 404).find? fun x => s.control x ≥ thr (sensorDom x) 4 with
  | some x =>
    exact .inl ⟨⟨x, List.mem_range.mp (List.mem_of_find?_eq_some hf), 
      of_decide_eq_true (List.find?_some (p := fun x => decide (s.control x ≥ thr (sensorDom x) 4)) hf)⟩, State.trip_tripped _ _⟩
  | none =>
    refine .inr ⟨fun x hx => ?_, rfl⟩
    have := List.find?_eq_none.mp hf x (List.mem_range.mpr hx)
    exact Int.not_le.mp fun h => this (decide_eq_true h)

end Sys2Proof.Machine
end

