-- ==== Sys2Proof/Tests/Slice0.lean ====
section
/-! SUPPORT. The model's own tests: ill-formed commands that the check refuses, for each statement of
Certificates/Slice0/Obligations.lean with hypotheses concrete states that meet them (`witness_<statement>`, one conjunct for a
clause), and commands on small states with the values that the manual gives (`test_<what>`). A premise about an
uninterpreted function of Config (a wrapped key that unwraps, a token that verifies) can be met by no concrete state: the
witness then meets the premises beside it. -/

namespace Sys2Proof.Tests
open Sys2Proof Sys2Proof.Machine Sys2Proof.Claims
set_option Elab.async false

/-! ### Ill-formed commands (one for each check) -/

theorem test_wf_flit_short : (Instr.dieFlitReceive 0 0 [0]).wf = false := by decide
theorem test_wf_chaver_flit_short : (Instr.chaverFlitReceive 0 [] true ⟨0, 0⟩).wf = false := by decide
theorem test_wf_bundle_of_hub : (Instr.dropFilterRetune 16 4).wf = false ∧ (Instr.dropFilterRetune 16 3).wf = true := by decide
theorem test_wf_masks_short : (Instr.diePortTrain 0 [] []).wf = false := by decide
theorem test_wf_access_size : (Instr.bar0BadAccess 0 0 9 true).wf = false ∧ (Instr.doorbellPageBadAccess 0 0 0 0 false).wf = false := by
  decide
theorem test_wf_bar4_empty : (Instr.bar4Read 0 0).wf = false ∧ (Instr.bar4Write 0 []).wf = false := by decide
theorem test_wf_payload_short : (Instr.mfmRequest 0 []).wf = false ∧ (Instr.mfmResponse 0 []).wf = false := by decide
theorem test_wf_report_rows : (Instr.queueReport []).wf = false := by decide
theorem test_wf_ring : (Instr.ringLockLoss (.lane 16 false 5 0)).wf = false := by decide
theorem test_wf_slew : (Instr.slewSample [1]).wf = false := by decide
theorem test_wf_sensors : (Instr.sensorCrossCheck [] []).wf = false := by decide
theorem test_wf_health : (Instr.healthScore [(273, 0)]).wf = false := by decide
theorem test_wf_pair : (Instr.twinPairRebuild 3 3 ⟨true, 0⟩ ⟨true, 0⟩).wf = false := by decide
theorem test_wf_regulator : (Instr.regulatorCycle 0 [1, 1] 1).wf = false ∧ (Instr.regulatorCycle 0 [1] 1).wf = true := by decide
theorem test_wf_comb_test : (Instr.combBist 0 ⟨0x1FFFF, []⟩).wf = false := by decide

/-! ### Small states -/

/-- A hive that runs: every die and stack is ready, the supply is in order, cell 0 has its physical cell. -/
def up : State := { (State.reset : State) with
  boot := { resetN := true, perstN := true, pwrGood := true, mgmt := true, rails := true, hub := true, hp0 := true, hp0Ended := true,
            sdReady := 0xFF, sdEnded := 0xFF, hbmUp := 0xFFFF, combEnded := 0xFF }
  power := { vinMain := 12000 }
  base := { dp := [(16, { st := .up, ended := true })], src := (List.range 8).map fun n => (n, { st := .active }) }
  cells := [(0, { phys := some 0, ready := true })] }

/-- The words of a context entry: class and key slot in word 0, five banks, four KV pages, two streams, the event counters 0
to 15, cell 0, table root 16. -/
def entry (w0 : W32) : List W32 := [w0, 0, 16, 0x10005, 4, 2, 1, 0x20, 0, 0, 1, 0, 0, 0, 0, 0]
/-- A T-class context with key slot 5, in a state. -/
def tctx (st : CtxState) : CtxRec := { st := st, ent := entry 0x40000005, rslab := 1 }
/-- `up` with context 0 in a state. -/
def upC (st : CtxState) : State := up.setCx 0 (tctx st)
/-- `upC` open, with the context's five banks on cell 0, and stream 0 open for it. -/
def work : State := { (upC .opened) with
  str := [(0, { live := true })]
  cells := [(0, { phys := some 0, ready := true, cur := some 0, res := [⟨0, [0, 1, 2, 3, 4], 0⟩] })]
  queue := [(0, { cfg := 0x80000004, st := .running })] }
/-- The name of the command with SEQ 0 of queue 0 of context 0. -/
def id0 : CmdId := ⟨0, 0, 0⟩
/-- A running command. -/
def runOf (words : List W32) : Run :=
  { id := id0, words := words, stream := none, deadline := none, cell := some 0, partner := none, start := 0, suspended := 0,
    suspEnded := false, begun := false, res := none, slot := none, inStep := false, mm := none, scout := none, coll := none, phase := 0,
    remote := [], err := none, fabSince := none, dig := none, wants := [], wantAt := none, met := false, ext := none, list := none,
    logged := false, seqPos := 0 }
/-- `work` with one running command. -/
def busy (r : Run) : State := { work with runs := [r] }
/-- A descriptor: opcode, and some words by number. -/
def desc (op : Nat) (l : List (Nat × W32)) : List W32 := l.foldl (fun w p => w.set p.1 p.2) ((BitVec.ofNat 32 (op * 2 ^ 24)) :: List.replicate 31 0)

theorem tables_up : up.tablesOk ∧ work.tablesOk := by
  unfold State.tablesOk
  decide +kernel
theorem mem_up : up.memOk ∧ work.memOk := by refine ⟨?_, ?_⟩ <;> (unfold State.memOk; decide)

/-- The command answers a next state of which the test holds. -/
def gives (c : Instr) (s : State) (f : State → Bool) : Bool := match exec c s with | .next t => f t | _ => false
/-- The access succeeds with a value. -/
def okIs {α : Type} [DecidableEq α] (x : Except Err α) (v : α) : Bool := match x with | .ok u => decide (u = v) | _ => false
/-- The access succeeds with a value of which the test holds; it fails with an error that is no wait. -/
def okOf {α : Type} (x : Except Err α) (f : α → Bool) : Bool := match x with | .ok u => f u | _ => false
def failed {α : Type} (x : Except Err α) : Bool := match x with | .error e => decide (e.1 ≠ St.notYet) | _ => false

/-! ### Every command -/

theorem witness_StepRunsTheFrontCommand : ({ up with pending := [.ctxLoad] } : State).pending = [.ctxLoad] ∧ up.pending = [] := by decide

/-! ### Contexts and streams -/

/-- `up` with the entry staged, and a key in slot 5. -/
def stage (s : State) (w0 : W32) : State := (putWords s pgCtx 0x140 (entry w0)).modSec fun x => { x with keys := [(5, some 1)] }
/-- The entry that a state stages. -/
def staged (s : State) : CtxRec := { st := .opened, ent := maskWords ctxMask s.staged, rslab := 1 }

/-- LOAD: a used index, a bad class, an S-class context before LOCK, a key in use, an empty slot, pinned banks without room. -/
theorem witness_ContextOperationsRefuseInOrder_load :
    (stage (upC .opened) 0x40000005).pageUse pgCtx = true ∧ ((stage (upC .opened) 0x40000005).cx 0).st ≠ .free ∧
    (let s := stage up 0xC0000005; (s.cx s.ctxIndex).st = .free ∧ (staged s).badField = true) ∧
    (let s := stage up 0xB0000005; (staged s).badField = false ∧ s.sRuleBroken (staged s) = false ∧ (staged s).isS = true ∧ s.boot.locked = false) ∧
    (let s := stage (up.setCx 1 (tctx .opened)) 0x40000005; (s.cx 0).st = .free ∧ s.sRuleBroken (staged s) = false ∧
      ((staged s).isS && !s.boot.locked) = false ∧ s.keyUsed 0 (staged s).keySlot = true) ∧
    (let s := stage up 0x40000006; (staged s).badField = false ∧ s.keyUsed 0 (staged s).keySlot = false ∧
      Tab.get none s.sec.keys (staged s).keySlot = none) ∧
    (let s := stage (up.setCx 1 { st := .opened, ent := [0x50000007, 0, 0, 0x10040, 0, 0, 0, 0, 0, 0, 1, 0, 0, 0, 0, 0] }) 0x50000005
     s.keyUsed 0 (staged s).keySlot = false ∧ Tab.get none s.sec.keys (staged s).keySlot ≠ none ∧ s.pinFails 0 (staged s) = true) := by
  decide +kernel

/-- UPDATE of a free context, of a fixed field, of a pinned quota without room; OPEN of a live stream, of one whose context is not
open, and past STREAMS. -/
theorem witness_ContextOperationsRefuseInOrder_rest :
    (up.cx up.ctxIndex).st = .free ∧
    (let s := stage (upC .opened) 0x40000006; let r := s.cx 0; let e := { r with ent := maskWords ctxMask s.staged }
     r.st = .opened ∧ wd e.ent 0 &&& wd ctxMask 0 &&& ~~~ wd updMask 0 ≠ wd r.ent 0 &&& wd ctxMask 0 &&& ~~~ wd updMask 0) ∧
    (let s0 := (up.setCx 0 { st := .opened, ent := entry 0x50000005 }).setCx 1
       { st := .opened, ent := [0x50000007, 0, 0, 0x1003B, 0, 0, 0, 0, 0, 0, 1, 0, 0, 0, 0, 0] }
     let s := putWords s0 pgCtx 0x140 [0x50000005, 0, 16, 0x10006, 4, 2, 1, 0x20, 0, 0, 1]
     let r := s.cx 0; let e := { r with ent := maskWords ctxMask s.staged }
     (∀ i < 16, wd e.ent i &&& wd ctxMask i &&& ~~~ wd updMask i = wd r.ent i &&& wd ctxMask i &&& ~~~ wd updMask i) ∧
       e.badField = false ∧ (e.banks < r.banks || e.kvPages < r.kvPages || e.streams < r.streams) = false ∧ e.banks > r.banks ∧
       s.pinFails 0 e = true) ∧
    (work.stm work.strIndex).live = true ∧ (work.cx 0).st = .opened ∧
    ((upC .quiesced).stm 0).live = false ∧ ((upC .quiesced).cx 0).st ≠ .opened ∧
    (let s := ((upC .opened).setStm 1 { live := true }).setStm 2 { live := true }
     (s.stm 0).live = false ∧ (s.cx 0).st = .opened ∧ (s.streamsOf 0).length ≥ (s.cx 0).streams) := by
  decide +kernel

theorem witness_ContextOperationsComplete :
    (let s := stage up 0x40000005; s.pageUse pgCtx = true ∧ (s.cx s.ctxIndex).st = .free ∧ (staged s).badField = false ∧
      s.sRuleBroken (staged s) = false ∧ (staged s).isS = false ∧ s.keyUsed 0 (staged s).keySlot = false ∧
      Tab.get none s.sec.keys (staged s).keySlot ≠ none ∧ s.pinFails 0 (staged s) = false ∧
      ((staged s).mask.any fun i => (s.cell i).phys.isSome) = true) ∧
    (let s := stage (upC .opened) 0x40000005; s.updateStatus s.ctxIndex (maskWords ctxMask s.staged) = 0) ∧
    (work.cx work.ctxIndex).st = .opened ∧ ((upC .quiescing).cx 0).st = .quiescing ∧ (upC .quiescing).runsOf 0 = [] ∧
    ((upC .quiesced).cx 0).st = .quiesced ∧ ((upC .zeroing).cx 0).st = .zeroing ∧ (up.cx 0).st = .free ∧ (upC .zeroing).pageUse pgCtx = true := by
  decide +kernel

theorem witness_TeardownCompletes : (upC .opened).pageUse pgCtx = true ∧ (upC .opened).mayTear (upC .opened).ctxIndex = true ∧
    ((upC .zeroing).cx 0).st = .zeroing ∧ ((upC .zeroing).cx 0).drained = false ∧ (upC .zeroing).runsOf 0 = [] ∧
    ((up.setCx 0 { tctx .zeroing with drained := true }).cx 0).drained = true ∧
    (up.setCx 0 { tctx .zeroing with drained := true }).starved ownPart 0 = false ∧ up.sec.dataDue = false := by
  decide +kernel

theorem witness_StreamOperationsComplete :
    ((upC .opened).stm 0).live = false ∧ ((upC .opened).cx 0).st = .opened ∧
    ((upC .opened).streamsOf 0).length < ((upC .opened).cx 0).streams ∧ fld ((upC .opened).rd pgCtx 0x1A0) 11 0 = 0 ∧
    (work.stm work.strIndex).live = true ∧ (∀ r ∈ work.runs, r.stream ≠ some work.strIndex) ∧ (work.stm work.strIndex).specOpen = 0 ∧
    (up.stm up.strIndex).live = false ∧ (work.setStm 0 { live := true, specOpen := 1 } |>.stm 0).specOpen ≠ 0 ∧
    (∃ r ∈ (busy { runOf (desc 0x10 []) with stream := some 0 }).runs, r.stream = some 0) ∧ (State.reset : State).pageUse pgCtx = false := by
  decide +kernel

/-! ### Queues, doorbells, event counters -/

/-- Nothing to do, too much, a stream that is not open, an accepted doorbell at the ring's size. -/
theorem witness_DoorbellMovesTheTail :
    work.dbCtx 0 0 = some 0 ∧ work.dbOpen = true ∧ work.service = true ∧ work.hasQueue 0 0 = true ∧ (work.cx 0).st = .opened ∧
    (work.qu 0 0).st ≠ .disabled ∧ (work.qu 0 0).st ≠ .draining ∧ (work.cx 0).isB = false ∧
    sub32 0 (work.qu 0 0).tail = 0 ∧ sub32 0x80000000 (work.qu 0 0).tail ≥ 2 ^ 31 ∧
    sub32 17 (work.qu 0 0).tail < 2 ^ 31 ∧ sub32 17 (work.qu 0 0).cqHead > 2 ^ fld (work.qu 0 0).cfg 4 0 ∧
    sub32 16 (work.qu 0 0).cqHead ≤ 2 ^ fld (work.qu 0 0).cfg 4 0 ∧ (work.stm 1).live = false ∧
    (work.stm 0).live = true ∧ (work.stm 0).ctx = 0 ∧ (0x400000000010 : W64).getLsbD 46 = true ∧
    (0x400000000010 : W64).toNat / 2 ^ 32 % 2 ^ 14 = 0 ∧ (0x400000000010 : W64).toNat / 2 ^ 47 = 0 := by
  decide +kernel

/-- R53: a doorbell with TAIL = 16 on a ring of 16 is taken; one with TAIL = 17 sets DOORBELL_DROP. -/
theorem test_doorbell_ring_size :
    gives (.doorbell 0 0 0 0x400000000010) work (fun t => (t.qu 0 0).tail = 16 ∧ bit (t.cx 0).err 0 = false) = true ∧
    gives (.doorbell 0 0 0 0x400000000011) work (fun t => (t.qu 0 0).tail = 0 ∧ bit (t.cx 0).err 0 = true) = true := by
  decide +kernel

theorem witness_DoorbellPageRefusesBadAccesses :
    work.dbCtx 0 0 = some 0 ∧ work.dbOpen = true ∧ (2 ^ 47 : Nat) / 2 ^ 47 ≠ 0 ∧ work.hasQueue 0 0 = true ∧ ((upC .quiesced).cx 0).st ≠ .opened ∧
    (upC .quiesced).hasQueue 0 0 = true ∧ (0x1F < 0x20 ∧ 0x1C % 4 = 0 ∧ 0x18 % 8 = 0 ∧ 0x1E % 4 ≠ 0 ∧ ¬ (0x20 < 0x20)) ∧
    (let s := work.modBoot fun b => { b with hub := false }; s.dbOpen = false ∧ s.dbCtx 0 0 = some 0 ∧ s.service = false) ∧ work.fenced = false ∧
    ¬ ((0x20 : BitVec 16).toNat < 0x20 ∧ (8 : Nat) = 8 ∧ (0x20 : BitVec 16).toNat % 8 = 0) ∧ (work.dbCtx 1 9 = none ∧ (upC .zeroing).dbCtx 0 0 = some 0) := by
  decide +kernel

theorem witness_QueueControlCompletes :
    (upC .opened).dbCtx 0 0 = some 0 ∧ (upC .opened).dbOpen = true ∧ (upC .opened).hasQueue 0 0 = true ∧ ((upC .opened).qu 0 0).st = .disabled ∧
    bit ((upC .opened).qu 0 0).cfg 31 = false ∧ bit (0x80000004 : W32) 31 = true ∧ bit (work.qu 0 0).cfg 31 = true ∧
    (let s := work.setQu 0 0 { st := .draining }; (s.qu 0 0).st = .draining ∧ s.inflight 0 0 = 0) ∧
    ((work.setQu 0 0 { st := .halted }).qu 0 0).st = .halted ∧ (work.qu 0 0).st ≠ .halted := by
  decide +kernel

/-- `work` with one descriptor released in queue 0, whose ring is in host memory. -/
def rung : State := { work with queue := [(0, { cfg := 0x80000004, st := .running, tail := 1, rel := [⟨1, none, some 20000, 0⟩] })] }

theorem witness_FetchTakesTheDescriptorAtHead :
    (rung.qu 0 0).st = .running ∧ (rung.cx 0).st = .opened ∧ rung.dbOpen = true ∧ (rung.qu 0 0).head ≠ (rung.qu 0 0).tail ∧
    sub32 (rung.qu 0 0).head (rung.qu 0 0).cqHead < 2 ^ fld (rung.qu 0 0).cfg 4 0 ∧
    ((rung.fetchWords 0 0).2.all fun e => e.1 ≠ St.notYet) = true ∧ (work.qu 0 0).head = (work.qu 0 0).tail := by
  decide +kernel

/-! ### The scheduler and residency -/

/-- A fetched descriptor. -/
def fetched (w : List W32) (bad : Option Err) : Fetched := ⟨0, w, bad, none, some 20000, 0, 0, true, true, 0⟩
/-- `work` with a descriptor fetched at the head of queue 0. -/
def headed (w : List W32) (bad : Option Err) : State := { work with
  queue := [(0, { cfg := 0x80000004, st := .running, head := 1, tail := 1, fetched := [fetched w bad] })] }

theorem witness_SchedulerPrefersTheEarliestDeadline :
    ((headed (desc 0x01 []) none).choose 0).isSome = true ∧ ((headed (desc 0x01 []) none).choose 1).isSome = false := by
  decide +kernel

/-- Translation tables at page 16 that map the virtual pages 0x20 to 0x33 to the pages 64 to 83, writable, in HBM as the table key
writes them (R182, R396). -/
def tables (s : State) : State := s.modMem fun m => { m with
  pageKey := [(16, some 0), (17, some 0), (18, some 0)]
  hbm := [(0x100000, 17), (0x100007, 0x80), (0x110000, 18), (0x110007, 0x80)] ++
    ((List.range 20).map fun i => [(0x120100 + 8 * i, BitVec.ofNat 8 (64 + i)), (0x120107 + 8 * i, 0xC0)]).flatten }
/-- Context 0 picked on cell 0, whose banks context 1 holds but for four. -/
def full : State := tables { (upC .opened).setCx 1 { st := .opened, ent := entry 0x40000006 } with
  cells := [(0, { phys := some 0, ready := true, picked := some id0, res := [⟨1, List.range 60, 0⟩] })] }

theorem witness_PickTakesTheChoice : (State.reset : State).atBoundary 0 = false ∧
    ((full.cell 0).picked = some id0 ∧ full.atBoundary 0 = true) ∧
    (headed (desc 0x01 []) none).atBoundary 0 = true ∧ ((headed (desc 0x01 []) none).cell 0).picked = none ∧
    (((((headed (desc 0x01 []) none).boundary 0).dropHeld 0).noteRoom 0).choose 0).isSome = true ∧
    (((work.boundary 0).dropHeld 0).noteRoom 0).choose 0 = none ∧ (work.cell 0).picked = none ∧ (∀ p ∈ work.ctx, p.2.stale = []) := by
  decide +kernel

/-- An S-class command that holds one mask cell, cell 0, as the pair of the cells 16 and 32 is free. -/
def upgrade : State := { (headed (desc 0x01 []) none).setCx 0 { tctx .opened with ent := entry 0xB0000005 } with
  pairs := [⟨0, 16, 32, false, false⟩]
  cells := [(0, { phys := some 0, ready := true, picked := some id0 }), (16, { phys := some 17, ready := true, res := [⟨0, List.range 5, 0⟩] }),
    (32, { phys := some 34, ready := true, res := [⟨0, List.range 5, 0⟩] })] }

/-- A command picked before a COLLECTIVE runs; a pair for a command that has a mask cell. -/
theorem witness_PickTakesTheChoice_rest :
    (let s := { full with runs := [{ runOf (desc 0x40 []) with id := ⟨0, 1, 0⟩ }] }
     s.atBoundary 0 = true ∧ (s.cell 0).picked = some id0 ∧ (s.boundary 0).collHolds 0 = true) ∧
    (let u := (((upgrade.boundary 16).dropHeld 16).noteRoom 16)
     upgrade.atBoundary 16 = true ∧ (upgrade.cell 16).picked = none ∧ (u.choose 16).map (fun x => x.2.1) = some [16, 32] ∧
       (u.choose 16).map (fun x => cmdId x.1.c x.1.q x.1.f) = some id0 ∧ (u.cell 0).picked = some id0) := by
  decide +kernel

theorem witness_ResidencyCompletes_spill :
    full.atBoundary 0 = true ∧ full.wantsBanks 0 0 = true ∧ full.resident 0 0 = false ∧ full.needBanks 0 0 > (full.freeBanks 0).length ∧
    full.fits 0 0 false = true ∧ full.victims 0 0 false = [⟨1, List.range 60, 0⟩] ∧ full.spillCount 0 ⟨1, List.range 60, 0⟩ = 5 ∧
    okOf ((List.range 5).mapM fun b => full.spillPages 1 0 b true) (fun ps => ps.flatten.Nodup && ps.length = 5) = true ∧
    (let s : State := { full with mem := { full.mem with hbm := [] } }
     s.victims 0 0 false = [⟨1, List.range 60, 0⟩] ∧ failed ((List.range 5).mapM fun b => s.spillPages 1 0 b true) = true) := by
  decide +kernel

/-- Context 0 picked on cell 0, whose banks hold others' data but for five; four of its own lie in the spill area. -/
def refilled : State := tables { upC .opened with
  cells := [(0, { phys := some 0, ready := true, picked := some id0, res := [⟨1, List.range 59, 0⟩], spilled := [(0, 4)] })] }

theorem witness_ResidencyCompletes_rest :
    (let s := { upC .opened with cells := [(0, { phys := some 0, ready := true, picked := some id0, res := [⟨1, List.range 59, 0⟩] })] }
     s.atBoundary 0 = true ∧ s.wantsBanks 0 0 = true ∧ s.resident 0 0 = false ∧ s.needBanks 0 0 ≤ (s.freeBanks 0).length ∧
       (s.cell 0).spillOf 0 = none) ∧
    (let s := refilled
     s.atBoundary 0 = true ∧ s.wantsBanks 0 0 = true ∧ s.resident 0 0 = false ∧ s.needBanks 0 0 ≤ (s.freeBanks 0).length ∧
       (s.cell 0).spillOf 0 = some 4 ∧
       okOf ((List.range 4).mapM fun b => s.spillPages 0 0 b false) (fun ps => ps.length = 4) = true ∧
       failed ((List.range 4).mapM fun b => ({ s with mem := { s.mem with hbm := [] } } : State).spillPages 0 0 b false) = true) ∧
    work.wantsBanks 0 0 = false ∧ ((work.modQu 0 0 fun r => { r with noRoom := some 7 }).qu 0 0).noRoom = some 7 ∧
    (work.qu 0 0).noRoom = none ∧ work.waitsSince 0 0 = none ∧
    ({ work with cells := [(0, { phys := some 0 })], runs := [{ runOf (desc 0x50 []) with wants := [0], wantAt := some 7 }] } : State).waitsSince
      0 0 = some 7 := by
  decide +kernel

/-! ### Start and completion -/

/-- A VSTREAM picked on cell 0. -/
def pickedV : State := (headed (desc 0x10 []) none).modCell 0 fun r => { r with picked := some id0 }

/-- A descriptor that failed a check, a FENCE, and a VSTREAM picked on its cell; a tagged one without an epoch; a cell that waits for the
governor, since an S-class cell of its comb does; data that need DP16 while it is down; a cell command that runs, in `PWR_OK` and not. -/
theorem witness_CommandsStartAndTimeOut :
    ((headed (desc 0x50 []) (some (0x03, 5))).readyHead 0 0).isSome = true ∧
    (headed (desc 0x50 []) none).readyHead 0 0 = some (fetched (desc 0x50 []) none) ∧
    (headed (desc 0x50 []) none).startBad 0 (desc 0x50 []) = none ∧
    (headed (desc 0x50 [(0, 0x50400000)]) none).startBad 0 (desc 0x50 [(0, 0x50400000)]) ≠ none ∧
    (headed (desc 0x10 []) none).cellsReady 0 ((headed (desc 0x10 []) none).claimed id0) = false ∧
    (let s := pickedV
     s.readyHead 0 0 = some (fetched (desc 0x10 []) none) ∧ s.collHolds 0 = false ∧
       s.cellsReady 0 (s.claimed (cmdId 0 0 (fetched (desc 0x10 []) none))) = true ∧ s.startBad 0 (desc 0x10 []) = none ∧
       s.slewWaits 0x10 (s.claimed id0) = false) ∧
    (let s := (pickedV.setCx 2 { st := .opened, ent := entry 0x80000006 }).modCell 1 fun r =>
       { r with gated := true, picked := some ⟨2, 0, 0⟩ }
     s.slewWaits 0x10 (s.claimed id0) = true) ∧
    (({ headed (desc 0x40 []) none with base := { dp := [(16, { st := .down, ended := true })] } } : State).hubCut && needsHub (desc 0x40 [(10, 0x40000000)])) = true ∧
    (headed (desc 0x40 []) none).collMayStart 0 = true ∧ work.readyHead 0 0 = none ∧
    (busy (runOf (desc 0x10 []))).run? id0 = some (runOf (desc 0x10 [])) ∧ (runOf (desc 0x10 [])).res = none ∧
    (busy (runOf (desc 0x10 []))).power.supply = .ok ∧
    ((busy (runOf (desc 0x10 []))).vin 11000 |>.modPower fun p => { p with supply := .warn }).power.supply ≠ .ok ∧
    (runOf (desc 0x10 [])).suspEnded = false := by
  decide +kernel

/-- R29: 250 µs at 1,500 MHz. -/
theorem test_watchdog_after_250 :
    gives (.watchdogTimeout id0) (busy (runOf (desc 0x10 []))) (fun t => t.clock.now = 250 ∧ t.run? id0 =
      some { runOf (desc 0x10 []) with res := some (0x02, 250), begun := true }) = true := by
  decide +kernel

/-- An untagged command that ended with a status. -/
def doneRun (w : List W32) (st : Byte) : Run := { runOf w with res := some (st, 0), begun := true }
/-- SIG0_EN with counter 3 and an add of 2. -/
def signalling : List W32 := desc 0x10 [(0, 0x10008000), (5, 3), (7, 0x200)]

theorem witness_CompletionWritesTheRecord :
    (busy (doneRun signalling 0)).run? id0 = some (doneRun signalling 0) ∧ (busy (doneRun signalling 0)).awaits id0 = false ∧
    (busy (doneRun signalling 0)).fabHeld (doneRun signalling 0) = false ∧
    ((busy (doneRun signalling 3)).forget id0).fabHeld (doneRun signalling 3) = false ∧ (doneRun signalling 0).list = none ∧
    (let s := (tables (busy (doneRun signalling 0))).modQu 0 0 fun r => { r with cfg := 0xC0000004, cqBaseLo := 0x200000 }
     bit (s.qu 0 0).cfg 30 = true ∧ s.recordWaits 0 0 = false) ∧ (work.cx 0).isS = false ∧ opcodeOf signalling = 0x10 ∧
    sig0En signalling = true ∧ sig1En signalling = false ∧ bit (work.qu 0 0).cfg 30 = false ∧ (work.qu 0 0).st = .running ∧
    haltsQueue 0x03 = true ∧ haltsQueue 0x01 = false ∧ haltsQueue 0 = false ∧ sig0En (desc 0x10 []) = false ∧ sig1En (desc 0x10 []) = false := by
  decide +kernel

/-- R66: the first record of a ring of 16 has PHASE 1, the 17th PHASE 0. -/
theorem test_completion_phase :
    gives (.commandCompletion id0 none true) (busy (doneRun signalling 0)) (fun t => t.mem.host.read 4 4 = [0, 0x80, 0x10, 0] ∧
      Tab.get 0 t.evt 3 = 2 ∧ t.runs = []) = true ∧
    gives (.commandCompletion id0 none true) ((busy (doneRun signalling 0)).modQu 0 0 fun r => { r with cqTail := 16 })
      (fun t => t.mem.host.read 4 4 = [0, 0, 0x10, 0] ∧ (t.qu 0 0).cqTail = 17) = true := by
  decide +kernel

/-! ### The engines of a cell -/

/-- The words of an operand slot in host memory: slot number, base, format, D0 and D1. -/
def hostSlot (n base fmt d0 d1 : Nat) : List (Nat × W32) :=
  [(8 + 7 * n, BitVec.ofNat 32 base), (10 + 7 * n, BitVec.ofNat 32 (4 * 2 ^ 28 + fmt * 2 ^ 22)),
   (11 + 7 * n, BitVec.ofNat 32 ((d1 - 1) * 2 ^ 16 + (d0 - 1)))]
/-- The words of an operand slot in another SPACE; in SPACE 5 its base is hive 1's. -/
def slotOf (n base fmt d0 d1 sp : Nat) : List (Nat × W32) :=
  [(8 + 7 * n, BitVec.ofNat 32 base), (9 + 7 * n, if sp = 5 then 0x10000 else 0), (10 + 7 * n, BitVec.ofNat 32 (sp * 2 ^ 28 + fmt * 2 ^ 22)),
   (11 + 7 * n, BitVec.ofNat 32 ((d1 - 1) * 2 ^ 16 + (d0 - 1)))]
/-- Host memory with 1.0 at 0 and 2.0 at 64. -/
def floats : Mem := [(2, 0x80), (3, 0x3F), (67, 0x40)]
/-- A MATMUL of one element, K = 32, every element of A 1.0 and of B 2.0; C at 128. -/
def mm1 : Run := runOf (desc 0x01 (hostSlot 0 0 1 1 32 ++ hostSlot 1 64 1 1 32 ++ hostSlot 2 128 1 1 1))
/-- `work` with a running command and host memory. -/
def busyM (r : Run) : State := (busy r).modMem fun m => { m with host := floats }

/-- The same with A outside the banks of SPACE 2. -/
def mm3 : Run := runOf (desc 0x01 (slotOf 0 0 1 1 32 2 ++ hostSlot 1 64 1 1 32 ++ hostSlot 2 128 1 1 1))

theorem witness_MatmulWritesItsTile :
    okOf ((busyM mm1).mmProg mm1) (fun g => okOf ((busyM mm1).mmAll mm1 (1 * 1 * (1 + 2) + 1) g) fun _ => true) = true ∧
    failed ((busyM mm3).matmul mm3) = true ∧
    (busyM mm1).run? id0 = some mm1 ∧ mm1.res = none ∧ opcodeOf mm1.words = 1 ∧ mm1.mm = none ∧ mmShape mm1.words = ⟨1, 1, 1, 1, 1⟩ ∧
    okIs ((busyM mm1).tileInit mm1 0 0) [0] = true ∧ okIs ((busyM mm1).flagged mm1.who (slot mm1.words 0) 1 0 0) false = true ∧
    okIs ((busyM mm1).flagged mm1.who (slot mm1.words 1) 1 0 0) false = true ∧
    ((busyM mm1).panelA mm1.who (slot mm1.words 0) 0 0 (tileLen 1 0)).isOk = true ∧
    ((busyM mm1).panelB mm1.who (slot mm1.words 1) 0 0 (tileLen 1 0)).isOk = true ∧
    ((busyM mm1).tileRows mm1 0 1 1 [0x42800000] 0).isOk = true := by
  decide +kernel

/-- R79: 32 products 1.0 × 2.0 make 64.0. -/
theorem test_matmul_64 : gives (.matmul id0) (busyM mm1) (fun t => t.mem.host.read 128 4 = [0, 0, 0x80, 0x42] ∧
    t.run? id0 = some { mm1 with res := some (0, 0), begun := true, mm := some ⟨1, 0, none, none, 1⟩ }) = true := by
  decide +kernel

/-- A VSTREAM of one element: function, src at 0, dst at 128. -/
def vs1 (f : Nat) : Run := runOf (desc 0x10 (hostSlot 0 128 1 1 1 ++ hostSlot 1 0 1 1 1 ++ [(29, BitVec.ofNat 32 (f * 2 ^ 26)), (30, 0x01000000)]))
/-- A VSTREAM of these words picked on cell 0, in a state. -/
def pickedW (w : List W32) (f : MemRec → MemRec) : State := ((headed w none).modCell 0 fun r => { r with picked := some id0 }).modMem f
/-- `pickedW` is about to start the VSTREAM. -/
def starts (s : State) (w : List W32) : Bool :=
  s.readyHead 0 0 = some (fetched w none) && !s.collHolds 0 && s.cellsReady 0 (s.claimed id0) && s.startBad 0 w = none &&
    !s.slewWaits 0x10 (s.claimed id0) && s.run? id0 = none && !s.hubCut && s.claimed id0 = [0]
/-- A VSTREAM with its extension block at 0x200000 of the SPACE of its src. -/
def vsExtW (sp : Nat) : List W32 :=
  desc 0x10 (hostSlot 0 128 1 1 1 ++ slotOf 1 0 1 1 1 sp ++ [(29, 0x40000000), (30, 0x01000000), (31, BitVec.ofNat 32 (0x200000 / 64))])

/-- No extension block; one of zeros; one outside the banks of SPACE 2; one whose stack is not served yet. -/
theorem witness_CommandsStartAndTimeOut_block :
    (let w := (vs1 0x10).words; let s := pickedW w fun m => { m with host := floats }
     starts s w = true ∧ okIs (s.vsExt ⟨0, 0, tagOf w, some 0⟩ w) [] = true ∧ s.extBad 0 w [] (s.epoch 0 (tagOf w)) = none) ∧
    (let w := vsExtW 4; let s := pickedW w id
     starts s w = true ∧ okOf (s.vsExt ⟨0, 0, tagOf w, some 0⟩ w) (fun x => (s.extBad 0 w x (s.epoch 0 (tagOf w))).isSome) = true) ∧
    (let w := vsExtW 2; let s := pickedW w id; starts s w = true ∧ failed (s.vsExt ⟨0, 0, tagOf w, some 0⟩ w) = true) ∧
    (let w := vsExtW 1; let s := (tables (pickedW w id)).modBoot fun b => { b with hbmUp := 0, sdEnded := 0, sdReady := 0 }
     starts s w = true ∧ (match s.vsExt ⟨0, 0, tagOf w, some 0⟩ w with | .error e => decide (e.1 = St.notYet) | _ => false) = true) := by
  decide +kernel

/-- The MATMUL with two panels, its tile being filled, and filled. -/
def mm2 (g : MmProg) : Run :=
  { runOf (desc 0x01 (hostSlot 0 0 1 1 64 ++ hostSlot 1 64 1 1 64 ++ hostSlot 2 128 1 1 1)) with mm := some g }
def filling : MmProg := ⟨0, 0, some (0, [0]), none, 0⟩
def filled : MmProg := ⟨1, 0, some (0, [0x43000000]), none, 0⟩

theorem witness_MicroOpsAndDrainsAdvanceTheTiles :
    okOf ((busyM mm1).mmProg mm1) (fun g => g.canIssue (mmShape mm1.words) && (g.tile ≤ g.drained) &&
      okOf ((busyM mm1).mmPanel mm1 g) fun _ => true) = true ∧
    okOf ((busyM (mm2 filled)).mmProg (mm2 filled)) (fun g => !g.canIssue (mmShape (mm2 filled).words) && (g.drained < g.tile) &&
      okOf ((busyM (mm2 filled)).mmDrain (mm2 filled) g) fun _ => true) = true ∧
    mmShape (mm2 filling).words = ⟨1, 1, 2, 1, 1⟩ ∧ filling.canIssue ⟨1, 1, 2, 1, 1⟩ = true ∧ filling.bank 0 = some (0, [0]) ∧
    ((busyM (mm2 filling)).panelA (mm2 filling).who (slot mm1.words 0) 0 0 1).isOk = true ∧
    ((busyM (mm2 filling)).panelB (mm2 filling).who (slot mm1.words 1) 0 0 1).isOk = true ∧
    okIs ((busyM (mm2 filling)).flagged (mm2 filling).who (slot (mm2 filling).words 0) 2 1 0) false = true ∧
    okIs ((busyM (mm2 filling)).flagged (mm2 filling).who (slot (mm2 filling).words 1) 2 1 0) false = true ∧
    (mm2 filled).mm = some filled ∧ 1 * 1 ≤ filled.tile ∧ filled.drained < 1 * 1 ∧ filled.bank filled.drained = some (0, [0x43000000]) ∧
    ((busyM (mm2 filled)).tileRows (mm2 filled) 0 1 1 [0x43000000] 0).isOk = true := by
  decide +kernel


/-- A VCHAIN of one element whose program is at the virtual address 0x200000. -/
def vc1 : Run := runOf (desc 0x11 (hostSlot 0 128 1 1 1 ++ hostSlot 1 0 1 1 1 ++ [(30, 0x200000)]))
/-- `busyM` with the tables, and a chain program at the virtual address 0x200000. -/
def busyT (r : Run) : State := (tables (busyM r)).modMem fun m => { m with hbm := m.hbm ++ [(0x400000, 1), (0x400007, 0x3C)] }

/-- A VSTREAM and a VCHAIN whose src lies outside the banks of SPACE 2. -/
def vsOut : Run := runOf (desc 0x10 (hostSlot 0 128 1 1 1 ++ slotOf 1 0 1 1 1 2 ++ [(29, 0x40000000), (30, 0x01000000)]))
def vcOut : Run := runOf (desc 0x11 (hostSlot 0 128 1 1 1 ++ slotOf 1 0 1 1 1 2 ++ [(30, 0x200000)]))

/-- EXP2 of 1.0; a src outside the scratchpad's banks; a VCHAIN whose stage is NEG, and one whose program is zeros. -/
theorem witness_VectorCommandsWriteTheirRow :
    (let s := busyM (vs1 0x10); let r := vs1 0x10; let d := slot r.words 0; let a := slot r.words 1
     s.run? id0 = some r ∧ r.res = none ∧ opcodeOf r.words = 0x10 ∧ r.ext.getD [] = [] ∧
       (s.vstreamRun r (r.ext.getD [])).isOk = true ∧ (slot r.words 2).used = false ∧ d.used = true ∧ isMx d.fmt = false ∧
       sameBits (vsFunc r.words) d a = false ∧ a.d1 = 1 ∧ a.d2 = 1 ∧
       (match s.readStream r.who a (vsStride r.words 0) (sameInt (vsFunc r.words) d a) with
        | .ok av => decide (av.length = a.d0) && (s.writeRow r.who d 0 0 (av.zipIdx.map fun p => some (encElem d.fmt
            (vsBits (rndBit r.words) (s.cx 0).seed (vsSalt r.words) 0 p.2) (funcV (vsFunc r.words) p.1.val vOne vNegZero)))).isOk
        | _ => false) = true) ∧
    failed ((busyM vsOut).vstreamRun vsOut (vsOut.ext.getD [])) = true ∧
    okOf ((busyT vcOut).readBytes vcOut.who 1 (chainVa vcOut.words) 64) (fun bs => match chainOf (bytesToWords 16 bs) false with
      | .ok ts => failed ((busyT vcOut).vchainRun vcOut ts)
      | _ => false) = true ∧
    failed ((busyT vc1).readBytes vc1.who 1 0x340000 64) = true ∧
    (let r := vc1; let s := busyT r
     s.run? id0 = some r ∧ opcodeOf r.words = 0x11 ∧ (match s.readBytes r.who 1 (chainVa r.words) 64 with
       | .ok bs => (chainOf (bytesToWords 16 bs) (slot r.words 2).used).isOk
       | _ => false) = true ∧ (slot r.words 2).used = false ∧ (slot r.words 1).d1 = 1 ∧
       (match s.readStream r.who (slot r.words 1) 1 false with
        | .ok av => decide (av.length = 1) && (s.writeRow r.who (slot r.words 0) 0 0 [some 0xBF800000]).isOk
        | _ => false) = true) ∧
    (chainOf (List.replicate 16 0) false).isOk = false := by
  decide +kernel

/-- R164: EXP2 of 1.0 is 2.0. R162: NEG of 1.0 is −1.0. -/
theorem test_vector_results :
    gives (.vstream id0) (busyM (vs1 0x10)) (fun t => t.mem.host.read 128 4 = [0, 0, 0, 0x40]) = true ∧
    gives (.vchain id0) (busyT vc1) (fun t => t.mem.host.read 128 4 = [0, 0, 0x80, 0xBF]) = true := by
  decide +kernel

/-- A COPY of one 4-byte element from host address 0 to 128: MOVE, an ATOMIC ADD of unsigned words, a KV_WRITE of 64 bytes. -/
def mv1 : Run := runOf (desc 0x20 (hostSlot 0 128 1 1 1 ++ hostSlot 1 0 1 1 1))
def at1 : Run := runOf (desc 0x20 (hostSlot 0 64 10 1 1 ++ hostSlot 1 0 10 1 1 ++ hostSlot 2 128 10 1 1 ++ [(29, 0x10010000)]))
def kw1 : Run := runOf (desc 0x20 (hostSlot 1 0 12 64 1 ++ [(29, 0x20000000), (30, 0x10000)]))
/-- A MOVE from another hive's memory, and one from outside the banks of SPACE 2. -/
def mv2 (sp : Nat) : Run := runOf (desc 0x20 (hostSlot 0 128 1 1 1 ++ slotOf 1 0 1 1 1 sp))
/-- An ATOMIC whose slot 2 lies outside the banks of SPACE 2. -/
def at2 : Run := runOf (desc 0x20 (hostSlot 0 64 10 1 1 ++ hostSlot 1 0 10 1 1 ++ slotOf 2 128 10 1 1 2 ++ [(29, 0x10010000)]))
/-- `busyM` with two free pages in the KV pool. -/
def busyP (r : Run) : State := (busyM r).modMem fun m => { m with pool := [(32, .free), (33, .free)] }

theorem witness_CopyCommandsComplete :
    (let s := (busyM (mv2 5)).issueLoads (mv2 5) (readRuns (slot (mv2 5).words 1) false 4)
     (slot (mv2 5).words 1).space = 5 ∧ s.awaits id0 = true ∧ ((s.modRun id0 fun x => { x with phase := 1 }).run? id0).map (·.phase) = some 1) ∧
    failed ((busyM (mv2 2)).moveCopy (mv2 2) (slot (mv2 2).words 0) (slot (mv2 2).words 1) false) = true ∧
    (busyM mv1).run? id0 = some mv1 ∧ mv1.phase = 0 ∧ mv1.err = none ∧ (busyM mv1).awaits id0 = false ∧ (slot mv1.words 1).space ≠ 5 ∧
    copyMode mv1.words = 0 ∧ moveBits mv1.words = true ∧ ((busyM mv1).moveCopy mv1 (slot mv1.words 0) (slot mv1.words 1) false).isOk = true ∧
    moveBits (at1.words.set 29 0x08000000) = false ∧
    ((busyM mv1).moveConvert mv1 (at1.words.set 29 0x08000000) (slot mv1.words 0) (slot mv1.words 1)).isOk = true ∧
    failed ((busyM at2).atomRoom at2) = true ∧ ((busyM at1).atomRoom at1).isOk = true ∧ copyMode at1.words = 1 ∧ okIs ((busyM at1).atomElems at1) [(0, 64, [0, 0, 0x80, 0x3F])] = true ∧
    (match [(0, 64, ([0, 0, 0x80, 0x3F] : List Byte))].foldlM (fun (t : State) e => t.atomOne at1 e) ((busyM at1).modRun id0 fun t => { t with phase := 2, remote := [] }) with
     | .ok u => (match u.run? id0 with | some r' => (u.atomOld r').isOk | none => false)
     | _ => false) = true ∧
    copyMode kw1.words = 2 ∧
    (match ((List.range 1).foldlM (fun (x : State × W64) k => do
        let bs ← kvLift (x.1.anyBytes kw1 k 4 (addr64 ((slot kw1.words 1).row k 0)) 64)
        let t ← x.1.kvSetRecord ((busyP kw1).viewOf kw1 0) ((busyP kw1).kvSeq ((busyP kw1).viewOf kw1 0) + k) (kvOff kw1.words * 64) bs
        return (t, crc64 x.2 bs)) (busyP kw1, 0) : Except KvErr (State × W64)) with | .ok _ => true | _ => false) = true ∧
    ((busyM at1).atomAt at1.who 4 64 1 4 false 5 0).isOk = true := by
  decide +kernel

/-- R194, R196: MOVE copies; ADD leaves the sum, and the old value in slot 2. -/
theorem test_copy_results :
    gives (.move id0) (busyM mv1) (fun t => t.mem.host.read 128 4 = [0, 0, 0x80, 0x3F]) = true ∧
    gives (.atomic id0) (busyM at1) (fun t => t.mem.host.read 64 4 = [0, 0, 0x80, 0x7F] ∧ t.mem.host.read 128 4 = [0, 0, 0, 0x40]) = true ∧
    gives (.kvWrite id0) (busyP kw1) (fun t => (t.stm 0).kvHead = 32 ∧ (t.cx 0).kvUsed = 2 ∧ (t.run? id0).bind (·.res) = some (0, 0)) = true := by
  decide +kernel

/-! ### The waggle router and the scouts -/

/-- One local expert on cell 0: FP32 outputs, inbox at 0, outbox at 256; its map is at the virtual address 0x200000. -/
def oneExpert : List (Nat × Byte) := [(0x400003, 0x81), (0x400004, 1), (0x400006, 1), (0x400011, 1)]
/-- `busyM` with the tables, the map, and a sixth bank for context 0: SPACE 2 then has one bank. -/
def busyE (r : Run) : State := { tables ((busyM r).setCx 0 { tctx .opened with ent := (entry 0x40000005).set 3 0x10006 }) with
  cells := [(0, { phys := some 0, ready := true, cur := some 0, res := [⟨0, [0, 1, 2, 3, 4, 5], 0⟩] })] }
def withMap (r : Run) : State := (busyE r).modMem fun m => { m with hbm := m.hbm ++ oneExpert }
/-- A ROUTE of one token with one expert, K = 1 and CAP = 1; logits at 0, the token at 64, the dispatch area at 256. -/
def rt1 (vpn k : W32) : Run := runOf (desc 0x30 (hostSlot 0 0 1 1 1 ++ hostSlot 1 64 1 1 1 ++ hostSlot 2 256 12 64 18 ++ [(29, k), (30, 1), (31, vpn)]))
/-- The COMBINE that follows it; one row at 64. -/
def cb1 (d1 : Nat) : Run := runOf (desc 0x31 (hostSlot 0 256 12 64 18 ++ hostSlot 2 64 1 1 d1 ++ [(29, 0x20)]))
/-- `withMap` with a dispatch area of one token at 256: accepted by expert 0 in column 0 with gate 1.0. -/
def withArea (r : Run) : State := (withMap r).modMem fun m => { m with host := [(256, 1), (0x541, 1), (0x546, 0x80), (0x547, 0x3F)] }

/-- A ROUTE whose logits lie in slice 0 of the direct area, and an S-class context. -/
def rtSd : Run := runOf (desc 0x30 (slotOf 0 0 1 1 1 3))
def sClass (s : State) : State := s.setCx 0 { tctx .opened with ent := entry 0xB0000005 }

/-- A store die that is held, and one of an S-class command's two dies out of service. -/
theorem witness_RouterCommandsComplete_dies :
    (let s := (busy rtSd).modBase fun b => { b with sdHeld := 255 }
     s.bankWait rtSd = false ∧ rtSd.phase < 2 ∧ s.agentStop rtSd (s.agentDies rtSd) = some (St.notYet, 0)) ∧
    (let s := (sClass (busy rtSd)).modBoot fun b => { b with sdReady := 0xEF }
     s.agentStop rtSd (s.agentDies rtSd) = some (St.ecc, 0x40C)) ∧
    (withMap (rt1 0x20 1)).agentStop (rt1 0x20 1) ((withMap (rt1 0x20 1)).agentDies (rt1 0x20 1)) = none ∧
    (withArea (cb1 1)).agentStop (cb1 1) ((withArea (cb1 1)).agentDies (cb1 1)) = none := by
  decide +kernel

theorem witness_RouterCommandsComplete :
    (withMap (rt1 0x20 1)).run? id0 = some (rt1 0x20 1) ∧ opcodeOf (rt1 0x20 1).words = 0x30 ∧ (withMap (rt1 0x20 1)).bankWait (rt1 0x20 1) = false ∧
    (match (withMap (rt1 0x20 2)).expertMap (rt1 0x20 2).who 0x20 1 with
     | .ok m => decide ((withMap (rt1 0x20 2)).routeBad (rt1 0x20 2) m = some 29)
     | _ => false) = true ∧
    (let s := withMap (rt1 0x20 1); let r := rt1 0x20 1
     (match s.expertMap r.who (wd r.words 31).toNat (slot r.words 0).d0 with
      | .ok m => decide (s.routeBad r m = none) && decide (s.mapWait 0 m = []) && m.all (fun e => !e.remote) && (s.routeRun r m).isOk
      | _ => false) = true) ∧
    opcodeOf (cb1 1).words = 0x31 ∧
    (let s := withArea (cb1 1); let r := cb1 1
     (match s.readDispatch r with
      | .ok (T, x) => decide (T = (slot r.words 2).d1) && decide (T ≠ (slot (cb1 2).words 2).d1) &&
         (match s.expertMap r.who (wd r.words 29).toNat x.E with
          | .ok m => m.all (fun e => !s.expertBad e && !e.remote) && decide (s.mapWait 0 (combineCells m x) = []) &&
              (x.ch.zipIdx.foldlM (fun (t : State) p => t.combineRow r m p.2 p.1) s).isOk
          | _ => false)
      | _ => false) = true) := by
  decide +kernel

/-- R108: the inbox takes the token, 2.0; R107: the token's entry says accepted in column 0. -/
theorem test_route_inbox : gives (.route id0) (withMap (rt1 0x20 1)) (fun t => t.mem.spad.read 0 4 = [0, 0, 0, 0x40] ∧
    t.mem.host.read 0x540 4 = [0, 1, 0, 0]) = true := by
  decide +kernel

/-- A recipe of one field of 32 elements at the virtual address 0x200000 (R134). -/
def recipe : List (Nat × Byte) := [(0x400000, 0x31), (0x400001, 0x52), (0x400002, 0x4B), (0x400003, 0x53), (0x400004, 1), (0x400044, 1), (0x400047, 2)]
/-- A SCOUT of one query, its list at 256, with K, and its progress. -/
def sc1 (k seq : Nat) (x : ScoutRun) : Run :=
  { runOf (desc 0x32 (hostSlot 0 0 7 64 1 ++ hostSlot 1 256 12 64 4 ++ [(30, BitVec.ofNat 32 (k * 2 ^ 21))])) with scout := some x, seqPos := seq }
def scoutAt (unit : Option Nat) (paused : Bool) : ScoutRun := ⟨false, unit, none, false, paused, 0⟩
/-- `busyM` with the recipe bound, and scout 0 in a state. -/
def busyS (r : Run) (y : ScoutRec) : State := { tables ((busyM r).modCx 0 fun c => { c with recipe := some 0x20 }) with scouts := [(0, y)] }
def withRecipe (r : Run) (y : ScoutRec) : State := (busyS r y).modMem fun m => { m with hbm := m.hbm ++ recipe }
/-- A GATHER_KV of one record word from an empty list at 256. -/
def gk1 : Run := runOf (desc 0x33 (hostSlot 0 256 12 64 2 ++ hostSlot 1 1024 12 64 1 ++ [(29, 0x7F0000), (30, 0x10000)]))
def withList : State := (busyM gk1).modMem fun m => { m with host := [(256, 1), (260, 1), (300, 64)] }

/-- A FIELD past NF; one block with K = 1; two blocks with K = 1 and a ready scout; a scout that has scored. -/
theorem witness_ScoutAndGatherComplete :
    (let r := sc1 1 64 (scoutAt none false); let s := withRecipe r { st := .ready }
     s.run? id0 = some r ∧ r.res = none ∧ opcodeOf r.words = 0x32 ∧ s.bankWait r = false ∧ s.journal r = none ∧
       (scoutSet r.words 64).n ≤ scK r.words + scM r.words ∧ okIs (s.scoutFits r) none = true ∧
       (match s.scoutList r (scoutAt none false) with | .ok _ => true | _ => false) = true ∧
       okIs (s.scoutFits { r with words := r.words.set 29 0x00100000 }) (some 29) = true) ∧
    (let r := sc1 1 128 (scoutAt none false); let s := withRecipe r { st := .ready }
     okIs (s.scoutFits r) none = true ∧ ¬ (scoutSet r.words 128).n ≤ scK r.words + scM r.words ∧
       (s.cx 0).digital r.words = false ∧ (s.scoutRec 0).st = .ready ∧ (s.scoutRec 0).run = none ∧ s.base.sdHeld.getLsbD 0 = false) ∧
    (let r := sc1 0 64 (scoutAt (some 0) false); let s := withRecipe r { st := .ready, run := some id0 }
     (match s.scoutList r (scoutAt (some 0) false) with | .ok _ => true | _ => false) = true) ∧
    (let x := { scoutAt none false with die := some 0 }; let r := sc1 0 64 x; let s := withRecipe r {}
     s.agentStop r (s.agentDies r) = none ∧ (match s.scoutList r x with | .ok _ => true | _ => false) = true) ∧
    (let r := { sc1 1 128 (scoutAt none false) with words := (sc1 1 128 (scoutAt none false)).words.set 29 0x40000000 }
     let s := withRecipe r { st := .ready }
     let x' : ScoutRun := { scoutAt none false with die := some (s.scoutDie r) }
     (s.cx 0).digital r.words = true ∧ s.base.sdHeld.getLsbD (s.scoutDie r) = false ∧ okIs (s.scoutFits r) none = true ∧
       (let r' := { r with scout := some x' }; let b := ((s.freeScout id0).bump pgPool 0x13C 1).modRun id0 fun t => { t with scout := some x' }
        b.agentStop r' (b.agentDies r') = none ∧ (match b.scoutList r' x' with | .ok _ => true | _ => false) = true ∧
        (let c := (sClass b).modBoot fun y => { y with sdReady := 0xEF }
         c.agentStop r' (c.agentDies r') = some (St.ecc, 0x40C)))) ∧
    failed ((busyS (sc1 1 64 (scoutAt none false)) {} |>.modCx 0 fun c => { c with recipe := some 0x34 }).scoutFits (sc1 1 64 (scoutAt none false))) = true ∧
    withList.run? id0 = some gk1 ∧ opcodeOf gk1.words = 0x33 ∧ withList.bankWait gk1 = false ∧
    withList.agentStop gk1 (withList.agentDies gk1) = none ∧ (match withList.gatherRun gk1 with | .ok _ => true | _ => false) = true ∧
    (let s := withList.modBase fun b => { b with sdHeld := 255 }; s.agentStop gk1 (s.agentDies gk1) = some (St.notYet, 0)) ∧
    (match (withList.modMem fun m => { m with host := [] }).gatherRun gk1 with | .error e => decide (e.1.1 ≠ St.notYet) | _ => false) = true := by
  decide +kernel

/-- An open step in REPLAY mode whose journal of two rows is in host memory. -/
def replayStep : StepRec := { st := .opened, mode := 2, count := 1, used := 128, journal := [1024, 0, 0x43000000, 0x0001003F, 0, 0, 0] }
/-- `withRecipe` in that step, with a record's bytes in the journal. -/
def replaying (r : Run) (js : List Byte) : State :=
  ((withRecipe r { st := .ready }).modCx 0 fun c => { c with step := replayStep }).modMem fun m => { m with host := m.host.write 1088 js }

/-- A recorded list, and none. -/
theorem witness_ScoutAndGatherComplete_replay :
    let r := sc1 1 128 (scoutAt none false)
    (let s := replaying r (recordOf r [1, 2, 3, 4])
     okIs (s.scoutFits r) none = true ∧ (s.journal r).map (·.mode) = some 2 ∧ s.awaits id0 = false ∧ r.err = none ∧ r.slot = none ∧
       okOf (s.anyBytes r 0 4 1024 128) (fun js => match findRecord r js 3 64 with
         | some (some p) => (s.writeBytes r.who (slot r.words 1).space (addr64 ((slot r.words 1).row 0 0)) (p.take ((slot r.words 1).d1 * 64))).isOk
         | _ => false) = true) ∧
    (let s := replaying r []
     okOf (s.anyBytes r 0 4 1024 128) (fun js => decide (findRecord r js 3 64 = none)) = true) := by
  decide +kernel

theorem witness_ScoutTimersAndPoolComplete_timers :
    ((State.reset : State).scoutRec 0).run = none ∧ (∃ n < 12, ((withRecipe (sc1 1 128 (scoutAt none false)) { st := .ready }).scoutRec n).st = .ready) ∧
    (let r := sc1 1 128 (scoutAt (some 0) true); let s := withRecipe r { st := .ready, run := some id0 }
     let x' : ScoutRun := { scoutAt none false with restarted := true, die := some (s.scoutDie r) }
     let s' := ((((s.passTo 200).freeScout id0).bump pgPool 0x13C 1).modRun id0 fun t => { t with scout := some x' })
     let r' := { r with scout := some x' }
     (s.scoutRec 0).run = some id0 ∧ s.run? id0 = some r ∧ r.res = none ∧ s'.agentStop r' (s'.agentDies r') = none ∧
       (match s'.scoutList r' x' with | .ok _ => true | _ => false) = true) ∧
    (let r := sc1 1 128 (scoutAt none false); let s := withRecipe r { st := .fenced }
     let x' : ScoutRun := { scoutAt none false with die := some 7 }
     let s' := ((((s.passTo 20).freeScout id0).bump pgPool 0x13C 1).modRun id0 fun t => { t with scout := some x' })
     let r' := { r with scout := some x' }
     s.run? id0 = some r ∧ (∀ n < 12, (s.scoutRec n).st ≠ .ready) ∧ okIs (s.scoutFits r) none = true ∧ s.journal r = none ∧
       (scoutSet r.words 128).n > scK r.words + scM r.words ∧ s'.agentStop r' (s'.agentDies r') = none ∧
       (match s'.scoutList r' x' with | .ok _ => true | _ => false) = true) := by
  decide +kernel

theorem witness_ScoutTimersAndPoolComplete_pool :
    (let s := (withRecipe (sc1 1 64 (scoutAt none false)) {}).wr pgPool 0x10C 0x20
     s.pageUse pgPool = true ∧ s.idleOpen s.skrIndex = false ∧
       ({ s with str := [] } : State).idleOpen 0 = true ∧ s.recipeGood 0 0x20 = true ∧ s.recipeGood 0 0x34 = false) ∧ (State.reset : State).pageUse pgPool = false ∧
    bit (1 : W32) 0 = true ∧ bit (2 : W32) 0 = false ∧
    (∀ y ∈ ([{ st := .ready }, { st := .fenced, fails := 2 }, { st := .fenced, fails := 3 }, { st := .cal }] : List ScoutRec),
      let s : State := { up with scouts := [(0, y)] }
      (s.scoutRec 0).run = none ∧ (s.scouts.filter fun p => p.2.st = .cal).length < fld (s.rd pgPool 0x124) 19 16) ∧
    (let s := up.modBase fun b => { b with src := [63, 67, 68, 69].map fun n => (n, { st := .active }) }
     (s.scoutRec 0).st = .off ∧ s.scoutMay 0 = true) := by
  decide +kernel

/-- R145: 0.20 %, 2.00 units and 0.20 % pass, and 0.21 % fences the scout. -/
theorem test_calibration_limits :
    gives (.calibrationDone 0 20 200 20 true) ({ up with scouts := [(0, { st := .cal })] } : State) (fun t => (t.scoutRec 0).st = .ready) = true ∧
    gives (.calibrationDone 0 21 200 20 true) ({ up with scouts := [(0, { st := .cal })] } : State) (fun t =>
      (t.scoutRec 0).st = .fenced ∧ (t.scoutRec 0).fails = 1) = true := by
  decide +kernel

/-! ### The hub's commands -/

/-- A store of the command `id0` that hive 7 has not acknowledged. -/
def store7 : MfmReq := ⟨5, some id0, 0, false, 0, 7, 0x0007000000000000, 0, 2, 0, false, 4, [0, 0, 0, 0], false, true, 0, 0, 1, 0, 0, false⟩
/-- A load of the command that has not answered. -/
def load7 : MfmReq := { store7 with op := 1, data := [] }
/-- A running command with that store outstanding. -/
def owing (r : Run) : State := (busy r).modFab fun b => { b with reqs := [store7] }
/-- FENCE with FFAB; an OK command with FFAB. -/
def fn1 : Run := runOf (desc 0x50 [(0, 0x50080000)])

theorem witness_FenceWaitsForItsAcknowledgements :
    (owing fn1).run? id0 = some fn1 ∧ fn1.res = none ∧ opcodeOf fn1.words = 0x50 ∧ ffab fn1.words = true ∧ (owing fn1).covered fn1 = [store7] ∧
    (busy fn1).covered fn1 = [] ∧ (owing { fn1 with fabSince := some 3 }).missing { fn1 with fabSince := some 3 } = [7] ∧
    (let r := doneRun (desc 0x20 [(0, 0x20080000)]) 0
     (owing r).run? id0 = some r ∧ r.res = some (St.ok, 0) ∧ (owing r).awaits id0 = false ∧ r.list = none ∧ r.begun = true ∧
       ffab r.words = true ∧ (owing r).covered r ≠ [] ∧
       (((owing r).modFab fun b => { b with reqs := [load7] }).awaits id0 = true)) ∧
    (let r := doneRun (desc 0x20 [(0, 0x20080000)]) 3; ((owing r).forget id0).covered r ≠ []) := by
  decide +kernel

/-- A FENCE whose list of missing hives goes to slot 0 in a SPACE. -/
def fn2 (sp : Nat) : Run := { runOf (desc 0x50 ([(0, 0x50080000)] ++ slotOf 0 128 12 8 1 sp)) with fabSince := some 3 }

/-- At the drain timer's end: no list, one in host memory, one outside the banks of SPACE 2, one that waits for its banks; the work of
a command `OK`, and failed. -/
theorem witness_FenceWaitsForItsAcknowledgements_drain :
    (let r := { fn1 with fabSince := some 3 }; let u := (owing r).passTo 103
     (owing r).missing r ≠ [] ∧ u.bankWait r = false ∧ (u.missingList r ((owing r).missing r)).2.1 ≠ St.notYet ∧ (slot r.words 0).used = false) ∧
    (slot (fn2 4).words 0).used = true ∧
    ((owing (fn2 4)).writeBytes (fn2 4).who 4 128 [7, 0]).isOk = true ∧ failed ((owing (fn2 2)).writeBytes (fn2 2).who 2 128 [7, 0]) = true ∧
    (let r := { fn2 2 with wants := [0] }
     ({ owing r with cells := [(0, { phys := some 0 })] } : State).passTo 103 |>.bankWait r) = true ∧
    (∀ st ∈ ([0, 3] : List Byte), let r := { doneRun (desc 0x20 [(0, 0x20080000)]) st with fabSince := some 3 }
      (owing r).run? id0 = some r ∧ (owing r).missing r ≠ [] ∧ (((owing r).passTo 103).missingList r [7]).2.1 ≠ St.notYet) := by
  decide +kernel

/-- R301: 2 × 50 = 100 µs at the reset value of DRAIN. -/
theorem test_fence_drain : gives (.fenceDrainTimeout id0) (owing { fn1 with fabSince := some 3 }) (fun t => t.clock.now = 103 ∧
    (t.run? id0).bind (·.res) = some (0x10, 1) ∧ t.fab.reqs = []) = true := by
  decide +kernel

/-- `busy` with a domain that gives context 0's counters to colony 0. -/
def shared (r : Run) : State := (busy r).modFab fun b => { b with dom := [(0, (0x80000000, 0x00010020))] }
/-- EVENT_SIGNAL of 2 to counter 3: local, of hive 7, of this hive through its global address. -/
def es (w29 w31 : W32) : Run := runOf (desc 0x51 [(29, w29), (30, 2), (31, w31)])
/-- EVENT_WAIT for counter 3 to reach a value, with a TIMEOUT of 40 µs. -/
def ew (v : W32) : Run := runOf (desc 0x52 [(29, 3), (30, v), (31, 40)])
def ts1 : Run := runOf (desc 0x80 (hostSlot 0 128 12 16 1))

theorem witness_EventCommandsComplete :
    (busy (es 3 0)).run? id0 = some (es 3 0) ∧ opcodeOf (es 3 0).words = 0x51 ∧ bit (wd (es 3 0).words 31) 0 = false ∧
    bit (wd (es 0x70003 1).words 31) 0 = true ∧ (es 0x70003 1).phase = 0 ∧ (busy (es 0x70003 1)).isLocal (7 * 2 ^ 48 + 3 * 2 ^ 44 + 3) = false ∧
    (shared (es 3 1)).isLocal (3 * 2 ^ 44 + 3) = true ∧ (shared (es 3 1)).awaits id0 = false ∧
    ((shared (es 3 1)).serveLocal 0 ⟨3 * 2 ^ 44 + 3, 3, 1, false, 4, toBytes 4 2⟩ false).isOk = true ∧
    opcodeOf (ew 0).words = 0x52 ∧ sub32 ((busy (ew 0)).ctrView 0 (ew 0).who.tag 3) 0 < 2 ^ 31 ∧
    ¬ sub32 ((busy (ew 1)).ctrView 0 (ew 1).who.tag 3) 1 < 2 ^ 31 ∧ wd (ew 0).words 31 ≠ 0 ∧
    opcodeOf ts1.words = 0x80 ∧ (busy ts1).bankWait ts1 = false ∧
    ((busy ts1).writeBytes ts1.who (slot ts1.words 0).space (addr64 ((slot ts1.words 0).row 0 0)) (List.replicate 16 0)).isOk = true ∧
    ({ busy { ts1 with wants := [0] } with cells := [(0, { phys := some 0 })] } : State).bankWait { ts1 with wants := [0] } = true ∧
    failed ((busy ts1).writeBytes ts1.who 2 0 (List.replicate 16 0)) = true ∧
    failed ((busy (es 3 1)).serveLocal 0 ⟨3 * 2 ^ 44 + 3, 3, 1, false, 4, toBytes 4 2⟩ false) = true ∧
    (let r := { es 0x70003 1 with phase := 2 }; (owing r).modFab (fun b => { b with reqs := [load7] }) |>.awaits id0) = true ∧
    ({ ew 1 with met := true } : Run).met = true ∧
    work.dbCtx 0 0 = some 0 ∧ work.dbOpen = true ∧ (work.cx 0).owns (work.evtSelOf 0) = true ∧
    (let s : State := { work with evtSel := [(0, 16)] }; (s.cx 0).owns (s.evtSelOf 0) = false) := by
  decide +kernel

/-- R64: 40 µs after its start EVENT_WAIT ends with the counter's value; one tick counts as HUB_TICKS 1,200. -/
theorem test_event_wait_timeout :
    gives (.eventWaitTimeout id0) (busy (ew 1)) (fun t => t.clock.now = 40 ∧ (t.run? id0).bind (·.res) = some (0x0A, 0)) = true ∧
    gives (.timestamp id0) ({ busy { ts1 with start := 9 } with clock := ⟨9, 8⟩ } : State) (fun t => t.mem.host.read 128 9 = [0xB0, 4, 0, 0, 0, 0, 0, 0, 1]) = true := by
  decide +kernel

/-- SPEC_BEGIN of slot 0, tag 0x21, for a number of streams. -/
def sb (n : Nat) : Run := runOf (desc 0x60 [(29, BitVec.ofNat 32 (0x21000000 + n))])
def epoch0 : Epoch := ⟨0, 0x21, [⟨0, 0, 0, none, [], []⟩], 0, 0, 0, [], [(3, 2)], false, false⟩
/-- A running command of a context with an open epoch. -/
def inEpoch (r : Run) : State := ((busy r).modCx 0 fun c => { c with epochs := [epoch0] }).modStm 0 fun m => { m with specOpen := 1 }
def scm : Run := runOf (desc 0x61 [(29, 0x21000000)])
def sab : Run := runOf (desc 0x62 [(29, 0x21000000)])

/-- SPEC_COMMIT whose accept count lies outside the banks of SPACE 2. -/
def scOut : Run := runOf (desc 0x61 ([(29, 0x21000000)] ++ slotOf 0 128 10 1 1 2))

theorem inEpoch_tables : (inEpoch scm).tablesOk := by
  unfold State.tablesOk
  decide +kernel

/-- SPEC_BEGIN of an epoch whose shadow range is bank 1, as a VSTREAM runs that writes there. -/
def sbSh : Run := runOf (desc 0x60 [(29, 0x21000001), (31, 0x00010100)])
def writer : Run := { runOf (desc 0x10 (slotOf 0 0x40000 1 1 1 2)) with id := ⟨0, 1, 0⟩ }
def shadowed : State := { (busy sbSh).setCx 0 { tctx .opened with ent := (entry 0x40000005).set 3 0x10007 } with runs := [sbSh, writer] }

theorem witness_EpochCommandsComplete_shadow :
    shadowed.run? id0 = some sbSh ∧ shadowed.specBeginBad 0 sbSh.words = none ∧ shadowWord sbSh (shadowed.newEpoch sbSh.words) = none ∧
    writer ∈ shadowed.runsOf 0 ∧ (∀ z ∈ shadowed.runs, z.id = writer.id → z = writer) ∧ writer.res = none ∧ writer.phase < 2 ∧
    shadowWord writer (shadowed.newEpoch sbSh.words) = some 10 ∧
    (∀ y ∈ (busy (sb 1)).runsOf 0, shadowWord y ((busy (sb 1)).newEpoch (sb 1).words) = none) := by
  decide +kernel

/-- R118: the VSTREAM that writes in the shadow range ends with CMD_BAD_DESC. -/
theorem test_shadow_cut : gives (.specBegin id0) shadowed (fun t => (t.run? ⟨0, 1, 0⟩).bind (·.res) = some (0x03, 10) ∧
    (t.run? id0).bind (·.res) = some (0, 0)) = true := by
  decide +kernel

theorem witness_EpochCommandsComplete :
    (busy scm).epoch 0 (some (specNamed scm.words)) = none ∧
    ({ inEpoch { scm with wants := [0] } with cells := [(0, { phys := some 0 })] } : State).bankWait { scm with wants := [0] } = true ∧
    (let s := { inEpoch scm with runs := [scm, { runOf (desc 0x10 []) with id := ⟨0, 1, 0⟩, slot := some 0 }] }
     ∃ x ∈ s.runsOf 0, x.slot = some epoch0.slot) ∧
    (∀ x ∈ (inEpoch scm).runsOf 0, x.slot ≠ some epoch0.slot) ∧ ({ epoch0 with marked := true } : Epoch).marked = true ∧
    (match (inEpoch scOut).commitEpoch scOut epoch0 with | .ok _ => false | _ => true) = true ∧
    (busy (sb 1)).run? id0 = some (sb 1) ∧ opcodeOf (sb 1).words = 0x60 ∧ (busy (sb 1)).specBeginBad 0 (sb 1).words = none ∧
    (busy (sb 2)).specBeginBad 0 (sb 2).words = some 30 ∧
    (inEpoch scm).run? id0 = some scm ∧ opcodeOf scm.words = 0x61 ∧ (inEpoch scm).bankWait scm = false ∧
    (inEpoch scm).epoch 0 (some (specNamed scm.words)) = some epoch0 ∧ (inEpoch scm).specRunning 0 epoch0 = false ∧ epoch0.marked = false ∧
    (match (inEpoch scm).commitEpoch scm epoch0 with | .ok _ => true | _ => false) = true ∧
    opcodeOf sab.words = 0x62 ∧ (inEpoch sab).epoch 0 (some (specNamed sab.words)) = some epoch0 ∧ (inEpoch sab).specRunning 0 epoch0 = false := by
  decide +kernel

/-- R123, R124: COMMIT adds the pending 2 to counter 3, ABORT does not. -/
theorem test_epoch_adds :
    gives (.specCommit id0) (inEpoch scm) (fun t => t.evt = [(3, 2)] ∧ (t.cx 0).epochs = [] ∧ (t.stm 0).specOpen = 0) = true ∧
    gives (.specAbort id0) (inEpoch sab) (fun t => t.evt = [] ∧ (t.cx 0).epochs = [] ∧ (t.cx 0).fates = [(0x21, true)]) = true := by
  decide +kernel

/-- STEP_BEGIN of step 9 with a mode, its journal at 256 in host memory. -/
def sg (mode : W32) : Run := runOf (desc 0x70 (hostSlot 0 256 12 64 4 ++ [(29, 9), (31, mode)]))
/-- STEP_COMMIT with its commit word at 128 in host memory, with a mirror in hive 7 or not. -/
def sm (mirror : Bool) : Run := runOf (desc 0x71 (hostSlot 0 128 12 8 1 ++ hostSlot 1 64 12 4 1 ++
  [(29, if mirror then 0x80000000 else 0), (31, 0x70000)]))
/-- A running command of a context with a step. -/
def inStep (r : Run) (st : StepSt) (mode : BitVec 2) : State := (busy r).modCx 0 fun c => { c with step :=
  { st := st, num := 9, mode := mode, journal := [256, 0, 0x43000000, 0, 0, 0, 0], fail := 3, count := 1, used := 128 } }
/-- A journal header of step 9. -/
def header9 : Mem := [(256, 0x31), (257, 0x4E), (258, 0x52), (259, 0x4A), (264, 9), (280, 64)]

theorem witness_StepCommandsComplete_begin :
    (busy (sg 0)).run? id0 = some (sg 0) ∧ opcodeOf (sg 0).words = 0x70 ∧ (sg 0).phase = 0 ∧ (sg 0).err = none ∧ (busy (sg 0)).awaits id0 = false ∧
    (busy (sg 0)).sec.uc ≠ .waiting ∧ ((inStep (sg 0) .opened 0).cx 0).step.st = .opened ∧ ((busy (sg 0)).cx 0).step.st ≠ .opened ∧
    ((busy (sg 0)).cx 0).epochs = [] ∧ fld (wd (sg 0).words 31) 1 0 = 0 ∧ fld (wd (sg 1).words 31) 1 0 = 1 ∧ (slot (sg 1).words 0).space ≠ 5 ∧
    ((busy (sg 1)).writeBytes (sg 1).who 4 256 (journalHeader 0 (sg 1).words)).isOk = true ∧ 2 ≤ fld (wd (sg 2).words 31) 1 0 ∧
    (let s := (busy (sg 2)).modMem fun m => { m with host := header9 }
     (match s.readBytes (sg 2).who 4 256 64 with
      | .ok bs => let h := bytesToWords 16 bs; wd h 0 = 0x4A524E31 && wd h 2 = wd (sg 2).words 29 && wd h 3 = wd (sg 2).words 30
      | _ => false) = true) ∧
    (match (busy (sg 2)).readBytes (sg 2).who 4 256 64 with | .ok bs => wd (bytesToWords 16 bs) 0 ≠ 0x4A524E31 | _ => false) = true := by
  decide +kernel

/-- STEP_BEGIN that has issued its stores; one that waits for a load, or has met an error; its journal outside the banks of SPACE 2, or
in another hive. -/
theorem witness_StepCommandsComplete_begin_rest :
    ({ sg 0 with phase := 2 } : Run).phase = 2 ∧ ((busy (sg 0)).modSec fun x => { x with uc := .waiting }).sec.uc = .waiting ∧
    (∀ p ∈ (busy (sg 0)).ctx, p.2.step.st ≠ .opened) ∧
    (let r := runOf (desc 0x70 (slotOf 0 256 12 64 4 2 ++ [(29, 9), (31, 1)]))
     failed ((busy r).anyWrite r 2 256 (journalHeader 0 r.words)) = true ∧ failed ((busy r).anyBytes r 0 2 256 64) = true) ∧
    (slot (runOf (desc 0x70 (slotOf 0 256 12 64 4 5 ++ [(29, 9), (31, 2)]))).words 0).space = 5 ∧
    (let r := { sg 2 with phase := 1 }
     (owing r).modFab (fun b => { b with reqs := [load7] }) |>.awaits id0) = true ∧
    ({ sg 2 with phase := 1, err := some (St.fabricTimeout, 0) } : Run).err.isSome = true := by
  decide +kernel

/-- STEP_COMMIT with its words outside the banks of SPACE 2: the mirror's data, the commit word. -/
def smOut (n : Nat) : Run := runOf (desc 0x71 ((if n = 0 then slotOf 0 128 12 8 1 2 else hostSlot 0 128 12 8 1) ++
  (if n = 1 then slotOf 1 64 12 4 1 2 else hostSlot 1 64 12 4 1) ++ [(29, if n = 1 then 0x80000000 else 0), (31, 0x70000)]))

/-- What holds STEP_COMMIT back, and its later phases. -/
theorem witness_StepCommandsComplete_commit_rest :
    ({ sm true with phase := 3 } : Run).phase = 3 ∧ ({ sm true with phase := 1, err := some (St.guard, 7) } : Run).err.isSome = true ∧
    (let s := { inStep (sm false) .opened 1 with runs := [sm false, { runOf (desc 0x10 []) with id := ⟨0, 1, 0⟩ }] }
     ¬ ∀ y ∈ s.runsOf 0, y.id = id0) ∧
    (let s := (inStep (sm false) .opened 1).modFab fun b => { b with reqs := [{ store7 with id := some ⟨0, 1, 0⟩, inStep := true }] }
     s.covered (sm false) ≠ []) ∧
    (let s := (inStep (smOut 1) .opened 0).modRun id0 fun t => { t with fabSince := none }; failed (s.mirrorStep (smOut 1)) = true) ∧
    (let s := (inStep (smOut 0) .opened 0).modRun id0 fun t => { t with fabSince := none }; failed (s.commitStep (smOut 0)) = true) ∧
    (let s := (inStep { sm true with phase := 1 } .opened 0).modRun id0 fun t => { t with fabSince := none }
     okOf (s.mirrorBytes (sm true)) (fun data => okOf (s.commitWord (sm true)) fun w0 =>
       (s.anyWrite (sm true) 5 (mirrorGa (sm true).words + pad64 data.length) (trailerBytes w0 9 data)).isOk) = true) := by
  decide +kernel

theorem witness_StepCommandsComplete_commit :
    (inStep (sm false) .opened 1).run? id0 = some (sm false) ∧ opcodeOf (sm false).words = 0x71 ∧
    ((inStep (sm false) .opened 1).cx 0).epochs = [] ∧ (∀ y ∈ (inStep (sm false) .opened 1).runsOf 0, y.id = id0) ∧
    (inStep (sm false) .opened 1).covered (sm false) = [] ∧ ((busy (sm false)).cx 0).step.st = .none ∧
    ((inStep (sm false) .failed 1).cx 0).step.st = .failed ∧ bit (wd (sm false).words 29) 31 = false ∧ bit (wd (sm true).words 29) 31 = true ∧
    (∀ mode ∈ [(0 : BitVec 2), 1], let s := (inStep (sm false) .opened mode).modRun id0 fun t => { t with fabSince := none }
      okIs (s.commitWord (sm false)) 0 = true ∧
      (match s.writeBytes (sm false).who 4 128 (toBytes 4 1 ++ toBytes 4 9) with
       | .ok u => (u.writeBytes (sm false).who 4 (256 + 20) (toBytes 4 1 ++ toBytes 4 128)).isOk
       | _ => false) = true) ∧
    ((inStep (sm false) .opened 1).cx 0).step.slot.space = 4 ∧ ((inStep (sm false) .opened 1).cx 0).step.slot.base = 256 ∧
    (let s := (inStep (sm true) .opened 0).modRun id0 fun t => { t with fabSince := none }
     (match s.mirrorBytes (sm true) with | .ok data => ((s.swapPorts (sm true) [0] [gHive (mirrorGa (sm true).words)]).anyWrite (sm true) 5 (mirrorGa (sm true).words) data).isOk | _ => false) = true) := by
  decide +kernel

/-- R334: the commit word flips, with the step's number. -/
theorem test_step_commit : gives (.stepCommit id0) (inStep (sm false) .opened 0) (fun t => t.mem.host.read 128 8 = [1, 0, 0, 0, 9, 0, 0, 0] ∧
    (t.cx 0).step.st = .none ∧ (t.run? id0).bind (·.res) = some (0, 0)) = true := by
  decide +kernel

/-! ### Memory management, scrubbing, repair -/

/-- A state with MM_ARG0, MM_ARG1 and MM_ARG2. -/
def args (s : State) (a b c : W32) : State := ((s.wr pgMm 0x104 a).wr pgMm 0x108 b).wr pgMm 0x10C c
/-- A state with a direct area of 3 MiB in each slice (R185). -/
def direct (s : State) : State := s.wr pgMm 0x118 1

/-- Two retired pages, one past the list's end. -/
def gone : State := up.modMem fun m => { m with retired := [0x10000021], retiredOver := [34] }

theorem witness_MemoryManagementCompletes :
    (args up 0x1000 1 0).pageUse pgMm = true ∧ fld (0x1000 : W32) 31 12 ≠ 0 ∧ fld (0xFFF : W32) 31 12 = 0 ∧
    fld (0 : W32) 4 0 < 1 ∧ fld (17 : W32) 4 0 > 16 ∧ 1 ≤ fld (16 : W32) 4 0 ∧ fld (16 : W32) 4 0 ≤ 16 ∧ work.streamsOf 0 ≠ [] ∧
    ((upC .opened).cx 0).st = .opened ∧ (upC .opened).streamsOf 0 = [] ∧ fld (0x1000000 : W32) 31 24 ≠ 0 ∧
    fld (0xFFFFFF : W32) 31 24 = 0 ∧ fld (0xFFFFFF : W32) 23 0 + 2 > 2 ^ 24 ∧ fld (0xFFFFFF : W32) 23 0 + 1 ≤ 2 ^ 24 ∧
    (∃ x ∈ (busyP mv1).mem.pool, 33 ≤ x.1 ∧ x.1 < 33 + 1) ∧ (∀ x ∈ (busyP mv1).mem.pool, ¬ (34 ≤ x.1 ∧ x.1 < 34 + 2)) ∧
    up.mem.retired = [] ∧ up.mem.retiredOver = [] ∧
    gone.mem.retired.any (fun e => 33 ≤ fld e 23 0 && fld e 23 0 < 33 + 1) = true ∧ gone.mem.retiredOver.any (fun q => 34 ≤ q && q < 34 + 1) = true ∧
    (State.reset : State).stackUp 0 = false ∧ (State.reset : State).pageUse pgMm = false ∧
    (∀ st < 16, up.stackUp st = true) ∧ (up.cx 0).st ≠ .opened ∧
    (direct (args (upC .opened) 0 48 1)).directRange = none ∧ (direct (args (upC .opened) 0 46 2)).directRange = some [46, 47] ∧
    (∀ d ∈ [46, 47], Tab.get none up.mem.directOwner d = none) ∧
    (let s := up.modMem fun m => { m with directOwner := [(47, some 1)] }; ∃ d ∈ [46, 47], Tab.get none s.mem.directOwner d ≠ none) ∧
    (up.modMem fun m => { m with retired := [0x80000020] }).mem.retired[(0 : W32).toNat]? = some 0x80000020 ∧
    up.mem.retired[(0 : W32).toNat]? = none := by
  decide +kernel

theorem witness_TablePageOperationsComplete :
    (tables up).pageUse pgMm = true ∧ fld (16 : W32) 31 24 = 0 ∧ (tables up).badTable 16 = false ∧ (busyP mv1).badTable 32 = true ∧
    okIs ((tables up).ptEntry 16 0) 0x8000000000000011 = true ∧
    (((tables up).modMem fun m => { m with hbmPoison := [(0x40000, true)] }).ptEntry 16 0).isOk = false := by
  decide +kernel

/-- `work` with a BAR4 window on context 0 at the virtual address 0x200000. -/
def window : State := (((tables work).wr pgMm 0x130 0x80000000).wr pgMm 0x134 0x200000)

theorem witness_WindowAccessesComplete :
    ({ up with fenced := true } : State).fenced = true ∧ up.fenced = false ∧ up.bar4At 0 = none ∧
    window.bar4At 0x200000 = some (0, 0x200000) ∧ okIs (window.readBytes ⟨0, 0, none, none⟩ 1 0x200000 2) [0, 0] = true ∧
    (window.writeBytes ⟨0, 0, none, none⟩ 1 0x200000 [1, 2]).isOk = true ∧
    (window.readBytes ⟨0, 0, none, none⟩ 1 (0x200000 + 0x140000) 2).isOk = false ∧
    (window.writeBytes ⟨0, 0, none, none⟩ 1 (0x200000 + 0x140000) [1]).isOk = false := by
  decide +kernel

/-- The stacks of `window` are not trained: its accesses wait. -/
def coldWindow : State := window.modBoot fun b => { b with hbmUp := 0, sdEnded := 0, sdReady := 0 }

theorem witness_WindowAccessesComplete_waits :
    window.mem.bar4 = [] ∧ up.bar4Size ≤ 2 ^ 30 ∧ ¬ window.bar4Size ≤ 0x200000 ∧ (up.modBoot fun b => { b with bar4 := 0 }).bar4Size ≤ 0 ∧
    (match coldWindow.readBytes ⟨0, 0, none, none⟩ 1 0x200000 2 with | .error e => decide (e.1 = St.notYet) | _ => false) = true ∧
    (match coldWindow.writeBytes ⟨0, 0, none, none⟩ 1 0x200000 [1] with | .error e => decide (e.1 = St.notYet) | _ => false) = true ∧
    coldWindow.bar4At 0x200000 = some (0, 0x200000) ∧ (coldWindow.bar4Serve ⟨0, 0x200000, 2, none⟩).isNone = true := by
  decide +kernel

/-- R442: a read of BAR4 whose stack is not trained is answered when the stack is ready; the later one waits behind it. -/
theorem test_bar4_waits :
    gives (.bar4Read 0x200000 2) coldWindow (fun t => t.mem.bar4 = [⟨0, 0x200000, 2, none⟩] ∧ t.out = [] ∧
      (let u := (t.modBoot fun b => { b with hbmUp := 0xFFFF, sdReady := 0xFF, sdEnded := 0xFF }).bar4Wake; u.mem.bar4 = [] ∧ u.out = [.readDone [0, 0]])) = true := by
  decide +kernel

theorem witness_ScrubbersComplete :
    (State.reset : State).stackUp 0 = false ∧ up.starved ownPart 0 = false ∧
    up.stackUp (stackOf (4 * 0 / 65536)) = true ∧ (((up.mem.row (rowOf 0)).errs.filter fun t => up.now < t + 86400000000).length < 3) ∧
    (let s := up.modMem fun m => { m with rows := [(rowOf 0, { errs := [0, 0, 0] })] }
     ((s.mem.row (rowOf 0)).errs.filter fun t => s.now < t + 86400000000).length ≥ 3) ∧
    (up.mem.row 64).hard = 0 ∧ ((up.modMem fun m => { m with rows := [(64, { hard := 1 })] }).mem.row 64).hard ≠ 0 ∧
    up.cellReady 0 = true ∧ (State.reset : State).cellReady 0 = false ∧ up.physOf 0 = some 0 ∧ up.boot.sdReady.getLsbD 7 = true ∧
    (State.reset : State).boot.sdReady.getLsbD 7 = false ∧ 4 * 0xC00000 ≥ 48 * 2 ^ 20 ∧ 4 * 0xBFFFF < (direct up).directPages * 65536 ∧
    4 * 0xC0000 ≥ (direct up).directPages * 65536 ∧ 4 * 0xC0000 < 48 * 2 ^ 20 := by
  decide +kernel

/-- R187: KVL_SET takes 16 records and no 17th. -/
theorem test_kvl_set :
    gives .kvlSet (args (upC .opened) 0 16 0) (fun t => (t.cx 0).rslab = 16 ∧ t.rd pgMm 0x110 = 0) = true ∧
    gives .kvlSet (args (upC .opened) 0 17 0) (fun t => (t.cx 0).rslab = 1 ∧ t.rd pgMm 0x110 = 2) = true := by
  decide +kernel

/-- A stream whose chain starts at the retired page 32. -/
def migrating : State := ((busyP mv1).modStm 0 fun m => { m with kvHas := true, kvHead := 32 }).modMem fun m => { m with
  pool := [(32, .taken 0), (33, .free)], retired := [32] }

/-- A stream whose index page 32 names the retired page 33, under a key. -/
def migrating2 : State := (((busyP mv1).modStm 0 fun m => { m with kvHas := true, kvHead := 32 }).modSec fun x => { x with keys := [(5, some 7)] }).modMem fun m => { m with
  pool := [(32, .taken 0), (33, .taken 0), (34, .free)], retired := [33], pageKey := [(32, some 7)]
  hbm := [(0x200000, 255), (0x200001, 255), (0x200002, 255), (0x200003, 255), (0x200008, 1), (0x200400, 33)] }

theorem witness_RepairCommandsComplete :
    up.mem.bar4 = [] ∧ (let s := migrating2; (s.cx 0).rslab ≤ 16 ∧ 33 ∈ s.chainPages 0 ∧ 33 ∉ s.allIndexes 0 ∧ 34 ∉ s.allIndexes 0 ∧ (s.ctxKey 0).isSome = true ∧
      s.mem.isRetired 33 = true ∧ (match s.kvTake 0 with | .ok x => decide (x.1 = 34) | _ => false) = true) ∧
    up.pageUse (pgSd 0) = true ∧ (State.reset : State).pageUse (pgSd 0) = false ∧ (up.modPower fun p => { p with writes := [.hard 5 true] }).power.goes 0 = true ∧
    (work.stm 5).live = false ∧ (match ((busyP mv1).modMem fun m => { m with pool := [] }).kvTake 0 with | .ok _ => false | _ => true) = true ∧
    migrating.starved (migrating.cx 0).bwPart 32 = false ∧ up.power.goes 0 = false ∧ up.pendingRows 0 = [] ∧
    (up.modMem fun m => { m with rows := [(64, { soft := true })] }).pendingRows 0 = [64] ∧
    ¬ (up.sec.dbg = .unlocked ∧ up.sec.scope.getLsbD 0 = true) ∧
    (let s := up.modSec fun x => { x with dbg := .unlocked, scope := 1 }; s.sec.dbg = .unlocked ∧ s.sec.scope.getLsbD 0 = true) ∧
    (migrating.stm 0).live = true ∧ migrating.mem.isRetired 32 = true ∧ 32 ∈ migrating.chainPages 0 ∧ migrating.kvIdle 0 = true ∧
    migrating.stackUp (stackOf 32) = true ∧ (match migrating.kvTake 0 with | .ok x => decide (x.1 = 33) | _ => false) = true ∧
    (migrating.stm 0).kvHas = true ∧ (migrating.stm 0).kvHead = 32 ∧
    (let s : State := { up with buckets := [(0, ⟨60, 63⟩)] }
     let u := (List.range 64).foldl (fun (t : State) p => { t with buckets := Tab.set {} t.buckets p (t.refilled 0 p) }) s
     (1 : W64).getLsbD 0 && work.named 0 && u.bwCap 0 ≠ 0 && (u.bucket 0 0).c ≥ 64) ∧ (∀ p < 64, (0 : W64).getLsbD p = false) := by
  decide +kernel

/-! ### The base layer and the lasers -/

/-- A report of 64 bytes from die port 3 for die port 5. -/
def report35 : List (List Nat) := (List.range 17).map fun a => (List.range 17).map fun b => if a = 3 ∧ b = 5 then 64 else 0
/-- A flit of zeros with its CRC. -/
def zeroFlit : List Byte := List.replicate 252 0 ++ toBytes 4 (crc32 (List.replicate 252 0)).toNat
/-- Receive bundle 2 of die port 5 hears transmit bundle 1 of die port 3, and is to hear bundle 4 of die port 7. -/
def granted : State := State.reset.setGrant 5 2 ⟨some (3, 1), some (7, 4), 0⟩

theorem witness_GrantLedgerCompletes :
    Tab.rising State.reset.base.ledger = true ∧ (report35.getD 3 []).getD 5 0 ≠ 0 ∧
    (State.reset.sources 5).length ≤ (State.reset.rxBundles 5).length ∧ (∃ i < bundlesOf 3, State.reset.bundleState 3 false i ≠ 2) ∧
    (granted.grantOf 5 2).next = some (7, 4) ∧ granted.frozen 5 2 = false ∧ granted.drained 3 1 5 = true ∧
    (∀ i < bundlesOf 5, (State.reset : State).frozen 5 i = false) ∧ (granted.grantOf 5 3).next = none ∧
    (granted.modTx 3 1 fun x => { x with training := true }).frozen 5 2 = true ∧
    (granted.modTx 3 1 fun x => { x with replay := [⟨zeroFlit, 0, [5]⟩] }).drained 3 1 5 = false := by
  decide +kernel

/-- A grant of no use, whose bundle is out; one whose source hears a bundle of 5 under retrain, so that it may not end; a replay buffer
with a flit that no pair in service takes. -/
theorem witness_GrantLedgerCompletes_ends :
    granted.deadGrant 5 2 = false ∧ granted.mayEnd 5 2 3 = true ∧
    (let s := granted.modBundle 3 false 1 fun b => { b with out := true }; s.deadGrant 5 2 = true ∧ s.frozen 5 2 = false) ∧
    (let s := (granted.setGrant 3 0 ⟨some (5, 0), none, 0⟩).modTx 5 0 fun x => { x with training := true }
     s.mayEnd 5 2 3 = false ∧ s.drained 3 1 5 = true ∧ s.deadGrant 5 2 = false) ∧
    (let u := (granted.setGrant 5 2 ⟨some (7, 4), none, 0⟩).modRx 5 2 fun _ => ⟨(granted.dieTx 7 4).firstFor 5, false⟩
     ∀ p ∈ u.base.tx, ∀ f ∈ p.2.replay, ∀ d ∈ f.left, u.stranded (p.1 / 32) (p.1 % 32) d = false) ∧
    ((granted.modTx 3 1 fun x => { x with replay := [⟨zeroFlit, 0, [9]⟩] }).stranded 3 1 9 = true) := by
  decide +kernel

theorem witness_DieFlitsComplete :
    (granted.grantOf 5 2).src = some (3, 1) ∧ dieCrcOk zeroFlit = true ∧ (parseDie zeroFlit).ackV = false ∧ (parseDie zeroFlit).type ≤ 1 ∧
    (parseDie zeroFlit).lseq = (granted.dieRx 5 2).next ∧ dieCrcOk (List.replicate 256 0) = false ∧
    (∀ n ∈ [2, 8], let x := (granted.modTx 3 1 fun y => { y with naks := n, due := true, replay := [⟨zeroFlit, 0, [5]⟩] }).dieTx 3 1
      x.due = true ∧ 2 ≤ x.naks ∧ x.naks ≤ 8) ∧
    (let s := granted.modTx 3 1 fun y => { y with replay := [⟨zeroFlit, 0, [5]⟩] }
     (s.dieTx 3 1).due = false ∧ (s.dieTx 3 1).replay ≠ [] ∧ s.txStill 3 1 = false) ∧ (granted.dieTx 3 1).replay = [] ∧
    (granted.dieTx 3 1).naks = 0 ∧ (granted.grantOf 5 3).src = none ∧ (1 : W16) ≠ 0 := by
  decide +kernel

/-- A pair under retrain; a ring out of lock; a link-control flit; a flit that may not be sent, since the other flow of its pair is the
die's, and one that may; one behind and one ahead of the LSEQ expected, while discarding and not; an ACK and a NAK; spent retries. -/
theorem witness_DieFlitsComplete_receive :
    (granted.modTx 3 1 fun x => { x with training := true }).pairStill 3 1 5 2 = true ∧ granted.pairStill 3 1 5 2 = false ∧
    (granted.modBase fun b => { b with rings := [.lane 5 true 2 0] }).ringsBad 3 1 5 2 = true ∧ granted.ringsBad 3 1 5 2 = false ∧
    (let f := parseDie zeroFlit
     (granted.modFlow (f.flow ^^^ 1) fun x => { x with src := some 3 }).maySend 3 1 true f = false ∧
     (granted.setGrant 5 2 ⟨some (3, 1), none, 0⟩).maySend 3 1 false f = true ∧ f.lseq = (granted.dieTx 3 1).next) ∧
    (let s := granted.modRx 5 2 fun x => { x with next := 3, failing := true }
     (s.dieRx 5 2).failing = true ∧ (parseDie zeroFlit).lseq ≠ (s.dieRx 5 2).next ∧ ((s.dieRx 5 2).next - 1 - (parseDie zeroFlit).lseq).toNat < 128) ∧
    (128 ≤ ((1 : Byte) - 1 - 7).toNat) ∧
    ({ parseDie zeroFlit with ackV := true, nak := false } : DieFlit).ackV = true ∧
    ((granted.modTx 3 1 fun y => { y with naks := 9 }).dieTx 3 1).naks > 8 := by
  decide +kernel

/-- R231: retry 8 falls 2^7 µs after the NAK. -/
theorem test_die_retry : gives (.dieFlitRetry 3 1) (granted.modTx 3 1 fun y => { y with naks := 8, due := true, replay := [⟨zeroFlit, 0, [5]⟩] })
    (fun t => t.clock.now = 128 ∧ t.out = [.dieFlit 3 1 zeroFlit]) = true := by
  decide +kernel

theorem witness_LanesAndRingsComplete :
    27 < bundlesOf 15 ∧ 3 < bundlesOf 16 ∧ ¬ 4 < bundlesOf 16 ∧
    Ring.lane 3 true 1 15 ∉ up.base.rings ∧ Ring.scout 11 1 2 ∉ up.base.rings ∧ Ring.lane 3 true 1 15 ∉ up.base.wrong ∧
    Ring.lane 3 true 1 15 ∈ (up.modBase fun b => { b with rings := [.lane 3 true 1 15] }).base.rings ∧
    ((up.modDp 3 fun r => { r with st := .disputed }).diePort 3).st = .disputed ∧
    (let s := (up.modDp 3 fun r => { r with st := .up }).modBundle 3 false 0 fun b => { b with lost := 1 }
     (s.diePort 3).st = .up ∧ (s.bundle 3 false 0).lost &&& ([0x0001] : List W16).getD 0 0 ≠ 0 ∧
      (s.bundle 3 false 0).dark = false ∧ (s.bundle 3 false 0).out = false ∧ ([0xFFFF] : List W16)[0]? = some 0xFFFF ∧ (0xFFFF : W16) ≠ ~~~ (s.bundle 3 false 0).lost) ∧ 14 % 4 ≠ 15 % 4 ∧
    up.laneUnlocked 5 2 0 = false ∧ (up.modBase fun b => { b with wrong := [.lane 5 true 2 0] }).laneUnlocked 5 2 0 = true ∧
    ((up.diePort 3).st ≠ .up ∧ (up.diePort 3).st ≠ .disputed) ∧
    (up.modBase fun b => { b with rings := [.scout 11 1 3] }).scoutRings 11 = true ∧ up.scoutRings 11 = false ∧
    (up.modPower fun p => { p with capped := true }).power.capped = true := by
  decide +kernel

/-- `up` with source 5 in a state, and the spare of its group in another. -/
def lit (a b : SrcRec) : State := up.modBase fun x => { x with src := [(5, a), (8, b)] }

theorem witness_LaserSourcesComplete_margins :
    (SrcRec.bears { st := .retired }) = false ∧ ¬ (-99 : Int) ≤ -100 ∧
    ((lit { st := .active } { st := .spareIdle }).source 5).st = .active ∧ (-200 : Int) < -199 ∧ (-100 : Int) ≤ -100 ∧ isSpare 5 = false ∧
    (-200 : Int) ≤ -200 ∧ ((lit { st := .active } { st := .spareIdle }).source 5).subst = none ∧
    ((lit { st := .active } { st := .spareIdle }).source (srcSpare 5)).st = .spareIdle ∧
    (∀ p ∈ (lit { st := .active } { st := .spareIdle }).base.src, p.2.subst ≠ some (srcSpare 5)) ∧
    (let r := (lit { st := .armed, goodAt := some 4 } { st := .spareArmed }).source 5; r.st = .armed ∧ r.subst = none ∧ r.goodAt = some 4) := by
  decide +kernel

theorem witness_LaserSourcesComplete_replacement :
    (let s := lit { st := .armed, subst := some 8 } { st := .spareWarm }; (s.source 8).st = .spareWarm ∧ (s.source 5).subst = some 8) ∧
    (let s := lit { st := .armed, subst := some 8, warm := true } {}; (s.source 5).subst = some 8 ∧ (s.source 5).warm = true) ∧
    (let s := lit { st := .armed, subst := some 0x7E, warm := true } {}; (s.source 5).subst = some 0x7E ∧ (0x7E : Nat) ≥ 108) ∧
    (up.source 9).bears = false ∧ ((lit { st := .active } {}).source 5).bears = true ∧
    (up.inlet 1).st ≠ .inUse ∧ bit (up.rd pgLaser 0x120) 1 = false ∧ bit ((up.wr pgLaser 0x120 3).rd pgLaser 0x120) 1 = true ∧
    ((up.setInlet 1 { st := .inUse }).inlet 1).st = .inUse ∧
    (let s := (up.setInlet 1 { st := .ready }).wr pgLaser 0x120 3; s.inletGood 1 = true) ∧ up.inletGood 1 = false ∧
    (let s := up.modSrc 70 fun x => { x with st := .armed, subst := some 0x7E, warm := true }
     s.roleOf 70 = 70 ∧ s.retraining 70 = false ∧ (s.source 70).warm = true ∧ (s.source 70).bears = true) ∧
    (let s := lit { st := .active } {}; s.substFor 5 = none ∧ isScoutSrc (s.roleOf 5) = false) ∧ isScoutSrc 67 = true ∧
    (let s := lit { st := .active } { st := .spareIdle }; s.substFor 5 = some 8) ∧
    (let s := ((lit { st := .active } {}).setInlet 0 { st := .ready }).wr pgLaser 0x120 1; s.substFor 5 = some 0x7E) ∧
    (up.source 5).subst = none ∧ (up.source 8).st ≠ .spareWarm := by
  decide +kernel

/-- R252: 1,300 and 15 GHz lie within the table; R248: −1.00 dB arms and −0.99 dB does not. -/
theorem test_inlet_and_arming :
    gives (.inletCheck 1 ⟨16, 15, 1100, 1300, 1200, -145⟩) (up.wr pgLaser 0x120 2) (fun t => t.base.el1.st = .ready) = true ∧
    gives (.inletCheck 1 ⟨16, 16, 1100, 1300, 1200, -145⟩) (up.wr pgLaser 0x120 2) (fun t => t.base.el1.st = .bad) = true ∧
    gives (.laserMonitor 5 (-100)) (lit { st := .active } { st := .spareIdle }) (fun t => (t.source 5).st = .armed ∧ (t.source 8).st = .spareArmed) = true ∧
    gives (.laserMonitor 5 (-99)) (lit { st := .active } { st := .spareIdle }) (fun t => (t.source 5).st = .active) = true := by
  decide +kernel

/-! ### The fabric's links -/

/-- `up` with the fabric enabled (LTO 50 µs) and the source of port 0 lit. -/
def fabOn : State := (up.wr pgFab 0x104 0x80000032).modBase fun b => { b with src := b.src ++ [(72, { st := .active })] }
/-- `fabOn` with a record for port 0. -/
def p0 (r : PortRec) : State := fabOn.modPort 0 fun _ => r
/-- A flit from hive 0 to hive `d`, class 0, one byte of payload, LSEQ 0. -/
def flitTo (d : W16) (type : BitVec 4) : Flit := { localFlit 0 [7] with dst := d, type := type }
/-- The flit for hive 0x100 in a replay buffer. -/
def sent0 : Sent := ⟨⟨flitTo 0x100 0, 0, 0, none, true⟩, flitTo 0x100 0, [], 0⟩
/-- The bytes of a flit. -/
def wire (f : Flit) : List Byte := wireOf f f.payload

theorem witness_LinkTimersAndCableCheckComplete_timers :
    bit (fabOn.rd pgFab 0x104) 31 = true ∧ fabOn.cpEn 0 = true ∧ fabOn.roleLit (portSource 0) = true ∧ up.roleLit (portSource 0) = false ∧
    fabOn.fenced = false ∧ fabOn.boot.sdReady.getLsbD (0 / 4) = true ∧
    (∀ n ∈ [0, 6, 7], let r := (p0 { st := .up, naks := n, replay := [sent0] }).port 0; r.st = .up ∧ r.replay ≠ [] ∧ r.naks = n) ∧
    6 + 1 < 8 ∧ 7 + 1 ≥ 8 ∧ ((p0 { st := .check }).port 0).st = .check ∧ ((p0 { st := .miscabled }).port 0).st = .miscabled ∧
    ((p0 { st := .down }).port 0).st = .down ∧ ((p0 { st := .check }).port 0).link ≠ .keying ∧
    ((p0 { st := .training, naks := 8 }).port 0).naks ≥ 8 ∧ ((p0 { st := .training }).port 0).naks < 8 ∧
    headroomOf 1342 ≤ 320 * 1024 ∧ headroomOf 1343 > 320 * 1024 ∧
    ((fabOn.wr (pgPort 0) 0x100 0).cpEn 0 = false) ∧ bit (up.rd pgFab 0x104) 31 = false ∧ ((p0 {}).port 0).st = .off := by
  decide +kernel

theorem witness_LinkTimersAndCableCheckComplete_cables :
    up.tablesOk ∧ (let s := (p0 { st := .check }).wr (pgPort 0) 0x108 0x85000010
     s.pageUse (pgPort 0) = true ∧ bit (s.plan 0) 31 = true ∧ (0x85000010 : W32) = s.plan 0 ∧ (0x85000011 : W32) ≠ s.plan 0 ∧
     s.linkEnc 0 = false ∧ (s.setReg (linkKeyAt 0) 0x80000000).linkEnc 0 = true) ∧
    bit ((p0 { st := .check }).plan 0) 31 = false ∧
    (let s := ((p0 { st := .check }).wr (pgPort 0) 0x108 0x85000010).wr (pgPort 1) 0x108 0x85000011
     (List.range 32).any fun q => q ≠ 0 && s.plan q = 0x85000011) ∧
    (((p0 { st := .up }).port 0).st = .up ∧ bit (0 : W32) 31 = false) ∧
    (let s := fabOn.wr (pgPort 28) 0x100 0x80010000
     bit (s.rd (pgPort 28) 0x100) 31 = true ∧ fld (0x80020000 : W32) 18 16 ≠ fld (s.rd (pgPort 28) 0x100) 18 16) ∧
    (let s := fabOn.wr (pgPort 0) 0x100 0x00010000
     bit (fabOn.rd (pgPort 0) 0x100) 31 = true ∧ bit (s.rd (pgPort 0) 0x100) 31 = false) ∧
    (State.reset : State).pageUse (pgPort 0) = false ∧
    (let r : PortRec := { st := .miscabled, cause := 2 }; r.st = .miscabled ∧ r.cause ≠ 3) ∧
    (let s := (fabOn.wr (pgPort 28) 0x100 0x00010000).wr (pgPort 0) 0x100 0x80010000
     bit (s.rd (pgPort 28) 0x100) 31 = false ∧ ∃ q < 32, q ≠ 28 ∧ s.cpEn q = true ∧ s.cpRole q = fld (0x80010000 : W32) 18 16 ∧
       s.cpMember q = fld (0x80010000 : W32) 13 12) := by
  refine ⟨tables_up.1, ?_⟩
  decide +kernel

/-- R265, R267: a round trip of 1,342 ns passes and one of 1,343 ns does not; R263: the eighth NAK trains. -/
theorem test_training :
    gives (.portTraining 0 true 1342) (p0 { st := .training }) (fun t => (t.port 0).st = .check ∧ (t.port 0).headroom = 327680) = true ∧
    gives (.portTraining 0 true 1343) (p0 { st := .training }) (fun t => (t.port 0).st = .down ∧ (t.port 0).cause = 0xB) = true ∧
    gives (.linkAckTimeout 0) (p0 { st := .up, naks := 7, replay := [sent0] }) (fun t => (t.port 0).st = .training) = true := by
  decide +kernel

/-- `fabOn` with port 0 (X+, member 0) down in a handover to port 1. -/
def handing (h : Handover) : State := (fabOn.modPort 0 fun _ => { st := .down, hand := h, replay := [sent0] }).modPort 1
  fun _ => { st := .up, seen := 0x85000010 }

theorem witness_HandoversComplete :
    (handing (.takeover 1 0 0)).otherEnd 1 5 = some 1 ∧ (handing (.takeover 1 0 0)).otherEnd 1 6 = none ∧
    (let s := fabOn.modPort 1 fun _ => { st := .up, stopFor := some 2 }; (s.port 1).stopFor = some 2 ∧ (s.port 1).empty = true ∧ (s.port 2).stopFor = none) ∧
    (let s := fabOn.modPort 1 fun _ => { st := .up, stopFor := some 2, rxBytes := [256] }; (s.port 1).empty = false) ∧
    (let s := fabOn.modPort 1 fun _ => { st := .up, marks := [(0, 4, false)] }
     (s.port 1).marks.find? (fun x => x.1 = 0) = some (0, 4, false) ∧ s.passed 1 4 = true ∧ (s.port 2).marks.find? (fun x => x.1 = 0) = none ∧
     (s.enqueue 8 ⟨{ flitTo 0x100 0 with lseq := 4 }, 0, 0, some (1, 0, false), true⟩).passed 1 4 = false) ∧
    (up.hashSet 28 = none ∧ (fabOn.port 0).hand = .none) ∧ (handing (.join 1 0)).substitute 0 = some 1 ∧
    (fabOn.modPort 0 fun _ => { st := .down, hand := .join 1 0 }).substitute 0 = none ∧
    (handing (.takeover 1 0 0)).hashSet 0 = some 0 ∧ ((handing (.takeover 1 0 0)).port 0).hand = .takeover 1 0 0 ∧
    ((handing (.join 1 0)).port 0).hand = .join 1 0 := by
  decide +kernel

/-- R272: the flit that the peer has not received moves to the front of the substitute. -/
theorem test_takeover_reply : gives (.takeoverReply 0 0xFFFF) (handing (.takeover 1 0 0)) (fun t =>
    (t.port 0).hand = .none ∧ (t.port 1).resend = [sent0.orig] ∧ (t.port 0).next = 0) = true := by
  decide +kernel

/-- Port 0 up, and a flit for hive 0x100 waiting in its queue. -/
def waiting : State := (p0 { st := .up }).enqueue 0 ⟨flitTo 0x100 0, 0, 0, none, true⟩
/-- Ports 0 and 4 up: hive 0x100 lies toward X+, hive 0xF00 toward X−. -/
def transit : State := (List.range 4).foldl (fun (s : State) m => s.modPort m fun _ => { st := .up }) fabOn

theorem witness_FabricTrafficCompletes_ports :
    ((p0 { st := .down }).port 0).st = .down ∧ ((p0 { st := .up }).port 0).st = .up ∧ fabOn.fenced = false ∧
    ((p0 { st := .up }).port 0).replay.length < 2048 ∧ ({ fabOn with fenced := true } : State).fenced = true ∧
    (let u := waiting.injectAll.setXoff 0; (u.port 0).st = .up ∧ (u.arbitrate 0).isSome = true) ∧
    (let u := (p0 { st := .up }).injectAll.setXoff 0; u.arbitrate 0 = none ∧ (u.port 0).st = .up) ∧
    (let u := (p0 { st := .check }).injectAll.setXoff 0; (u.port 0).st = .check) ∧ (let u := (p0 {}).injectAll.setXoff 0; (u.port 0).st = .off) ∧
    (let u := (p0 { st := .up, replay := List.replicate 2048 sent0 }).injectAll.setXoff 0; 2048 ≤ (u.port 0).replay.length ∧ (u.port 0).st = .up) := by
  decide +kernel

theorem witness_FabricTrafficCompletes_order :
    (p0 { st := .down }).tablesOk ∧ (p0 { st := .up }).tablesOk ∧ waiting.tablesOk ∧ transit.tablesOk ∧ fabOn.tablesOk := by
  refine ⟨?_, ?_, ?_, ?_, ?_⟩ <;> (unfold State.tablesOk; decide +kernel)

/-- A flit that port 0 accepts in order. -/
def inOrder (f : Flit) (r : PortRec) : Bool :=
  r.st = .up && f.isData && !f.nak && r.stopFor = none && f.tc.toNat ≤ 5 && f.lseq = r.rxLast + 1 && r.fits f.vc && r.rxKey = none && !f.mc &&
    f.type = 0 && f.payload ≠ []
/-- Where a flit for a hive goes that arrives at port 0. -/
def goesTo (d : W16) : RouteTo :=
  let f := parseFlit (wire (flitTo d 0))
  transit.routeOf { f with hops := f.hops + 1 } (transit.cpRole 0 = 7)

theorem witness_FabricTrafficCompletes_flits :
    flitCrcOk (wire (flitTo 0x100 1)) = true ∧ flitCrcOk (List.replicate 256 0) = false ∧
    inOrder (parseFlit (wire (flitTo 0x100 0))) (transit.port 0) = true ∧ inOrder (parseFlit (wire (flitTo 0 0))) (transit.port 0) = true ∧
    goesTo 0 = .here ∧ goesTo 0x100 = .out 1 ∧
    (let r : PortRec := { st := .up }; r.fits 0 = true ∧ r.opened [] (flitTo 0 0) = some [7] ∧ (flitTo 0 0).lseq = r.rxLast + 1) ∧
    (let r : PortRec := { st := .up, rxBytes := List.replicate 12 (2 ^ 21), rxPool := List.replicate 12 (2 ^ 21) }; r.fits 0 = false) ∧
    (let b := wire (flitTo 0x100 0); (transit.port 0).tagBad b (parseFlit b) = false) ∧
    ((p0 { st := .check }).port 0).st ≠ .up ∧ (({ st := .up, stopFor := some 2 } : PortRec).stopFor.isSome = true) ∧ ({ flitTo 0 0 with tc := 6 } : Flit).tc.toNat > 5 ∧
    ({ flitTo 0 0 with lseq := 5 } : Flit).lseq ≠ ({ st := .up } : PortRec).rxLast + 1 ∧
    (let f := { flitTo 0 0 with lseq := 5 }; f.lseq ≠ (0xFFFF : W16) + 1 ∧ ((0xFFFF : W16) - f.lseq).toNat ≥ 2 ^ 15) := by
  decide +kernel

theorem witness_FabricTrafficCompletes_tables :
    fabOn.pageUse pgFab = true ∧ (let s := fabOn.modFab fun f => { f with held := true }; s.fab.held = true ∧ s.rtEmpty = true) ∧
    ¬ (fabOn.fab.held = true ∧ fabOn.rtEmpty = true) ∧ (fabOn.modFab fun f => { f with held := true, drained := true }).rtDrained = true ∧
    fabOn.rtDrained = false ∧ fabOn.schedOn = false ∧
    (let s := (fabOn.wr pgFab 0x104 0xC0000032).wr pgFab 0x140 0x00010000; s.schedOn = true ∧ 1 ≤ fld (s.rd pgFab 0x140) 25 16) := by
  decide +kernel

/-- R279, R262: port 0 sends the waiting flit with LSEQ 0; a flit for hive 0x100 that arrives goes on, one for this hive stays. -/
theorem test_fabric_flits :
    gives (.portArbitration 0) waiting (fun t => (t.port 0).queue = [] ∧ (t.port 0).next = 1 ∧ (t.port 0).replay.length = 1) = true ∧
    gives (.chaverFlitReceive 0 (wire (flitTo 0x100 0)) true ⟨0, 0⟩) transit
      (fun t => (t.port 0).rxLast = 0 ∧ ((List.range 4).map fun n => (t.port n).queue.length).sum = 1) = true := by
  decide +kernel

/-! ### Fabric memory -/

/-- An MFM request of context 0 with tag 0 for hive 0x100. -/
def req0 (op : BitVec 4) (sent : Bool) : MfmReq :=
  { tag := 0, id := some id0, ctx := 0, inStep := false, domain := 5, dst := 0x100, addr := 0x0100000000200000, opid := 0, op := op, aop := 1,
    aw := false, size := 4, data := [1, 0, 0, 0], bulk := false, sent := sent, first := 0, last := 0, copies := 1, lost := 0, key := 0, prior := false }
/-- `work` with a COPY that runs, and that request. -/
def asking (op : BitVec 4) (sent : Bool) : State := (busyM mv1).modFab fun f => { f with reqs := [req0 op sent], atomOk := true }
/-- The payload of a request for an address of this hive. -/
def ask (addr : W64) (op aop : BitVec 4) : List Byte := ({ req0 op true with addr := addr, aop := aop } : MfmReq).payload false
/-- `window` with DOMAIN 5 for context 0: every right, every colony; the window takes atomics of every colony. -/
def served : State := (((tables work).wr pgFab 0x164 0xC0000000).modFab fun f => { f with dom := [(0, (0x80000005, 0xFFFF003F))] }).modMem
  fun m => { m with pageKey := m.pageKey ++ [(512, some 0)] }
/-- What the guard answers to a request, with MIN and MAX unsigned. -/
def guardGives (s : State) (p : List Byte) : Served := (s.draw.guard 0 (reqDomain p) (s.domEntry (reqDomain p)) (reqOf p) false).1
/-- A response with a status. -/
def answer (status : Byte) : List Byte := List.replicate 8 0 ++ [status] ++ List.replicate 7 0 ++ [1, 2, 3, 4]

theorem witness_FabricMemoryCompletes_requester :
    (∀ op ∈ [(1 : BitVec 4), 2, 3], (asking op false).mfmReq 0 = some (req0 op false) ∧ (asking op false).mfmMay (req0 op false) = true) ∧
    (asking 3 false |>.modFab fun f => { f with atomOk := false }).mfmMay (req0 3 false) = false ∧ (req0 3 false).owner = some id0 ∧
    ({ req0 1 false with id := none } : MfmReq).owner = none ∧
    (asking 1 true).mfmReq (BitVec.ofNat 32 (ofBytes (((answer 0).drop 4).take 4))) = some (req0 1 true) ∧ (req0 1 true).sent = true ∧
    (asking 1 true).mfmReq 9 = none ∧ (req0 1 false).sent = false ∧ (req0 1 true).dst ≠ 0x200 ∧ ((answer 2).getD 8 0).toNat = 2 ∧
    (let s := (asking 1 true).modFab fun f => { f with held := true, hiveSh := [(0x100, 8)] }
     s.mayInject ((req0 1 true).message true) = false) ∧ (asking 1 true).mayInject ((req0 1 true).message true) = true ∧
    (asking 3 true).mayInject ((req0 3 true).message true) = true ∧
    max (asking 3 true).now (0 + cdiv ((asking 3 true).mfmBound (req0 3 true)) 4) < 0 + min 1500 ((asking 3 true).mfmBound (req0 3 true)) ∧
    (State.reset : State).pageUse pgFab = false ∧ fld (up.rd pgFab 0x170) 9 0 = 0 ∧
    ((answer 0).getD 8 0).toNat = 0 ∧ ((answer 1).getD 8 0).toNat = 1 ∧
    max (asking 1 true).now (0 + cdiv ((asking 1 true).mfmBound (req0 1 true)) 4) < 0 + (asking 1 true).mfmBound (req0 1 true) ∧
    (asking 2 true).mfmReq 0 = some (req0 2 true) ∧ bit (fabOn.rd pgFab 0x104) 31 = true ∧ fabOn.fab.atomOk = false ∧ fabOn.pageUse pgFab = true ∧
    (let s := (up.wr pgFab 0x174 0x80000005).modFab fun f => { f with dom := [(1, (0x80000005, 0))] }
     bit (s.rd pgFab 0x174 &&& 0x8FFFFFFF) 31 = true ∧ ∃ p ∈ s.fab.dom, p.1 ≠ fld (s.rd pgFab 0x170) 9 0 ∧ bit p.2.1 31 = true ∧
      fld p.2.1 15 0 = fld (s.rd pgFab 0x174 &&& 0x8FFFFFFF) 15 0) := by
  decide +kernel

theorem witness_FabricMemoryCompletes_target :
    (reqOf (ask 0x200000 1 0)).op ≠ 3 ∧ guardGives served (ask 0x200000 1 0) = .ok [0, 0, 0, 0] ∧ guardGives up (ask 0x200000 1 0) = .refused ∧
    guardGives (served.modMem fun m => { m with hbmPoison := [(0x100000, true)] }) (ask 0x200000 1 0) = .poison (St.ecc, 0x304) ∧
    (reqOf (ask 0x200000 3 1)).op = 3 ∧ ofBytes (((ask 0x200000 3 1).drop 18).take 2) ≤ 500 ∧
    (let p := (ask 0x200000 3 1).set 18 0xF5 |>.set 19 1; (reqOf p).op = 3 ∧ ofBytes ((p.drop 18).take 2) > 500) ∧
    up.dedupTakes 0 = false ∧ served.dedupTakes 0x100 = true ∧ Tab.get none served.fab.dedup (served.dedupAt 0x100 0 / 32) = none ∧
    served.starved ownPart (served.dedupAt 0x100 0 / 65536) = false ∧
    okIs (served.hbmRead served.dedupTag (served.dedupAt 0x100 0) 32) (List.replicate 32 0) = true ∧
    failed ((served.modMem fun m => { m with hbmPoison := [(0x800000, true)] }).hbmRead served.dedupTag (served.dedupAt 0x100 0) 32) = true ∧
    (match guardGives ({ served with boot := { served.boot with hbmUp := 0, sdEnded := 0 } } : State) (ask 0x200000 1 0) with | .wait _ => true | _ => false) = true ∧
    (let s := served.modFab fun f => { f with serveQ := [⟨0x100, ask 0x200000 2 0, 0, none⟩] }
     (reqOf (ask 0x200000 2 0)).op = 2 ∧ ∃ y ∈ s.fab.serveQ, y.src = 0x100 ∧ (reqOf y.payload).op = 2) ∧
    guardGives served (ask 0x0000300000000000 3 1) = .ok [0, 0, 0, 0] ∧
    (let s := served.modFab fun f => { f with dedup := [(served.dedupAt 0x100 0 / 32, some ⟨0, 0, 0, []⟩)] }
     Tab.get none s.fab.dedup (s.dedupAt 0x100 0 / 32) = some ⟨0, 0, 0, []⟩ ∧ s.now < 0 + 2000) := by
  decide +kernel

/-- R299: an atomic on event counter 3 adds once; the same OPID again answers from the window. -/
theorem test_remote_atomic_once :
    gives (.mfmRequest 0x100 (ask 0x0000300000000003 3 1)) served (fun t => t.ctr 3 = 1 ∧
      gives (.mfmRequest 0x100 (ask 0x0000300000000003 3 1)) t (fun u => u.ctr 3 = 1 ∧ u.rd pgFab 0x184 = 1)) = true := by
  decide +kernel

/-! ### Collectives -/

/-- Group 0 of context 0: hives 0 and 0x100, a timeout of 10 ms; and the group of this hive alone. -/
def pairGrp : GrpRec := { words := [0x88000000, 0x1000, 10, 0] }
def soloGrp : GrpRec := { words := [0x80000000, 0, 10, 0] }
/-- A COLLECTIVE of unsigned words on group 0: one element a shard; source at 0, destination at 128. -/
def coRun (op : Nat) (n m : Nat) (c : Option CollRun) : Run :=
  { runOf (desc 0x40 (hostSlot 0 0 10 n 1 ++ hostSlot 1 128 10 m 1 ++ [(29, BitVec.ofNat 32 (op * 2 ^ 28 + 0x80000)), (30, 1)])) with coll := c }
/-- Its state with a group. -/
def coState (g : GrpRec) (r : Run) : State := ((busyM r).setGrp 0 g)
/-- The operation of two members, at rank 0 after it has started. -/
def two (op : Nat) : CollRun := { startColl (coState pairGrp (coRun op 2 1 none)) (coRun op 2 1 none).words with op := op, begun := true }
/-- A message of rank 1 to a running operation. -/
def from1 (x : CollRun) (kind chunk shard : Nat) (pass : Bool) (count : W32) : List Byte := { x with rank := 1 }.header kind chunk shard 0 false pass count

theorem witness_CollectivesComplete_start :
    (coState pairGrp (coRun 1 2 1 none)).grpRunning 0 = true ∧ (fld (up.rd pgColl 0x100) 7 0 = 0 ∧ up.grpRunning 0 = false) ∧
    up.pageUse pgColl = true ∧ up.grpBad pairGrp.words = false ∧ up.grpBad (pairGrp.words.set 2 1001) = true ∧
    up.grpBad (pairGrp.words.set 2 1000) = false ∧
    (State.reset : State).pageUse pgColl = false ∧
    (let s := headed (coRun 1 2 1 none).words none
     s.readyHead 0 0 = some (fetched (coRun 1 2 1 none).words none) ∧ s.collMayStart 0 = true ∧ s.startBad 0 (coRun 1 2 1 none).words = none ∧
     (s.setGrp 0 pairGrp).collBad 0 (coRun 1 2 1 none).words = none ∧ s.collBad 0 (coRun 1 2 1 none).words = some 29 ∧
     (s.setGrp 0 pairGrp).collBad 0 (coRun 1 3 1 none).words = some 11) ∧
    ({ headed (coRun 1 2 1 none).words none with runs := [mm1] } : State).collMayStart 0 = false := by
  decide +kernel

/-- A COLLECTIVE that has started and not yet acted. -/
def waits0 (g : GrpRec) (r : Run) : Run := { r with coll := some (startColl (coState g r) r.words) }

/-- One that waits for its banks; one without an operation; one that goes on; of two members, and of one; one whose source fails. -/
theorem witness_CollectivesComplete_begin :
    (let r := { coRun 1 2 1 none with wants := [0] }; ({ coState pairGrp r with cells := [(0, { phys := some 0 })] } : State).bankWait r = true) ∧
    (let r := coRun 1 2 1 none; (coState pairGrp r).run? id0 = some r ∧ opcodeOf r.words = 0x40 ∧ (coState pairGrp r).bankWait r = false ∧ r.coll = none) ∧
    ((coRun 1 2 1 (some (two 1))).coll = some (two 1) ∧ (two 1).begun = true ∧ (coState pairGrp (coRun 1 2 1 (some (two 1)))).bankWait (coRun 1 2 1 (some (two 1))) = false) ∧
    (let r := waits0 pairGrp (coRun 1 2 1 none); let x := startColl (coState pairGrp r) r.words
     (coState pairGrp r).run? id0 = some r ∧ (coState pairGrp r).bankWait r = false ∧ r.coll = some x ∧ x.begun = false ∧ x.inbox = [] ∧
     x.n > 1 ∧ x.reduces = true ∧ x.mc = false ∧ x.credits = 0 ∧ x.waitP = [] ∧ x.granted = [] ∧ x.missing r ≠ []) ∧
    (let r := waits0 soloGrp (coRun 1 1 1 none); let s := coState soloGrp r; let x := startColl s r.words
     r.coll = some x ∧ x.begun = false ∧ x.inbox = [] ∧ x.n = 1 ∧ x.idle r = true ∧ x.trap = false ∧
     ((s.swapPorts r ((List.range (min 256 (x.chunks r))).map (x.group + ·)) (([x.pred, x.succ].filter fun k => k ≠ x.rank).map fun k =>
       (x.ranks.getD k 0).toNat)).collLocal r x).isOk = true) ∧
    (let r := waits0 soloGrp { coRun 1 1 1 none with words := desc 0x40 (slotOf 0 0 10 1 1 2 ++ hostSlot 1 128 10 1 1 ++ [(29, 0x10080000), (30, 1)]) }
     let s := coState soloGrp r; let x := startColl s r.words
     r.coll = some x ∧ failed ((s.swapPorts r ((List.range (min 256 (x.chunks r))).map (x.group + ·)) (([x.pred, x.succ].filter fun k => k ≠ x.rank).map fun k =>
       (x.ranks.getD k 0).toNat)).collLocal r x) = true) := by
  decide +kernel

/-- R314: a group of one hive copies its element and ends. -/
theorem test_collective_alone : (let r := waits0 soloGrp (coRun 1 1 1 none)
    gives (.collective id0) (coState soloGrp r) fun t => (t.run? id0).map (·.res) = some (some (0, 0)) ∧ t.mem.host.read 128 4 = (coState soloGrp r).mem.host.read 0 4) = true := by
  decide +kernel

/-- The premises that a message meets at a running operation. -/
def hits (s : State) (p : List Byte) (r : Run) (x : CollRun) : Bool :=
  let m := parseColl p
  let g := s.grp m.group
  bit (wd g.words 0) 31 && fld (wd g.words 0) 23 16 = m.gen && (s.grpRanks g.words).contains 0x100 &&
  (s.runs.find? fun y => y.res.isNone && match y.coll with | some z => z.group = m.group && z.opseq = m.opseq | none => false) = some r &&
  s.run? id0 = some r && r.coll = some x && x.begun && x.inbox.isEmpty && !s.bankWait r

/-- A message of another kind, one of no group entry, and one for an operation that has not started. -/
theorem witness_CollectivesComplete_message :
    (let p := from1 (two 1) 3 0 0 false 4; let m := parseColl p; let s := coState pairGrp (coRun 1 2 1 none)
     m.kind = 3 ∧ m.kind ≠ 1 ∧ bit (wd (up.grp m.group).words 0) 31 = false ∧ bit (wd (s.grp m.group).words 0) 31 = true ∧
     fld (wd (s.grp m.group).words 0) 23 16 = m.gen ∧ 0x100 ∈ s.grpRanks (s.grp m.group).words ∧
     (s.runs.find? fun y => y.res.isNone && match y.coll with | some z => z.group = m.group && z.opseq = m.opseq | none => false) = none) := by
  decide +kernel

theorem witness_CollectivesComplete_grant :
    (let x := { two 1 with sentP := [(1, 0)] }; let r := coRun 1 2 1 (some x); let s := coState pairGrp r; let p := from1 x 3 0 x.root false 4
     hits s p r x = true ∧ (parseColl p).kind = 3 ∧ (parseColl p).sh = x.sh ∧ (parseColl p).op = x.op ∧ (parseColl p).shard = x.root ∧
     (parseColl p).chunkLog = x.chunkLog ∧ (parseColl p).red = x.red ∧ (parseColl p).trap = x.trap ∧
     x.waitP = [] ∧ x.fwdF = [] ∧ x.missing r ≠ [] ∧ (∀ c < x.chunks r, (x.pred, c) ∈ x.sentP)) ∧
    (let x := two 1; let r := coRun 1 2 1 (some x); let p := from1 x 3 0 (x.root + 1) false 4
     hits (coState pairGrp r) p r x = true ∧ (parseColl p).shard ≠ x.root) := by
  decide +kernel

theorem witness_CollectivesComplete_partial :
    (let x := two 1; let r := coRun 1 2 1 (some x); let s := coState pairGrp r; let p := from1 x 1 0 0 false 1 ++ [5, 0, 0, 0]; let m := parseColl p
     let s1 := s.modRun id0 fun t => { t with coll := some { x with inbox := [(0x100, p)], lastMsg := s.now } }
     hits s p r x = true ∧ m.kind = 1 ∧ x.op = 1 ∧ x.waitP = [] ∧ x.credits = 0 ∧ x.trap = false ∧ isInt (slot r.words 0).fmt = true ∧
     m.shard = x.rank ∧ m.shard < x.n ∧ m.chunk < x.chunks r ∧
     (match s1.ownChunk { r with coll := some { x with inbox := [(0x100, p)], lastMsg := s.now } } { x with lastMsg := s.now } m.shard m.chunk with
      | .ok (own, u, _) => (u.putElems r.who (slot r.words 1) (x.dstAt m.shard + (x.span r m.chunk).1)
          (((bytesToWords own.length m.data).zip own).map fun q => fromAcc (slot r.words 1).fmt (foldOp (slot r.words 0).fmt x.red q.1 q.2))).isOk
      | _ => false) = true) := by
  decide +kernel

theorem witness_CollectivesComplete_final :
    (let x := two 2; let r := coRun 2 1 2 (some x); let s := coState pairGrp r; let p := from1 x 2 0 1 false 1 ++ [5, 0, 0, 0]; let m := parseColl p
     hits s p r x = true ∧ m.kind = 2 ∧ x.op = 2 ∧ x.succ ∉ x.granted ∧ m.shard < x.n ∧ m.chunk < x.chunks r ∧ m.shard ≠ x.rank ∧
     (s.putElems r.who (slot r.words 1) (x.dstAt m.shard + (x.span r m.chunk).1) [5]).isOk = true) := by
  decide +kernel

/-- A TOKEN's premises, and those of an ABORT with a reason. -/
def tokenOk (pass : Bool) : Bool :=
  let x := { two 1 with rank := 1, sentP := [(0, 0)], doneP := [(1, 0)] }
  let r := coRun 1 2 1 (some x)
  let p := from1 x 4 0 0 pass 0
  hits (coState pairGrp r) p r x && (parseColl p).kind = 4 && (parseColl p).pass = pass && x.idle r && x.n > 1
def abortOk (reason : W32) : Bool :=
  let x := two 1
  let r := coRun 1 2 1 (some x)
  let p := from1 x 5 0 0 false (reason * 0x1000000)
  hits (coState pairGrp r) p r x && (parseColl p).kind = 5 && fld (parseColl p).count 31 24 = reason.toNat

theorem witness_CollectivesComplete_token :
    tokenOk false = true ∧ tokenOk true = true ∧ abortOk 1 = true ∧ abortOk 2 = true ∧ abortOk 3 = true ∧
    bestOf (fun (a b : Run) => a.heardAt < b.heardAt) ((coState pairGrp (coRun 1 2 1 (some (two 1)))).runs.filter fun y =>
      y.res.isNone && match y.coll with | some z => z.group = 0 && z.n > 1 | none => false) = some (coRun 1 2 1 (some (two 1))) := by
  decide +kernel

/-- R310, R320: the last member adds its own value 0x3F800000 to the partial 5. -/
theorem test_partial : (let x := two 1; let r := coRun 1 2 1 (some x)
    gives (.partialChunk 0x100 (from1 x 1 0 0 false 1 ++ [5, 0, 0, 0])) (coState pairGrp r) (fun t => t.mem.host.read 128 4 = [5, 0, 0x80, 0x3F])) = true := by
  decide +kernel

/-! ### Fences, pairs, health, supply, heat -/

theorem witness_FencesAndIslandsComplete :
    up.fenced = false ∧ up.boot.hub = true ∧ ({ up with fenced := true } : State).fenced = true ∧ State.reset.boot.hub = false ∧
    (up.cell 0).phys ≠ none ∧ (up.cell 127).phys = none ∧
    (∃ r ∈ (busy mv1).runs, r.cell = some 0 ∧ (busy mv1).run? r.id = some r ∧ r.res = none ∧ isAtomic r.words = false) ∧
    (let r := runOf (desc 0x40 []); (busy r).run? id0 = some r ∧ r.res = none ∧ 7 ∈ (busy r).agentDies r) := by
  decide +kernel

/-- R322, R325: a running command ends without a record and the ports go down. -/
theorem test_fence : gives .lockstepMismatch ((p0 { st := .up }).enqueue 0 ⟨flitTo 0x100 0, 0, 0, none, true⟩)
    (fun t => t.fenced = true ∧ t.mech = 1 ∧ (t.port 0).st = .down ∧ t.runs = []) = true := by
  decide +kernel

/-- Cells 0 and 16 in BIST; a reserve pair 2 that has lost its cell 32, with cell 48 ready. -/
def bistPair : State := { up with cells := [(0, { phys := some 0, bist := true }), (16, { phys := some 1, bist := true })] }
def lostPair (x : CellRec) : State := { up with pairs := [⟨2, 16, 32, false, true⟩], cells := [(48, x)] }

theorem witness_PairsAndViasAreRepaired :
    (bistPair.cell 0).bist = true ∧ (bistPair.cell 16).bist = true ∧ (bistPair.cell 0).phys = some 0 ∧ (bistPair.cell 16).phys = some 1 ∧
    0 / 16 * 17 + 0 ≠ 16 / 16 * 17 + 1 ∧ (up.cell 0).bist = false ∧ up.pairs.find? (fun q => q.n = 2 && (q.lostA || q.lostB)) = none ∧
    (lostPair {}).suitable ⟨2, 16, 32, false, true⟩ 48 = false ∧
    (let s := lostPair { phys := some 0, ready := true }
     (s.pairs.find? fun q => q.n = 2 && (q.lostA || q.lostB)) = some ⟨2, 16, 32, false, true⟩ ∧ s.suitable ⟨2, 16, 32, false, true⟩ 48 = true ∧
      s.atBoundary 48 = true) ∧
    (∀ y < 128, (lostPair {}).suitable ⟨2, 16, 32, false, true⟩ y = false) ∧
    ({ up with cells := [(3, { phys := some 16, takeover := true })] } : State).logicalOf 0 16 = some 3 ∧ up.logicalOf 0 16 = none ∧
    (∀ n ∈ [3, 4], Tab.get 0 ((up.modPhys 5 fun r => { r with vias := [(0, n), (64, n)] }).physCell 5).vias 0 = n) ∧ 3 < 4 := by
  decide +kernel

/-- R340, R339: the fifth via of a control bundle retires its cell, and the spare takes cell 0's number. -/
theorem test_control_via : gives (.viaFailure (.control 0)) (up.modPhys 0 fun r => { r with vias := [(64, 4)] })
    (fun t => (t.physCell 0).retired = true ∧ (t.cell 0).phys = some 16 ∧ (t.cell 0).takeover = true) = true := by
  decide +kernel

/-- `up` with a health record for unit 0. -/
def unit0 (r : HealthRec) : State := { up with health := [(0, r)] }

theorem witness_HealthRoundScoresEveryUnit :
    up.tablesOk ∧ up.boot.hub = true ∧ State.reset.boot.hub = false ∧
    (let r := (unit0 { st := .probation, signal := some 5, defer := true }).unit 0; r.signal = some 5 ∧ r.defer = true ∧ r.st = .probation) ∧
    (let r := (unit0 { signal := some 5, defer := true }).unit 0; r.signal = some 5 ∧ r.defer = true ∧ r.st ≠ .probation) ∧
    (let r := (unit0 { st := .probation, highAt := some 0 }).unit 0; r.highAt = some 0 ∧ r.st = .probation) ∧
    (up.unit 5).signal = none ∧ (up.unit 5).highAt = none := by
  refine ⟨tables_up.1, ?_⟩
  decide +kernel

/-- R342: up to 10 corrected errors an hour cost nothing, 20 an hour cost 100, 160 and more 400. -/
theorem test_error_penalty : errPenalty 240 = 0 ∧ errPenalty 480 = 100 ∧ errPenalty 3840 = 400 ∧ errPenalty 100000 = 400 := by decide +kernel

/-- `up` with power as given by a change. -/
def pow (f : Power → Power) : State := up.modPower f

theorem witness_SupplySupervisionCompletes :
    up.power.supply ≠ .warn ∧ (pow fun p => { p with supply := .warn }).power.supply = .warn ∧ up.power.brown = none ∧ up.power.overV = none ∧
    (pow fun p => { p with brown := some ⟨0, 9000⟩ }).power.brown = some ⟨0, 9000⟩ ∧
    (pow fun p => { p with overV := some ⟨0, 13500⟩ }).power.overV = some ⟨0, 13500⟩ ∧
    (let s := pow fun p => { p with supply := .resume, riseAt := some 0, dip := some ⟨0, 11000⟩ }
     s.power.riseAt = some 0 ∧ s.power.supply = .resume ∧ s.power.dip = some ⟨0, 11000⟩ ∧ s.logOn = true ∧ s.log.wait.length < 1024) ∧
    (let s := (busy mv1).modPower fun p => { p with supply := .warn, dip := some ⟨0, 11000⟩ }
     s.run? id0 = some mv1 ∧ s.power.dip = some ⟨0, 11000⟩ ∧ mv1.suspEnded = false ∧ s.power.supply ≠ .ok) ∧
    up.power.riseAt = none ∧ up.run? id0 = none ∧ up.power.dip = none ∧ 10600 ≥ 10600 ∧ 11500 ≥ 11500 ∧ ({ mv1 with suspEnded := true } : Run).suspEnded = true := by
  decide +kernel

/-- R353, R354: 11.199 V warns and 11.2 V does not; 13.401 V is an over-voltage and 13.4 V is not. -/
theorem test_supply_limits :
    gives (.vinMainWarning 11199) up (fun t => t.power.supply = .warn ∧ t.power.dip = some ⟨0, 11199⟩) = true ∧
    gives (.vinMainWarning 11200) up (fun t => t.power.supply = .ok) = true ∧
    gives (.overVoltage 13401) up (fun t => t.power.overV = some ⟨0, 13401⟩) = true ∧
    gives (.overVoltage 13400) up (fun t => t.power.overV = none) = true := by
  decide +kernel

theorem witness_ResetsLoseTheWork :
    up.power.brown = none ∧ up.power.running = none ∧ (pow fun p => { p with running := some .flush }).power.running ≠ none ∧
    (pow fun p => { p with brown := some ⟨0, 9000⟩ }).power.brown ≠ none ∧ up.boot.pwrGood = true ∧ up.boot.rails = true ∧
    State.reset.boot.pwrGood = false ∧ (up.modBoot fun b => { b with rails := false }).boot.rails = false ∧
    (let s := pow fun p => { p with aux := some ⟨0, 2900⟩ }; s.power.aux ≠ none ∧ s.power.auxEnd = none) ∧ up.power.aux = none ∧
    (let s := (pow fun p => { p with tripped := true }).modBoot fun b => { b with rails := false }; s.power.tripped = true ∧ s.boot.pwrGood = true) ∧
    (let s := up.modBoot fun b => { b with rails := false }; ¬ (s.boot.rails = true ∨ s.power.tripped = true)) ∧
    up.boot.resetN = true ∧ up.boot.perstN = true ∧ State.reset.boot.resetN = false ∧ State.reset.boot.perstN = false := by
  decide +kernel

/-- R357: 10.199 V resets and 10.2 V does not; R353: 2.949 V on VIN_AUX resets, and the excursion ends at 3.05 V. -/
theorem test_brownout : gives (.brownout 10199) work (fun t => t.ctx = [] ∧ t.boot.cause = 4 ∧ t.boot.mgmt = true) = true ∧
    gives (.vinAuxReset 2949) work (fun t => t.ctx = [] ∧ t.boot.cause = 1 ∧ t.power.aux = some ⟨0, 2949⟩ ∧
      gives (.vinAuxReset 3049) t (fun u => u.power.auxEnd = none) && gives (.vinAuxReset 3050) t (fun u => u.power.auxEnd = some 0)) = true ∧
    gives (.brownout 10200) work (fun t => t.ctx = work.ctx ∧ t.boot.cause = 0 ∧ t.power.supply = .warn) = true := by
  decide +kernel

/-- `up` with the readings of some sensors, in 0.25 °C. -/
def heat (l : List (Nat × Int)) : State := pow fun p => { p with sensors := l.map fun q => (q.1, { reading := q.2 }) }

/-- In the state comb 0 draws 400 W, and its power has risen and fallen by the limit within the window. -/
def drawing (s : State) : State := s.modBase fun b => { b with slew := [(0, [400, 400])], rise := [(0, 160)], fall := [(0, 160)] }

theorem witness_ThermalControlCompletes :
    (let s := heat [(356, 340)]; thr 33 2 ≤ s.domTemp 33 ∧ s.level 33 = 0 ∧ s.logOn = true ∧ s.log.wait.length < 1024 ∧
      nextLevel 33 0 (s.domTemp 33) = 2) ∧
    (let s := (heat [(356, 320)]).modPower fun p => { p with levels := [(33, 2)] }; s.level 33 = 2 ∧ thr 33 3 ≤ s.domTemp 33 ∧ s.domTemp 33 < thr 33 2) ∧
    up.domTemp 33 < thr 33 1 ∧ up.domTemp 33 < thr 33 0 ∧
    up.layerDead 0 = false ∧ (clockDoms 0).filter (fun d => up.level d = 2) = [] ∧
    (let s := (heat [(356, 340)]).modPower fun p => { p with levels := [(33, 2)] }
     s.layerDead 0 = false ∧ ∃ d ∈ (clockDoms 0).filter fun d => s.level d = 2, thr d 2 ≤ s.domTemp d) ∧
    (let s := (heat [(356, 339)]).modPower fun p => { p with levels := [(33, 2)] }
     (∀ d ∈ (clockDoms 0).filter fun d => s.level d = 2, s.domTemp d < thr d 2) ∧ (clockDoms 0).filter (fun d => s.level d = 2) ≠ []) ∧
    (pow fun p => { p with sensors := (List.range 16).map fun x => (x, { suspect := true }) }).layerDead 0 = true ∧
    (let s := (heat [(356, 340)]).modPower fun p => { p with levels := [(33, 2)] }
     600 < min (s.ceiling 0) s.cellClk ∧ s.stepPower 0 (min (s.ceiling 0) s.cellClk) ≤ s.downRoom 0) ∧
    (let s := ((heat [(356, 340)]).modPower fun p => { p with levels := [(33, 2)] }).setCeiling 0 600; min (s.ceiling 0) s.cellClk ≤ 600) ∧
    (let s := up.setCeiling 0 700; min (s.ceiling 0) s.cellClk + 50 ≤ s.cellClk ∧ s.stepPower 0 700 ≤ s.upRoom 0) ∧
    (up.cellClk < min (up.ceiling 0) up.cellClk + 50) ∧
    (let s := drawing ((heat [(356, 340)]).modPower fun p => { p with levels := [(33, 2)] }); s.downRoom 0 < s.stepPower 0 (min (s.ceiling 0) s.cellClk)) ∧
    (let s := (drawing up).setCeiling 0 700; s.upRoom 0 < s.stepPower 0 700) ∧
    (pow fun p => { p with tripped := true }).power.tripped = true ∧ up.power.tripped = false ∧
    (∀ p ∈ up.cells, p.2.run = none → (up.storeReg pgPower 0x104 12).cellClk ≤ p.2.mhz) ∧
    (let s := up.modCell 0 fun r => { r with power := 20, mhz := 600 }
     let rise := cdiv ((s.cell 0).power * (min s.cellClk (s.ceiling 0) - min (s.cell 0).mhz (s.ceiling 0))) (max 1 (min (s.cell 0).mhz (s.ceiling 0)))
     rise ≤ s.upRoom 0 ∧ (drawing s).upRoom 0 < rise) ∧
    thr (sensorDom 403) 4 = 420 ∧ up.boot.rails = true ∧ (State.reset : State).boot.rails = false ∧
    (let r := (pow fun p => { p with sensors := [(0, { nbAt := some 3 })] }).sensor 0; r.nbAt = some 3 ∧ r.devAt = none) ∧
    (let r := (pow fun p => { p with sensors := [(0, { devAt := some 3, nbAt := some 4 })] }).sensor 0; r.devAt = some 3 ∧ r.nbAt = some 4) ∧
    ((up.sensor 5).devAt = none ∧ (up.sensor 5).nbAt = none ∧ (up.sensor 5).suspect = false) ∧
    (let r := (pow fun p => { p with sensors := [(0, { devAt := some 3 })] }).sensor 0; r.suspect = false ∧ r.devAt = some 3 ∧ r.nbAt = none) ∧
    (let r := (pow fun p => { p with sensors := [(0, { suspect := true, okAt := some 3 })] }).sensor 0; r.suspect = true ∧ r.okAt = some 3) ∧
    up.pageUse pgPower = true ∧ ({ up with fenced := true } : State).pageUse pgPower = false := by
  decide +kernel

theorem witness_tables_in_order :
    (p0 { st := .up }).tablesOk ∧ (unit0 { st := .probation, signal := some 5, defer := true }).tablesOk ∧ (heat [(356, 340)]).tablesOk ∧
    (heat [(0, 80), (403, 80)]).tablesOk := by
  refine ⟨?_, ?_, ?_, ?_⟩ <;> (unfold State.tablesOk; decide +kernel)

/-- The control values of a cross-check of equal readings, with no sensor suspect before. -/
theorem check_control (v : Int) (x : Nat) (hx : x < 404) : (up.readSensors (List.replicate 404 v) []).control x = v := by
  have h := State.readSensors_sensor up (List.replicate 404 v) [] (by decide) x hx
  have hg : (List.replicate 404 v).getD x 0 = v := by
    rw [List.getD_eq_getElem?_getD, List.getElem?_replicate_of_lt hx]; rfl
  obtain ⟨_, hu⟩ := State.foldl_modSensor (fun x r => { r with reading := (List.replicate 404 v).getD x 0 }) (List.range 404)
    List.nodup_range up (by decide)
  have hx' : up.sensor x = {} := rfl
  unfold State.control
  rw [h]
  split
  · unfold State.checkSensor
    simp only [hu x, List.mem_range, hx, if_true, hg, hx']
    rfl
  · rw [hg, hx']; rfl

/-- A cross-check whose readings are all 125 °C finds a control value at shut-down, and one at 20 °C none. -/
theorem witness_ThermalControlCompletes_check :
    (∃ t, exec (.sensorCrossCheck (List.replicate 404 500) []) up = .next t ∧ thr (sensorDom 403) 4 ≤ t.control 403 ∧ t.power.tripped = true) ∧
    ∃ t, exec (.sensorCrossCheck (List.replicate 404 80) []) up = .next t ∧ ∀ x < 404, t.control x < thr (sensorDom x) 4 := by
  have keep (v : Int) (x : Nat) (hx : x < 404) :
      (((up.crossCheck (List.replicate 404 v) []).notify up).control x) = v := by
    rw [State.control, State.sensor, State.notify_power, ← State.sensor, State.crossCheck_sensor]
    exact check_control v x hx
  have low : ∀ x < 404, (80 : Int) < thr (sensorDom x) 4 := by decide +kernel
  have step (v : Int) : exec (.sensorCrossCheck (List.replicate 404 v) []) up =
      .next ((up.crossCheck (List.replicate 404 v) []).notify up) := rfl
  refine ⟨⟨_, step 500, ?_, ?_⟩, ⟨_, step 80, fun x hx => ?_⟩⟩
  · rw [keep 500 403 (by decide)]; decide
  · rw [State.notify_power]; unfold State.crossCheck
    rcases State.tripFirst_cases (up.readSensors (List.replicate 404 500) []) with ⟨_, h⟩ | ⟨h, _⟩
    · exact h
    · have := h 403 (by decide)
      rw [check_control 500 403 (by decide)] at this
      exact absurd this (by decide)
  · rw [keep 80 x hx]; exact low x hx

/-- R360, R363: a stack trips at 105 °C and not at 104.75 °C. -/
theorem test_trip :
    gives (.thermalTrip 403 420) up (fun t => t.power.tripped = true ∧ t.boot.rails = false ∧ t.boot.cause = 5) = true ∧
    gives (.thermalTrip 403 419) up (fun t => t = up) = true := by
  refine ⟨?_, ?_⟩ <;> decide +kernel

/-! ### The power-on order and persistent writes -/

/-- A state in the power-on order: management runs, the supply is in order. -/
def boot0 (f : Boot → Boot) : State := { (State.reset : State) with
  boot := f { resetN := true, perstN := true, pwrGood := true, mgmt := true }, power := { vinMain := 12000 }, sec := { validA := true } }
/-- After step 3b: the sources of the fabric combs are lit. -/
def boot4 : State := (boot0 fun b => { b with rails := true, hub := true, hp0Ended := true }).modBase fun b => { b with
  src := (List.range 72).map fun n => (n, { st := .active }) }

/-- `boot4` with step 3c ended for every source. -/
def boot5 : State := boot4.modBoot fun b => { b with srcEnded := (List.range 108).map fun n => (n, true) }

theorem witness_PowerOnStepsComplete_start :
    State.reset.boot.mgmt = false ∧ up.boot.mgmt = true ∧ State.reset.power.aux = none ∧
    (let s := (State.reset : State).modPower fun p => { p with aux := some ⟨0, 2900⟩ }; s.power.aux ≠ none ∧ s.power.auxEnd = none) ∧
    (let s := (State.reset : State).modPower fun p => { p with aux := some ⟨0, 2900⟩, auxEnd := some 5 }; s.power.auxEnd ≠ none ∧ s.boot.mgmt = false) ∧
    (let s := boot0 id; s.boot.mgmt = true ∧ s.boot.boardTest = false ∧ s.boot.pwrGood = true ∧ 10600 ≤ s.power.vinMain ∧ s.boot.resetN = true ∧
      (s.boot.cause = 3 → s.boot.perstN = true) ∧ s.boot.rails = false ∧ s.power.tripped = false) ∧
    (let s := (boot0 fun b => { b with cause := 5 }).modPower fun p => { p with tripped := true, coolAt := some 0 }
     s.power.tripped = true ∧ s.power.coolAt = some 0 ∧ s.boot.cause = 5) ∧
    (let s := (boot0 id).modPower fun p => { p with tripped := true, coolAt := some 0 }
     let t : State := { s with clock := { now := 30000000 } }
     s.boot.cause ≠ 5 ∧ s.now < 0 + 30000000 ∧ 0 + 30000000 ≤ t.now) ∧
    (let s := boot0 fun b => { b with rails := true }
     s.boot.hub = false ∧ s.boot.rails = true ∧ s.boot.perstN = true ∧ s.boot.resetN = true ∧ (s.sec.validA = true ∨ s.sec.validB = true) ∧
      s.boot.hp0Ended = false) := by
  decide +kernel

theorem witness_PowerOnStepsComplete_units :
    boot4.boot.hub = true ∧ Tab.get false boot4.boot.srcEnded 5 = false ∧ isSpare 5 = false ∧ isSpare 8 = true ∧
    boot4.group7Over = false ∧ 5 / 9 ≠ 7 ∧ 63 / 9 = 7 ∧ boot5.group7Over = true ∧ boot5.fabricEnded = true ∧ boot5.boot.hub = true ∧ boot5.boot.rails = true ∧
    (boot5.diePort 8).ended = false ∧ (boot0 id).boot.hub = false ∧
    (let s := boot5.modBoot fun b => { b with srcEnded := Tab.set false b.srcEnded 5 false }; s.group7Over = true ∧ Tab.get false s.boot.srcEnded 5 = false) ∧
    (let s := (boot5.modDp 8 fun r => { r with ended := true, st := .training }).modBoot fun b => { b with die := some 8, dieStep := 0 }
     (s.diePort 8).ended = true ∧ s.boot.die = some 8 ∧ s.boot.dieStep = 0 ∧ (s.diePort 8).st ≠ .disputed ∧
     s.mapsDiffer 8 [1] [] = true ∧ s.mapsDiffer 8 (List.replicate 28 0xFFFF) (List.replicate 28 0xFFFF) = false) ∧
    (boot4.diePort 8).ended = false ∧ (boot4.diePort 8).st ≠ .up ∧
    (let s := boot4.modDp 8 fun r => { r with st := .up }; (s.diePort 8).st = .up ∧ s.boot.sdEnded.getLsbD 0 = false) ∧
    (let s := boot4.modDp 0 fun r => { r with st := .up }; (s.diePort 0).st = .up ∧ s.boot.combEnded.getLsbD 0 = false ∧
      s.ctx = [] ∧ s.cells = []) ∧
    boot4.boot.die ≠ some 8 ∧ boot4.fab.serveQ = [] ∧ (0x1FFFF : BitVec 17).toNat = 2 ^ 17 - 1 ∧ (0x1FFF7 : BitVec 17).toNat = 2 ^ 17 - 1 - 2 ^ 3 ∧
    (∀ d ∈ [0, 8], let s := (boot4.modDp d fun r => { r with st := .up, ended := true }).modBoot fun b => { b with
      die := some d, dieStep := 1, combEnded := 0xFF, sdEnded := 0xFF }
      (s.diePort d).st = .up ∧ s.boot.die = some d ∧ s.boot.dieStep = 1 ∧ s.boot.combEnded.getLsbD 0 = true) ∧
    (let s := (boot4.modDp 8 fun r => { r with ended := true }).modBoot fun b => { b with die := some 8, dieStep := 0 }
     (s.diePort 8).ended = true ∧ s.boot.die = some 8 ∧ s.boot.dieStep = 0) ∧
    (let s := boot0 fun b => { b with cause := 3, perstN := false }; ¬ (s.boot.cause = 3 → s.boot.perstN = true)) ∧
    ((boot0 id).modPower fun p => { p with tripped := true }).power.coolAt = none := by
  decide +kernel

theorem witness_PowerOnStepsComplete_tables : (boot4.modDp 0 fun r => { r with st := .up }).tablesOk := by
  unfold State.tablesOk
  decide +kernel

/-- R339: a comb of which cell 3 fails its BIST runs with the spare in its place. -/
theorem test_comb_bist : gives (.combBist 0 ⟨0x1FFF7, []⟩) (boot4.modDp 0 fun r => { r with st := .up }) (fun t =>
    (t.cell 3).phys = some 16 ∧ (t.cell 4).phys = some 4 ∧ (t.cell 3).ready = true) = true := by
  decide +kernel

/-- `up` with every step ended, and a persistent write that runs and one that waits. -/
def allDone : State := { up with
  boot := { up.boot with srcEnded := (List.range 108).map fun n => (n, true) }
  base := { up.base with dp := (List.range 17).map fun n => (n, { st := .up, ended := true }) } }
/-- CAP of 68.0 mF, as in the worked case of R374. -/
def charged : State := allDone.wr pgPower 0x108 0x02A80000
def writing (r : Option PWrite) (l : List PWrite) : State := allDone.modPower fun p => { p with running := r, writes := l }

theorem witness_LockDieResetsAndPersistentWritesComplete :
    up.tablesOk ∧ allDone.pageUse pgDevice = true ∧ (bit (0x80000000 : W32) 31 = true ∧ bit (0x80000000 : W32) 30 = false) ∧
    (bit (0x40000008 : W32) 30 = true ∧ bit (0x40000008 : W32) 31 = false ∧ 8 = fld (0x40000008 : W32) 3 0) ∧ allDone.boot.locked = false ∧
    (allDone.modBoot fun b => { b with locked := true }).boot.locked = true ∧ allDone.boot.die = none ∧ allDone.boot.dieWait = none ∧
    allDone.done = true ∧ allDone.writeUses 8 = false ∧ (writing (some (.hard 0 true)) []).writeUses 8 = true ∧ up.done = false ∧
    (let s := allDone.modBoot fun b => { b with die := some 8, dieStep := 2 }; s.boot.die ≠ none ∧ s.boot.dieStep = 2) ∧
    (let s := writing none [.flush]; s.power.running = none ∧ s.power.writes = [.flush] ∧ s.power.supply = .ok ∧ s.flushSoon .flush = false) ∧
    ((writing none [.flush]).modLog fun l => { l with lastAt := some 0 }).flushSoon .flush = true ∧
    ¬ PWrite.flush.needs * 20000000 ≤ charged.holdCap * (2107 * 2107 - 2000 * 2000) ∧
    PWrite.flush.needs * 20000000 ≤ charged.holdCap * (2108 * 2108 - 2000 * 2000) ∧
    (writing (some .flush) []).power.running = some .flush ∧ (writing (some .flush) []).power.resetDue = false ∧
    ((writing (some .flush) []).modBoot fun b => { b with dieWait := some 8 }).boot.dieWait = some 8 ∧
    (let s := (writing none []).modBoot fun b => { b with dieWait := some 8 }; s.power.running = none ∧ s.boot.dieWait = some 8) ∧
    (writing none []).power.writes = [] ∧ (PWrite.hard 64 true).needs * 20000000 ≤ charged.holdCap * (5000 * 5000 - 2000 * 2000) ∧
    (let s := charged.modMem fun m => { m with rows := [(64, { soft := true })] }
     s.stackUp (rowStack 64) = true ∧ (s.mem.row 64).soft = true ∧ (s.mem.row 64).hard = 0 ∧ (s.mem.row 65).soft = false ∧
       s.flushSoon (.hard 64 true) = false) ∧ (State.reset : State).stackUp (rowStack 64) = false ∧
    (State.reset : State).pageUse pgDevice = false ∧
    ((writing (some .flush) []).modPower fun p => { p with resetDue := true }).power.resetDue = true := by
  refine ⟨tables_up.1, ?_⟩
  decide +kernel

/-- R374, the worked case: 38.00 V give 35.5 J, and the flush starts; with CAP 0 (R358) it is refused. -/
theorem test_holdup : holdEnergy 680 3800 = 0x163 ∧
    gives (.persistentWriteStart 3800) (charged.modPower fun p => { p with writes := [.flush] }) (fun t => t.power.running = some .flush) = true ∧
    gives (.persistentWriteStart 3800) (writing none [.flush]) (fun t => t.power.running = none ∧ t.log.refused = 1) = true := by
  decide +kernel

/-! ### Security, microcode, functions -/

/-- `up` with the security root changed. -/
def secure (f : Sec → Sec) : State := up.modSec f

theorem witness_KeySlotsComplete :
    up.pageUse pgSec = true ∧ (fld (up.rd pgSec 0x100) 11 0 = 0 ∧ up.ctx = []) ∧
    (let s := work.wr pgSec 0x100 5; ∃ p ∈ s.ctx, p.2.st ≠ .free ∧ p.2.keySlot = fld (s.rd pgSec 0x100) 11 0) ∧
    up.sec.kek = none ∧ (secure fun x => { x with kek := some 1 }).sec.kek = some 1 ∧ ({ up with fenced := true } : State).pageUse pgSec = false ∧
    up.session 0 = none ∧ (let s := secure fun x => { x with sessions := [(0, some ⟨true, 1, .hp0, 0, 0⟩)] }
      s.session 0 = some ⟨true, 1, .hp0, 0, 0⟩ ∧ s.answers .hp0 = true) ∧
    (secure fun x => { x with sessions := [(0, some ⟨false, 1, .hp0, 0, 0⟩)] }).session 0 = some ⟨false, 1, .hp0, 0, 0⟩ ∧
    (State.reset : State).answers .hp0 = false := by
  decide +kernel

theorem witness_SpdmRequestsComplete :
    State.reset.answers .hp0 = false ∧ up.answers .hp0 = true ∧ up.conn .hp0 = .start ∧
    (∀ c ∈ [SpdmSt.version, .capabilities, .algorithms], (secure fun x => { x with spdmHp0 := c }).conn .hp0 = c) ∧
    (∀ n < 4, (secure fun x => { x with sessions := (List.range 4).map fun i => (i, some ⟨true, 1, .hp0, 0, 0⟩) }).session n ≠ none) ∧
    (let s := secure fun x => { x with sessions := [(0, some ⟨true, 1, .hp0, 0, 0⟩)] }; s.session 3 = none ∧ s.session 0 ≠ none) ∧
    (∀ b ∈ [false, true], (secure fun x => { x with sessions := [(1, some ⟨b, 1, .hp0, 0, 0⟩)] }).session 1 = some ⟨b, 1, .hp0, 0, 0⟩) := by
  decide +kernel

theorem witness_LinkKeysAndDebugUnlockComplete :
    ((p0 { st := .check }).port 0).link ≠ .keying ∧ ((p0 { st := .check, link := .keying }).port 0).link = .keying ∧
    ((p0 { st := .up, link := .secure }).port 0).link = .secure ∧
    2 ^ 32 ≤ ((p0 { st := .up, link := .secure, txCount := 2 ^ 32 - 1 }).port 0).txCount + 1 ∧
    up.pageUse pgSec = true ∧ ({ up with fenced := true } : State).pageUse pgSec = false ∧ up.sec.tokenGood = false ∧
    up.sec.dbg ≠ .unlocked ∧ (secure fun x => { x with dbg := .unlocked }).sec.dbg = .unlocked ∧ up.sec.dataDue = false ∧
    (let s := secure fun x => { x with dataDue := true }; s.sec.dataDue = true ∧ ∀ p ∈ s.ctx, p.2.st = .free) ∧
    (let s := work.modSec fun x => { x with dataDue := true }; ¬ ∀ p ∈ s.ctx, p.2.st = .free) ∧ up.mem.bar4 = [] ∧
    up.sec.tokenScope.getLsbD 3 = false ∧ work.mayTear 0 = true := by
  decide +kernel

theorem witness_MicrocodeUpdateCompletes :
    up.sec.uc = .idle ∧ (∀ u ∈ [UcPhase.waiting, .pointer, .undo], (secure fun x => { x with uc := u }).sec.uc = u) ∧ up.pageUse pgDevice = true ∧
    up.boot.mgmt = true ∧ State.reset.boot.mgmt = false ∧ ({ up with fenced := true } : State).pageUse pgDevice = false ∧
    (∃ b, (pow fun p => { p with running := some (.pointer true) }).power.running = some (.pointer b)) ∧ up.power.running = none ∧
    (let s := secure fun x => { x with uc := .waiting }; s.sec.uc = .waiting ∧ s.ctx = [] ∧ s.logOn = true ∧ s.log.wait.length < 1024) ∧
    (let s := ((upC .opened).setCx 0 { tctx .opened with step := { (tctx .opened).step with st := .opened } })
     ∃ p ∈ s.ctx, p.2.step.st = .opened) ∧
    ((secure fun x => { x with validA := true }).sec.validA = true ∧ up.sec.active = false) ∧ (up.sec.validA = false ∧ up.sec.validB = false) ∧
    ¬ 2 ^ 25 ≤ (⟨5, 0, 0, 0⟩ : BankImage).content.log2 ∧
    (∀ p ∈ (upC .opened).ctx, p.2.step.st ≠ .opened) ∧ up.sec.minSvn < 1 := by
  decide +kernel

/-- An image of more than `n` bits; `n` = 2^25 bits are 4 MiB. -/
theorem witness_MicrocodeUpdateCompletes_size (n : Nat) : n ≤ (⟨2 ^ n, 0, 0, 0⟩ : BankImage).content.log2 :=
  Nat.le_of_eq (Nat.log2_two_pow (n := n)).symm

theorem witness_FunctionResetsAndPinsComplete :
    up.tablesOk ∧ (work.mayTear 0 = true ∧ (work.cx 0).owner = 0 ∧ (work.setCx 0 { tctx .opened with ent := entry 0x40001005 }).mayTear 0 = true ∧
      ((work.setCx 0 { tctx .opened with ent := entry 0x40001005 }).cx 0).owner = 1) ∧
    (let r := { mv1 with res := some (0, 0) }; (busyM r).run? id0 = some r ∧ r.res ≠ none) ∧ opcodeOf (vs1 0).words ≠ 0x20 ∧
    (slot (mv2 2).words 1).space ≠ 4 ∧ (slot (mv2 2).words 2).space ≠ 4 ∧ up.run? id0 = none ∧
    ringSpace (work.qu 0 0).cfg = 4 ∧ ringSpace 0xC0000004 = 1 ∧ work.run? id0 = none ∧
    State.reset.boot.hp0 = false ∧ (up.boot.hp0 = true ∧ up.boot.hub = true ∧ up.boot.vfs = false) ∧
    (up.modBoot fun b => { b with hub := false }).boot.hub = false ∧ (up.modBoot fun b => { b with vfs := true }).boot.vfs = true ∧
    ((busyM mv1).run? id0 = some mv1 ∧ mv1.res = none ∧ opcodeOf mv1.words = 0x20 ∧ (slot mv1.words 1).space = 4) ∧
    State.reset.boot.rails = false ∧ up.boot.rails = true ∧ up.power.running = none ∧
    (pow fun p => { p with running := some .flush }).power.running ≠ none := by
  refine ⟨tables_up.1, ?_⟩
  decide +kernel

/-- R389: the reset of function 1 tears down its context and leaves function 0's. -/
theorem test_function_reset :
    gives (.functionLevelReset 1) (work.setCx 0 { tctx .opened with ent := entry 0x40001005 }) (fun t => (t.cx 0).st = .zeroing) = true ∧
    gives (.functionLevelReset 1) work (fun t => (t.cx 0).st = .opened) = true := by
  decide +kernel

/-! ### Registers, counters, the life log -/

theorem witness_RegisterAccessesComplete :
    pageOf (pgSafe.off + 0x110) = some (pgSafe, 0x110) ∧ up.pageReady pgSafe = true ∧ up.fenced = false ∧
    (pgSafe.off + 0x110) % 4 = 0 ∧ pageOf pgSafe.off = some (pgSafe, 0) ∧
    (∀ q ∈ [(pgSec, 0x104), (pgSec, 0x1C0), (pgDevice, 0x120)], pageOf (q.1.off + q.2) = some q) ∧
    State.reset.pageReady pgSafe = false ∧ pgSafe.kind = .safe ∧ pgSafe ≠ pgLog ∧ pageOf (pgLog.off + 0x110) = some (pgLog, 0x110) ∧
    (let s := secure fun x => { x with dbg := .unlocked, scope := 2 }; s.fenced = false ∧ s.sec.dbg = .unlocked ∧ s.sec.scope.getLsbD 1 = true) ∧
    (pageOf (pgLaser.off + 0x120) = some (pgLaser, 0x120) ∧ up.pageReady pgLaser = true ∧ pageOf (pgComb 0).off = some (pgComb 0, 0) ∧
      pageOf 0x3FFF000 = none ∧ (pgSafe.off + 2) % 4 ≠ 0 ∧ up.hasBar0 0 pgSafe.off = true ∧ up.answersAt pgSafe.off = true ∧
      up.hasBar0 1 pgSafe.off = false ∧ ({ up with fenced := true } : State).answersAt pgSec.off = false ∧ (State.reset : State).boot.mgmt = false) ∧
    up.boot.mgmt = true ∧ up.sec.i3cAddr = none ∧ (secure fun x => { x with i3cAddr := some 8 }).sec.i3cAddr ≠ none ∧
    up.tablesOk := by
  refine ⟨?_, ?_, ?_, ?_, ?_, ?_, ?_, ?_, ?_, ?_, ?_, ?_, ?_, ?_, ?_, tables_up.1⟩ <;> decide +kernel

theorem witness_CountersAndLifeLogComplete :
    up.tablesOk ∧ pageOf pgFab.off = some (pgFab, 0) ∧ (∃ c < 8, (pgComb c).engines ≠ 0) ∧ up.fenced = false ∧
    (bit (0x80000000 : W32) 31 = true ∧ fld (0x80000000 : W32) 7 0 < (pgComb 0).engines) ∧ up.boot.mgmt = true ∧ State.reset.boot.mgmt = false ∧
    up.pageUse pgLog = true ∧ State.reset.pageUse pgLog = false ∧ up.logOn = true ∧
    (up.modLog fun l => { l with ctrl := 0 }).logOn = false ∧ (up.log.acc.minutes.toNat + 1) % 1440 ≠ 0 ∧
    ((up.modLog fun l => { l with acc := { l.acc with minutes := 1439 } }).log.acc.minutes.toNat + 1) % 1440 = 0 := by
  refine ⟨tables_up.1, ?_⟩
  decide +kernel

/-- R424: LOG_CTRL's period is kept from 10 to 1,440 min. -/
theorem test_log_period :
    gives (.logEnableWrite 0x80000009) up (fun t => t.log.ctrl = 0x8000000A) = true ∧
    gives (.logEnableWrite 0x800005A1) up (fun t => t.log.ctrl = 0x800005A0) = true := by
  decide +kernel

/-! ### The invariants -/

/-- A step from `work` with a command in front that finds its condition unmet (management runs already). -/
theorem witness_step : step { work with pending := [.mgmtBoot] } = .next work := by
  show Host.Outcome.next work.bootMgmt = _
  rw [State.bootMgmt, if_pos (by decide)]
theorem witness_EveryStepKeepsTheMemoriesCanonical : State.memOk { work with pending := [.mgmtBoot] } := mem_up.2
theorem witness_EveryStepKeepsTheTablesInOrder : State.tablesOk { work with pending := [.mgmtBoot] } := tables_up.2
theorem witness_MinSvnNeverFalls : State.svnAtLeast 0 { work with pending := [.mgmtBoot] } ∧
    (secure fun x => { x with minSvn := 3 }).svnAtLeast 3 ∧ ¬ (secure fun x => { x with minSvn := 3 }).svnAtLeast 4 := by
  unfold State.svnAtLeast
  decide +kernel

/-- R103: with CAP = 1 and one spill row, the first of three tokens is accepted, the second spills and the third is dropped. -/
theorem witness_RouteNeverExceedsCapacity : (assignAll 1 2 1 1 [[(0, 0)], [(0, 0)], [(0, 0)]]).ch.map (·.map fun c => (c.status, c.row)) =
    #[[(1, 0)], [(3, 0)], [(2, 0xFFFF)]] := by
  decide +kernel

end Sys2Proof.Tests
end

section
/-! The proofs of O22 and O23: SCOUT, GATHER_KV, the timers of a SCOUT, the recipe registers and calibration. First what a write of bytes
and the end of a command change; then what `scoutList`, `gatherRun` and the start of a SCOUT answer, each said once; then the obligations,
assembled clause by clause. -/

namespace Sys2Proof.Proofs.Scouts
open Sys2Proof Sys2Proof.Machine Sys2Proof.Claims Host

/-! ### Computations that may fail -/

theorem bind_eq_ok {ε α β : Type} {x : Except ε α} {f : α → Except ε β} {b : β} (h : (x >>= f) = .ok b) :
    ∃ a, x = .ok a ∧ f a = .ok b := by
  cases x with
  | error e => cases h
  | ok a => exact ⟨a, rfl, h⟩

/-- A computation that goes past a check answers as the rest does. -/
theorem check_eq_ok {ε β : Type} {c : Prop} [Decidable c] {e : ε} {f : Unit → Except ε β} {b : β}
    (h : (if c then (throw e : Except ε Unit) >>= f else f ()) = .ok b) : f () = .ok b := by
  split at h
  · cases h
  · exact h

theorem kvLift_eq_ok {α : Type} {x : Except Err α} {a : α} (h : kvLift x = .ok a) : x = .ok a := by
  cases x with
  | error e => cases h
  | ok b => cases h; rfl

/-- What every step of a loop keeps, the loop keeps. -/
theorem foldl_rel {α : Type} {R : State → State → Prop} {f : State → α → State} (refl : ∀ s, R s s)
    (trans : ∀ {s t u}, R s t → R t u → R s u) (hf : ∀ s a, R s (f s a)) (l : List α) (s : State) : R s (l.foldl f s) := by
  induction l generalizing s with
  | nil => exact refl s
  | cons a l ih => exact trans (hf s a) (ih (f s a))

theorem foldlM_rel {ε α : Type} {R : State → State → Prop} {f : State → α → Except ε State} (refl : ∀ s, R s s)
    (trans : ∀ {s t u}, R s t → R t u → R s u) (hf : ∀ s a t, f s a = .ok t → R s t) (l : List α) {s u : State}
    (h : l.foldlM f s = .ok u) : R s u := by
  induction l generalizing s with
  | nil => cases h; exact refl _
  | cons a l ih =>
    obtain ⟨t, ht, hu⟩ := bind_eq_ok h
    exact trans (hf s a t ht) (ih hu)

/-! ### What a write of bytes changes -/

/-- `t` differs from `s` in its memories and its contexts at most. -/
def sameButMemory (s t : State) : Prop := t = { s with mem := t.mem, ctx := t.ctx }

theorem sameButMemory.refl (s : State) : sameButMemory s s := rfl

theorem sameButMemory.trans {s t u : State} (h : sameButMemory s t) (k : sameButMemory t u) : sameButMemory s u := by
  unfold sameButMemory at *
  rw [h] at k
  exact k

theorem sameButMemory.runs {s t : State} (h : sameButMemory s t) : t.runs = s.runs := by
  unfold sameButMemory at h
  rw [h]

theorem writeSeg_sameButMemory (s : State) (w : Who) (g : Seg) (bs : List Byte) : sameButMemory s (s.writeSeg w g bs) := by
  cases g <;> rfl

theorem writeSegs_sameButMemory (w : Who) (gs : List (Seg × Nat)) (bs : List Byte) (s : State) : sameButMemory s (s.writeSegs w gs bs) := by
  induction gs generalizing s bs with
  | nil => exact .refl s
  | cons g gs ih => exact (writeSeg_sameButMemory s w g.1 _).trans (ih _ _)

theorem openShadows_sameButMemory (s : State) (w : Who) (addr n : Nat) : sameButMemory s (s.openShadows w addr n) := by
  unfold State.openShadows
  split
  · refine foldl_rel .refl .trans (fun t p => ?_) _ s
    dsimp only
    split
    · rfl
    · exact .refl t
  · exact .refl s

/-- The contexts change where the write opens shadow banks, which their epoch notes (R117). -/
theorem writeBytes_sameButMemory {s t : State} {w : Who} {space addr : Nat} {bs : List Byte} (h : s.writeBytes w space addr bs = .ok t) :
    sameButMemory s t := by
  unfold State.writeBytes at h
  obtain ⟨_, -, h⟩ := bind_eq_ok h
  obtain ⟨gs, -, h⟩ := bind_eq_ok h
  cases h
  refine sameButMemory.trans ?_ (writeSegs_sameButMemory w gs bs _)
  split
  · exact openShadows_sameButMemory s w addr bs.length
  · exact .refl s

/-! ### A write of bytes beside a change of a running command -/

theorem writeSegs_modRun (w : Who) (id : CmdId) (f : Run → Run) (gs : List (Seg × Nat)) (bs : List Byte) (s : State) :
    (s.modRun id f).writeSegs w gs bs = (s.writeSegs w gs bs).modRun id f := by
  induction gs generalizing s bs with
  | nil => rfl
  | cons g gs ih =>
    have hg : (s.modRun id f).writeSeg w g.1 (bs.take g.2) = (s.writeSeg w g.1 (bs.take g.2)).modRun id f := by cases g.1 <;> rfl
    rw [State.writeSegs, State.writeSegs, hg, ih]

theorem foldl_modRun {α : Type} {id : CmdId} {f : Run → Run} {g : State → α → State}
    (hg : ∀ s a, g (s.modRun id f) a = (g s a).modRun id f) (l : List α) (s : State) :
    l.foldl g (s.modRun id f) = (l.foldl g s).modRun id f := by
  induction l generalizing s with
  | nil => rfl
  | cons a l ih => rw [List.foldl_cons, List.foldl_cons, hg, ih]

theorem openShadows_modRun (s : State) (w : Who) (id : CmdId) (f : Run → Run) (addr n : Nat) :
    (s.modRun id f).openShadows w addr n = (s.openShadows w addr n).modRun id f := by
  have he (t : State) : (t.modRun id f).epoch w.ctx w.tag = t.epoch w.ctx w.tag := rfl
  have hm : (s.modRun id f).bankMap w.ctx w.cell = s.bankMap w.ctx w.cell := rfl
  unfold State.openShadows
  rw [he, hm]
  split
  · refine foldl_modRun (fun t p => ?_) _ s
    dsimp only
    rw [he]
    split <;> rfl
  · rfl

/-- What is written, and whether it can be, does not depend on the running commands. -/
theorem writeBytes_modRun {s t : State} {w : Who} {space addr : Nat} {bs : List Byte} (id : CmdId) (f : Run → Run)
    (h : s.writeBytes w space addr bs = .ok t) : (s.modRun id f).writeBytes w space addr bs = .ok (t.modRun id f) := by
  have hsegs (u : State) : (u.modRun id f).segs w space addr bs.length true = u.segs w space addr bs.length true := rfl
  have hopen : (if space = 2 then (s.modRun id f).openShadows w addr bs.length else s.modRun id f) =
      (if space = 2 then s.openShadows w addr bs.length else s).modRun id f := by
    split
    · exact openShadows_modRun s w id f addr bs.length
    · rfl
  unfold State.writeBytes at h ⊢
  obtain ⟨checked, hc, h⟩ := bind_eq_ok h
  obtain ⟨gs, hg, h⟩ := bind_eq_ok h
  cases h
  simp only [hsegs, hopen, hc, hg, writeSegs_modRun, bind, Except.bind]
  rfl

/-! ### Running commands -/

theorem run?_id {s : State} {id : CmdId} {r : Run} (h : s.run? id = some r) : r.id = id := by
  simpa using List.find?_some h

theorem run?_congr {s t : State} (h : t.runs = s.runs) (id : CmdId) : t.run? id = s.run? id := by
  unfold State.run?; rw [h]

/-- A change of a running command that keeps its name and its outcome. -/
def keepsOutcome (f : Run → Run) : Prop := ∀ y, (f y).id = y.id ∧ (f y).res = y.res

theorem keepsOutcome.run? {s : State} {id : CmdId} {r : Run} {f : Run → Run} (hf : keepsOutcome f) (h : s.run? id = some r) :
    (s.modRun id f).run? id = some (f r) := State.run?_modRun h fun y hy => (hf y).1.trans hy

theorem modRun_modRun (s : State) (id : CmdId) {f : Run → Run} (g : Run → Run) (hf : keepsOutcome f) :
    (s.modRun id f).modRun id g = s.modRun id (g ∘ f) := by
  unfold State.modRun
  rw [List.map_map]
  congr 2
  funext y
  by_cases hy : y.id = id <;> simp [hy, (hf y).1]

section
variable {s : State} {id : CmdId} {r : Run} {st : Byte} {d : W32} (h : s.run? id = some r) (hn : r.res = none) (hs : st ≠ St.notYet)
include h hn hs

theorem ended_endRun : ended (s.endRun id st d) id st d := ⟨_, State.run?_endRun h hn hs, rfl⟩

theorem ended_refuseRun : ended (s.refuseRun id st d) id st d := by
  refine ⟨_, State.run?_modRun h fun x hx => ?_, ?_⟩
  · split <;> exact hx
  · simp [hn, hs]

theorem ended_modRun_endRun {f : Run → Run} (hf : keepsOutcome f) : ended ((s.modRun id f).endRun id st d) id st d :=
  ended_endRun (hf.run? h) ((hf r).2.trans hn) hs

end

theorem onHub_waits {s : State} {id : CmdId} {r : Run} {p : List W32 → Bool} {f : Run → State} (hr : s.run? id = some r)
    (hn : r.res = none) (hp : p r.words = true) (hb : s.bankWait r = true) : s.onHub id p f = s.noteBanks id := by
  unfold State.onHub; rw [State.onRun_of hr hn hp, if_pos hb]

theorem onAgents_of_none {s : State} {r : Run} {dies : List Nat} (f : State → State) (h : s.agentStop r dies = none) :
    s.onAgents r dies f = f s := by
  unfold State.onAgents; rw [h]

theorem onAgents_of_some {s : State} {r : Run} {dies : List Nat} {e : Err} (f : State → State) (h : s.agentStop r dies = some e) :
    s.onAgents r dies f = s.cutRun r.id e.1 e.2 := by
  unfold State.onAgents; rw [h]

/-! ### A context's error -/

/-- A value that is no default is read back after it was written, in whatever order the table stands. -/
theorem get_set_of_ne {α : Type} [DecidableEq α] {d v : α} (t : Tab α) (k : Nat) (hv : v ≠ d) : Tab.get d (Tab.set d t k v) k = v := by
  induction t with
  | nil => simp [Tab.set, Tab.get, hv]
  | cons p t ih =>
    obtain ⟨j, w⟩ := p
    unfold Tab.set
    split
    · simp [Tab.get]
    · next hj =>
      split
      · simp [Tab.get]
      · next hk => simp [Tab.get, hj, hk, ih]

/-- The error raised in a context stands in its `CTX_ERR`. -/
theorem ctxErr_bit (s : State) (c : Nat) {b : Nat} (hb : b < 32) : bit ((s.ctxErr c b).cx c).err b = true := by
  have hbit : bit ((s.cx c).err ||| BitVec.ofNat 32 (2 ^ b)) b = true := by
    rw [bit, BitVec.getLsbD_or, BitVec.getLsbD_ofNat, Nat.testBit_two_pow_self]
    simp [hb]
  have hne : ({ s.cx c with err := (s.cx c).err ||| BitVec.ofNat 32 (2 ^ b) } : CtxRec) ≠ {} := by
    intro h
    have he := congrArg CtxRec.err h
    dsimp only at he
    rw [he] at hbit
    simp [bit] at hbit
  rw [State.ctxErr_frame]
  change bit (Tab.get {} (Tab.set {} s.ctx c _) c).err b = true
  rw [get_set_of_ne s.ctx c hne]
  exact hbit

/-! ### A write at a global address leaves the running commands as they are -/

theorem foldl_runs {α : Type} {f : State → α → State} (hf : ∀ s a, (f s a).runs = s.runs) (l : List α) (s : State) :
    (l.foldl f s).runs = s.runs :=
  foldl_rel (R := fun s t => t.runs = s.runs) (fun _ => rfl) (fun h k => k.trans h) hf l s

section
variable (s : State) {q : Req} (sgn : Bool) (hq : q.op = 2)
include hq

theorem serveAt_write_runs (w : Who) (space addr : Nat) : (s.serveAt w space addr q sgn).2.runs = s.runs := by
  unfold State.serveAt
  rw [hq]
  cases h : s.writeBytes w space addr q.data with
  | ok t => exact (writeBytes_sameButMemory h).runs
  | error e => rfl

theorem directWindow_write_runs (dom off : Nat) : (s.directWindow dom off q sgn).2.runs = s.runs := by
  unfold State.directWindow
  split
  · rfl
  · split
    · exact serveAt_write_runs s sgn hq _ _ _
    · rfl

theorem spadWindow_write_runs (c off : Nat) : (s.spadWindow c off q).2.runs = s.runs := by
  unfold State.spadWindow
  dsimp only
  split
  · rfl
  · split
    · rfl
    · exact serveAt_write_runs s false hq _ _ _

/-- The window of the event counters takes no plain write (R294). -/
theorem ctrWindow_write_runs (c off : Nat) : (s.ctrWindow c off q).2.runs = s.runs := by
  unfold State.ctrWindow
  rw [hq]
  dsimp only
  split <;> rfl

theorem guard_write_runs (colony dom : Nat) (ent : Option (Nat × W32)) : (s.guard colony dom ent q sgn).2.runs = s.runs := by
  unfold State.guard
  split
  · rfl
  · dsimp only
    split
    · rfl
    · split
      · split
        · exact serveAt_write_runs s sgn hq _ _ _
        · rfl
      · split
        · exact directWindow_write_runs s sgn hq _ _
        · rfl
      · split
        · exact spadWindow_write_runs s hq _ _
        · rfl
      · split
        · exact ctrWindow_write_runs s hq _ _
        · rfl
      · rfl

end

theorem serveLocal_write_runs {s t : State} {c : Nat} {q : Req} {sgn : Bool} {d : List Byte} (hq : q.op = 2)
    (h : s.serveLocal c q sgn = .ok (d, t)) : t.runs = s.runs := by
  have hg := guard_write_runs s sgn hq (colonyOf s.hive) (s.cx c).domain (s.domEntry (s.cx c).domain)
  unfold State.serveLocal at h
  split at h
  · next heq =>
    cases h
    rw [heq] at hg
    exact hg
  all_goals cases h

theorem request_write_runs {s : State} {r : Run} {q : Req} {key : Nat} {sgn : Bool} {x : Option (List Byte) × State} (hq : q.op = 2)
    (h : s.request r q key sgn = .ok x) : x.2.runs = s.runs := by
  unfold State.request at h
  split at h
  · obtain ⟨⟨d, t⟩, hs, h⟩ := bind_eq_ok h
    cases h
    exact serveLocal_write_runs hq hs
  · cases h
    rfl

theorem anyWrite_runs {s t : State} {r : Run} {space addr : Nat} {bs : List Byte} (h : s.anyWrite r space addr bs = .ok t) :
    t.runs = s.runs := by
  unfold State.anyWrite at h
  split at h
  · refine foldlM_rel (R := fun s t => t.runs = s.runs) (fun _ => rfl) (fun h k => k.trans h) (fun u p v hv => ?_) _ h
    obtain ⟨x, hx, hv⟩ := bind_eq_ok hv
    cases hv
    exact request_write_runs rfl hx
  · exact (writeBytes_sameButMemory h).runs

/-! ### Unspecified outputs leave the running commands as they are -/

theorem spoil_runs (s : State) (w : Who) (space addr n : Nat) : (s.spoil w space addr n).runs = s.runs := by
  unfold State.spoil
  refine foldl_runs (fun t p => ?_) _ s
  split
  · next h => exact (writeBytes_sameButMemory h).runs
  · rfl

theorem spoilParts_runs (s : State) (w : Who) (x : Slot) (ps : List Part) : (s.spoilParts w x ps).runs = s.runs := by
  unfold State.spoilParts
  split
  · rfl
  · refine foldl_runs (fun t p => ?_) ps s.draw
    split
    · exact spoil_runs t _ _ _ _
    · rfl

theorem spoilAny_runs (s : State) (r : Run) (x : Slot) (ps : List Part) : (s.spoilAny r x ps).runs = s.runs := by
  unfold State.spoilAny
  split
  · exact spoilParts_runs s _ _ _
  · refine foldl_runs (fun t p => foldl_runs (fun u q => ?_) _ t) ps s.draw
    split
    · rfl
    · split
      · next h => exact anyWrite_runs h
      · rfl

/-! ### GATHER_KV (R152, R153) -/

theorem gatherRun_eq {s u : State} {r : Run} (h : s.gatherRun r = .ok u) :
    ∃ t f, sameButMemory s t ∧ keepsOutcome f ∧ u = (t.modRun r.id f).endRun r.id St.ok 0 := by
  unfold State.gatherRun at h
  obtain ⟨hb, -, h⟩ := bind_eq_ok h
  have h := check_eq_ok (check_eq_ok h)
  obtain ⟨ls, -, h⟩ := bind_eq_ok h
  have h := check_eq_ok (check_eq_ok h)
  obtain ⟨rows, -, h⟩ := bind_eq_ok h
  obtain ⟨t, ht, h⟩ := bind_eq_ok h
  obtain ⟨v, hv, h⟩ := bind_eq_ok h
  cases h
  have hst : sameButMemory s t :=
    foldlM_rel (R := sameButMemory) .refl .trans (fun _ _ _ hw => writeBytes_sameButMemory hw) _ (kvLift_eq_ok ht)
  have htv : sameButMemory t v := by
    have hv := kvLift_eq_ok hv
    split at hv
    · exact writeBytes_sameButMemory hv
    · cases hv; exact .refl _
  refine ⟨v, _, hst.trans htv, ?_, rfl⟩
  exact fun y => ⟨rfl, rfl⟩

/-- A GATHER_KV that is cut off ends with its status; its records are unspecified. -/
theorem gather_cut_ended {s : State} {id : CmdId} {r : Run} {st : Byte} {d : W32} (hr : s.run? id = some r) (hn : r.res = none)
    (hop : opcodeOf r.words = 0x33) (hs : st ≠ St.notYet) : ended (s.cutRun id st d) id st d := by
  have hsp : (s.spoilOut r).runs = s.runs := by
    unfold State.spoilOut
    dsimp only
    rw [hop]
    exact spoilAny_runs s r _ _
  unfold State.cutRun
  rw [hr]
  dsimp only
  rw [hn, if_neg (by decide), if_neg hs]
  exact ended_endRun (by rw [run?_congr hsp, hr]) hn hs

section
variable {s : State} {r : Run}

theorem exec_gatherKv_waits (h : running s r.id r 0x33) (hb : s.bankWait r = true) : exec (.gatherKv r.id) s = .next (s.noteBanks r.id) := by
  obtain ⟨hr, hn, hop⟩ := h
  exact congrArg Outcome.next (onHub_waits hr hn (decide_eq_true hop) hb)

theorem exec_gatherKv (h : running s r.id r 0x33) (hb : s.bankWait r = false) : exec (.gatherKv r.id) s = .next (s.gather r) := by
  obtain ⟨hr, hn, hop⟩ := h
  exact congrArg Outcome.next (State.onHub_of hr hn (decide_eq_true hop) hb)

theorem exec_gatherKv_stopped {e : Err} (h : running s r.id r 0x33) (hb : s.bankWait r = false)
    (ha : s.agentStop r (s.agentDies r) = some e) : exec (.gatherKv r.id) s = .next (s.cutRun r.id e.1 e.2) :=
  (exec_gatherKv h hb).trans (congrArg _ (onAgents_of_some _ ha))

theorem gatherKv_gathers {u : State} (h : running s r.id r 0x33) (hb : s.bankWait r = false)
    (ha : s.agentStop r (s.agentDies r) = none) (hu : s.gatherRun r = .ok u) :
    completes (.gatherKv r.id) s fun t => t = u ∧ t = { s with mem := t.mem, ctx := t.ctx, runs := t.runs } ∧ ended t r.id St.ok 0 := by
  have hex := exec_gatherKv h hb
  unfold State.gather at hex
  rw [onAgents_of_none _ ha, hu] at hex
  refine ⟨u, hex, rfl, ?_⟩
  obtain ⟨hr, hn, -⟩ := h
  obtain ⟨t, f, ht, hk, rfl⟩ := gatherRun_eq hu
  refine ⟨?_, ended_modRun_endRun (by rw [run?_congr ht.runs, hr]) hn (by decide) hk⟩
  unfold sameButMemory at ht
  rw [ht]
  rfl

/-- A failed check refuses it (R41), and any other failure cuts it off. -/
theorem gatherKv_fails {e : KvErr} (h : running s r.id r 0x33) (hb : s.bankWait r = false)
    (ha : s.agentStop r (s.agentDies r) = none) (he : s.gatherRun r = .error e) (hs : e.1.1 ≠ St.notYet) :
    completes (.gatherKv r.id) s fun t => ended t r.id e.1.1 e.1.2 := by
  have hex := exec_gatherKv h hb
  unfold State.gather at hex
  rw [onAgents_of_none _ ha, he] at hex
  obtain ⟨hr, hn, hop⟩ := h
  refine ⟨_, hex, ?_⟩
  dsimp only
  split
  · exact ended_endRun hr hn hs
  · exact gather_cut_ended hr hn hop hs

end

/-! ### The end of a SCOUT -/

/-- `t` differs from `s` in memories, contexts, registers and the free values drawn at most. -/
def sameButScored (s t : State) : Prop := t = { s with mem := t.mem, ctx := t.ctx, regs := t.regs, free := t.free }

theorem sameButScored.runs {s t : State} (h : sameButScored s t) : t.runs = s.runs := by
  unfold sameButScored at h
  rw [h]

theorem sameButScored.clock {s t : State} (h : sameButScored s t) : t.clock = s.clock := by
  unfold sameButScored at h
  rw [h]

theorem sameButScored_bump {s t : State} {p : Page} {rel k : Nat} (h : sameButScored s t) : sameButScored s (t.bump p rel k) := by
  unfold sameButScored at *
  rw [h]
  rfl

/-- The list is written, and the margin-miss counters grow where the check took the SCOUT (R154). -/
theorem sameButScored_written {s v : State} {w : Who} {space addr : Nat} {bs : List Byte} (h : s.draw.writeBytes w space addr bs = .ok v)
    (checked : Bool) (tk miss : Nat) :
    sameButScored s (if checked then (v.bump pgPool 0x130 tk).bump pgPool 0x134 miss else v) := by
  have hv : sameButScored s v := by
    have hm := writeBytes_sameButMemory h
    unfold sameButMemory at hm
    unfold sameButScored
    rw [hm]
    rfl
  split
  · exact sameButScored_bump (sameButScored_bump hv)
  · exact hv

theorem scoutList_eq {s u : State} {r : Run} {x : ScoutRun} (h : s.scoutList r x = .ok u) :
    ∃ t f, sameButScored s t ∧ keepsOutcome f ∧ u = (t.modRun r.id f).endRun r.id St.ok 0 := by
  unfold State.scoutList at h
  obtain ⟨nf, -, h⟩ := bind_eq_ok h
  obtain ⟨qs, -, h⟩ := bind_eq_ok h
  dsimp only at h
  split at h
  all_goals
    obtain ⟨sk, -, h⟩ := bind_eq_ok h
    obtain ⟨v, hv, h⟩ := bind_eq_ok h
    cases h
    refine ⟨_, _, sameButScored_written (kvLift_eq_ok hv) _ _ _, ?_, congrArg (State.endRun · r.id St.ok 0) (modRun_modRun _ _ _ ?_)⟩ <;>
      exact fun y => ⟨rfl, rfl⟩

section
variable {s u : State} {r : Run} {x : ScoutRun}

theorem scoutList_ended {id : CmdId} (hr : s.run? id = some r) (hn : r.res = none) (hu : s.scoutList r x = .ok u) :
    ended (u.freeScout id) id St.ok 0 := by
  obtain rfl := run?_id hr
  obtain ⟨t, f, ht, hf, rfl⟩ := scoutList_eq hu
  have hrun : t.run? r.id = some r := by rw [run?_congr ht.runs, hr]
  exact ended_modRun_endRun hrun hn (by decide) hf

theorem scoutList_clock (hu : s.scoutList r x = .ok u) : u.clock = s.clock := by
  obtain ⟨t, f, ht, -, rfl⟩ := scoutList_eq hu
  exact ht.clock

theorem scoutList_frame (hu : s.scoutList r x = .ok u) :
    let t := u.freeScout r.id
    t = { s with mem := t.mem, ctx := t.ctx, regs := t.regs, runs := t.runs, scouts := t.scouts, free := t.free } := by
  obtain ⟨t, f, ht, -, rfl⟩ := scoutList_eq hu
  unfold sameButScored at ht
  rw [ht]
  rfl

theorem freeScout_run (s : State) (id : CmdId) : ∀ p ∈ (s.freeScout id).scouts, p.2.run ≠ some id := by
  intro p hp
  obtain ⟨q, -, rfl⟩ := List.mem_map.mp hp
  dsimp only
  split
  · exact fun h => nomatch h
  · assumption

theorem scoutEnd_of_ok (hu : s.scoutList r x = .ok u) : s.scoutEnd r x = u.freeScout r.id := by
  unfold State.scoutEnd
  rw [hu]
  rfl

/-- A row that ends a running SCOUT whose list can be written ends it `OK`, and its scout is free. -/
theorem completes_scoutEnd {c : Instr} (hr : s.run? r.id = some r) (hn : r.res = none) (he : exec c s = .next (s.scoutEnd r x))
    (hu : s.scoutList r x = .ok u) : completes c s fun t => t = u.freeScout r.id ∧ ended t r.id St.ok 0 :=
  ⟨_, he.trans (congrArg _ (scoutEnd_of_ok hu)), rfl, scoutList_ended hr hn hu⟩

end

/-! ### The digital path (R147) -/

/-- The state in which a SCOUT with progress `x` has left its scout for the digital path, which counts except in REPLAY mode (R151). -/
def onDigitalPath (s : State) (r : Run) (x : ScoutRun) : State :=
  (if ((s.freeScout r.id).cx r.id.ctx.val).stepMode = 2 then s.freeScout r.id else (s.freeScout r.id).bump pgPool 0x13C 1).modRun r.id
    fun t => { t with scout := some x }

theorem scoutDigital_eq (s : State) (r : Run) (x : ScoutRun) (die : Nat) :
    let x' := { x with die := some die, unit := none, paused := false }
    let r' := { r with scout := some x' }
    s.scoutDigital r x die = (onDigitalPath s r x').onAgents r' ((onDigitalPath s r x').agentDies r') fun t => t.scoutEnd r' x' := rfl

theorem onDigitalPath_run? {s : State} {r : Run} (x : ScoutRun) (h : s.run? r.id = some r) :
    (onDigitalPath s r x).run? r.id = some { r with scout := some x } := by
  unfold onDigitalPath
  refine State.run?_modRun (f := fun t => { t with scout := some x }) ?_ fun y hy => hy
  split <;> exact h

theorem onDigitalPath_clock (s : State) (r : Run) (x : ScoutRun) : (onDigitalPath s r x).clock = s.clock := by
  unfold onDigitalPath
  split <;> rfl

/-- A SCOUT whose digital path can run ends `OK` there, in no time. -/
theorem scoutDigital_of_ok {s u : State} {r r' : Run} {x x' : ScoutRun} {die : Nat} (hr : s.run? r.id = some r) (hn : r.res = none)
    (hx' : x' = { x with die := some die, unit := none, paused := false }) (hr' : r' = { r with scout := some x' })
    (ha : (onDigitalPath s r x').agentStop r' ((onDigitalPath s r x').agentDies r') = none)
    (hu : (onDigitalPath s r x').scoutList r' x' = .ok u) :
    s.scoutDigital r x die = u.freeScout r.id ∧ ended (u.freeScout r.id) r.id St.ok 0 ∧ u.clock = s.clock := by
  subst hx' hr'
  refine ⟨?_, scoutList_ended (onDigitalPath_run? _ hr) hn hu, (scoutList_clock hu).trans (onDigitalPath_clock s r _)⟩
  rw [scoutDigital_eq, onAgents_of_none _ ha, scoutEnd_of_ok hu]

/-- Where the engines of the digital path cannot run, the SCOUT waits there, or ends if its second die is out of service (R323, R328). -/
theorem scoutDigital_of_stopped {s : State} {r r' : Run} {x x' : ScoutRun} {die : Nat} {e : Err}
    (hx' : x' = { x with die := some die, unit := none, paused := false }) (hr' : r' = { r with scout := some x' })
    (ha : (onDigitalPath s r x').agentStop r' ((onDigitalPath s r x').agentDies r') = some e) :
    s.scoutDigital r x die = (onDigitalPath s r x').cutRun r.id e.1 e.2 := by
  subst hx' hr'
  rw [scoutDigital_eq]
  exact onAgents_of_some _ ha

/-! ### The start of a SCOUT -/

/-- The list of the SCOUT is not taken from a journal: no step journals, or the step is in RECORD mode (R127). -/
def scored (s : State) (r : Run) : Prop := s.journal r = none ∨ ∃ j, s.journal r = some j ∧ j.mode = 1

/-- A SCOUT of a step in REPLAY mode with journal `j` has passed its checks, and what it loads of the journal, if anything, has come. -/
structure replayReady (s : State) (r : Run) (j : StepRec) : Prop where
  fits : s.scoutFits r = .ok none
  journal : s.journal r = some j
  mode : j.mode = 2
  loaded : s.awaits r.id = false
  issued : r.phase = 1 ∨ j.slot.space ≠ 5

section
variable {s : State} {r : Run} {x : ScoutRun} (score : State → Run → ScoutRun → State)

theorem scoutStart_of_error {e : Err} (h : s.scoutFits r = .error e) : s.scoutStart r x score = s.endRun r.id e.1 e.2 := by
  unfold State.scoutStart; rw [h]

theorem scoutStart_of_bad {i : Nat} (h : s.scoutFits r = .ok (some i)) :
    s.scoutStart r x score = s.refuseRun r.id St.badDesc (BitVec.ofNat 32 i) := by
  unfold State.scoutStart; rw [h]

theorem scoutStart_of_scored (h : s.scoutFits r = .ok none) (hj : scored s r) : s.scoutStart r x score = score s r x := by
  unfold State.scoutStart
  rw [h]
  obtain hj | ⟨j, hj, hm⟩ := hj
  · rw [hj]
  · rw [hj]; exact if_pos hm

/-- A SCOUT to be replayed looks for its record at once; that its phase is noted before changes nothing of what it reads. -/
theorem scoutStart_of_replay {j : StepRec} (h : replayReady s r j) :
    ∃ f, keepsOutcome f ∧ s.scoutStart r x score = (s.modRun r.id f).scoutReplay r x j score ∧
      (s.modRun r.id f).anyBytes r 0 j.slot.space j.slot.base j.used = s.anyBytes r 0 j.slot.space j.slot.base j.used := by
  obtain ⟨hf, hj, hm, hl, hp⟩ := h
  have h1 : ¬ j.mode = 1 := by rw [hm]; decide
  unfold State.scoutStart
  rw [hf, hj]
  dsimp only
  rw [if_neg h1]
  by_cases hp1 : r.phase = 1
  · have hid : s.modRun r.id id = s := by simp [State.modRun]
    refine ⟨id, fun y => ⟨rfl, rfl⟩, ?_⟩
    rw [if_pos hp1, hl, hid]
    exact ⟨rfl, rfl⟩
  · have h5 := hp.resolve_left hp1
    refine ⟨fun t => { t with phase := 1 }, fun y => ⟨rfl, rfl⟩, ?_⟩
    rw [if_neg hp1, if_neg h5]
    refine ⟨if_neg (ne_true_of_eq_false hl), ?_⟩
    unfold State.anyBytes
    rw [if_neg h5, if_neg h5]
    rfl

theorem scoutReplay_of_record {t : State} {j : StepRec} {js p : List Byte} (hb : s.anyBytes r 0 j.slot.space j.slot.base j.used = .ok js)
    (hf : findRecord r js (j.used / 64 + 1) 64 = some (some p))
    (hw : s.writeBytes r.who (slot r.words 1).space (addr64 ((slot r.words 1).row 0 0)) (p.take ((slot r.words 1).d1 * 64)) = .ok t) :
    s.scoutReplay r x j score = (t.modRun r.id fun y => { y with dig := some (crc64 0 (p.take ((slot r.words 1).d1 * 64))) }).endRun r.id
      (r.err.getD (St.ok, 0)).1 (r.err.getD (St.ok, 0)).2 := by
  unfold State.scoutReplay
  rw [hb]
  dsimp only
  rw [hf]
  dsimp only
  rw [hw]
  rfl

theorem scoutReplay_of_miss {j : StepRec} {js : List Byte} (hb : s.anyBytes r 0 j.slot.space j.slot.base j.used = .ok js)
    (hf : findRecord r js (j.used / 64 + 1) 64 = none) (he : r.err = none) (hm : j.mode = 2) (hs : r.slot = none) :
    s.scoutReplay r x j score = (s.ctxErr r.id.ctx.val 5).refuseRun r.id St.badDesc 0 := by
  unfold State.scoutReplay
  rw [hb]
  dsimp only
  rw [hf, he, hs]
  exact if_neg (by rw [hm]; decide)

end

section
variable {s : State} {r : Run} {x : ScoutRun}

theorem scoutAll_of_few (h : (scoutSet r.words r.seqPos).n ≤ scK r.words + scM r.words) : scoutAll r = true := decide_eq_true h
theorem scoutAll_of_many (h : ¬ (scoutSet r.words r.seqPos).n ≤ scK r.words + scM r.words) : scoutAll r = false := decide_eq_false h

theorem scoutScore_of_all (unit : Nat) (h : scoutAll r = true) : s.scoutScore unit r x = s.scoutEnd r x := if_pos h

theorem scoutScore_of_digital (unit : Nat) (h : scoutAll r = false) (hd : (s.cx r.id.ctx.val).digital r.words = true)
    (hh : s.base.sdHeld.getLsbD (s.scoutDie r) = false) : s.scoutScore unit r x = s.scoutDigital r x (s.scoutDie r) := by
  unfold State.scoutScore
  rw [if_neg (ne_true_of_eq_false h), if_pos hd, if_neg (ne_true_of_eq_false hh)]

theorem scoutScore_of_ready {unit : Nat} (h : scoutAll r = false) (hd : (s.cx r.id.ctx.val).digital r.words = false)
    (hs : (s.scoutRec unit).st = .ready) (hr : (s.scoutRec unit).run = none) (hh : s.base.sdHeld.getLsbD (unit / 2) = false) :
    s.scoutScore unit r x =
      ((s.modScout unit fun u => { u with run := some r.id }).modRun r.id fun t => { t with scout := some { x with unit := some unit } }).swapBank
        (bankKey (pgSd (unit / 2)) (3 + unit % 2)) r.id.ctx.val r.id.q.val r.words := by
  unfold State.scoutScore
  rw [if_neg (ne_true_of_eq_false h), if_neg (ne_true_of_eq_false hd), if_pos (by simp [hs, hr, hh])]

/-! ### The row of SCOUT -/

theorem exec_scout_waits (unit : Fin 12) (h : running s r.id r 0x32) (hb : s.bankWait r = true) :
    exec (.scout r.id unit) s = .next (s.noteBanks r.id) := by
  obtain ⟨hr, hn, hop⟩ := h
  exact congrArg Outcome.next (onHub_waits hr hn (decide_eq_true hop) hb)

/-- A SCOUT on a scout that is not paused, or on a digital path whose engines can run, writes its list. -/
theorem exec_scout_of_assigned (unit : Fin 12) (h : running s r.id r 0x32) (hb : s.bankWait r = false) (hx : r.scout = some x)
    (hway : (x.die = none ∧ x.unit ≠ none ∧ x.paused = false) ∨ (x.die ≠ none ∧ s.agentStop r (s.agentDies r) = none)) :
    exec (.scout r.id unit) s = .next (s.scoutEnd r x) := by
  obtain ⟨hr, hn, hop⟩ := h
  refine congrArg Outcome.next ((State.onHub_of hr hn (decide_eq_true hop) hb).trans ?_)
  unfold State.scout
  rw [hx]
  dsimp only
  obtain ⟨hd, hu, hp⟩ | ⟨hd, ha⟩ := hway
  · rw [if_neg (by simp [hd]), if_neg (by simpa using hu), if_neg (by simp [hp])]
  · rw [if_pos (Option.isSome_iff_ne_none.mpr hd), onAgents_of_none _ ha]

/-- A SCOUT with progress `x` runs, has its banks, and no scout and no digital path is assigned to it. -/
structure unassigned (s : State) (r : Run) (x : ScoutRun) : Prop where
  runs : running s r.id r 0x32
  banks : s.bankWait r = false
  scout : r.scout = some x
  unit : x.unit = none
  die : x.die = none

theorem exec_scout_of_unassigned (unit : Fin 12) (h : unassigned s r x) :
    exec (.scout r.id unit) s = .next (s.scoutStart r x (State.scoutScore · unit.val)) := by
  obtain ⟨⟨hr, hn, hop⟩, hb, hx, hu, hd⟩ := h
  refine congrArg Outcome.next ((State.onHub_of hr hn (decide_eq_true hop) hb).trans ?_)
  unfold State.scout
  rw [hx]
  dsimp only
  rw [hd, hu]
  rfl

theorem exec_scout_of_scored (unit : Fin 12) (h : unassigned s r x) (hf : s.scoutFits r = .ok none) (hj : scored s r) :
    exec (.scout r.id unit) s = .next (s.scoutScore unit.val r x) := by
  rw [exec_scout_of_unassigned unit h, scoutStart_of_scored _ hf hj]

theorem scout_keeps_all (unit : Fin 12) {u : State} (h : unassigned s r x) (hf : s.scoutFits r = .ok none) (hj : scored s r)
    (hall : scoutAll r = true) (hl : s.scoutList r x = .ok u) :
    completes (.scout r.id unit) s fun t => t = u.freeScout r.id ∧ ended t r.id St.ok 0 ∧
      t = { s with mem := t.mem, ctx := t.ctx, regs := t.regs, runs := t.runs, scouts := t.scouts, free := t.free } := by
  have he := exec_scout_of_scored unit h hf hj
  rw [scoutScore_of_all unit.val hall] at he
  obtain ⟨hr, hn, -⟩ := h.runs
  obtain ⟨t, ht, rfl, hend⟩ := completes_scoutEnd hr hn he hl
  exact ⟨_, ht, rfl, hend, scoutList_frame hl⟩

/-- In REPLAY mode the recorded list is written (R151). -/
theorem scout_replays (unit : Fin 12) {j : StepRec} {js p : List Byte} {u : State} (h : unassigned s r x) (hj : replayReady s r j)
    (hbs : s.anyBytes r 0 j.slot.space j.slot.base j.used = .ok js) (he : r.err = none)
    (hrec : findRecord r js (j.used / 64 + 1) 64 = some (some p))
    (hw : s.writeBytes r.who (slot r.words 1).space (addr64 ((slot r.words 1).row 0 0)) (p.take ((slot r.words 1).d1 * 64)) = .ok u) :
    completes (.scout r.id unit) s fun t => t = { u with runs := t.runs } ∧ ended t r.id St.ok 0 := by
  obtain ⟨f, hk, hstart, hbytes⟩ := scoutStart_of_replay (x := x) (State.scoutScore · unit.val) hj
  have hex := exec_scout_of_unassigned unit h
  rw [hstart, scoutReplay_of_record _ (hbytes.trans hbs) hrec (writeBytes_modRun r.id f hw), he] at hex
  obtain ⟨hr, hn, -⟩ := h.runs
  have hrun : u.run? r.id = some r := by rw [run?_congr (writeBytes_sameButMemory hw).runs, hr]
  exact ⟨_, hex, rfl, ended_modRun_endRun (hk.run? hrun) ((hk r).2.trans hn) (by decide) fun y => ⟨rfl, rfl⟩⟩

/-- Without a record an untagged SCOUT of REPLAY mode is refused with JOURNAL_MISS, and nothing is written (R130). -/
theorem scout_misses (unit : Fin 12) {j : StepRec} {js : List Byte} (h : unassigned s r x) (hj : replayReady s r j)
    (hbs : s.anyBytes r 0 j.slot.space j.slot.base j.used = .ok js) (he : r.err = none)
    (hrec : findRecord r js (j.used / 64 + 1) 64 = none) (hs : r.slot = none) :
    completes (.scout r.id unit) s fun t =>
      ended t r.id St.badDesc 0 ∧ bit (t.cx r.id.ctx.val).err 5 = true ∧ t.mem = s.mem := by
  obtain ⟨f, hk, hstart, hbytes⟩ := scoutStart_of_replay (x := x) (State.scoutScore · unit.val) hj
  have hex := exec_scout_of_unassigned unit h
  rw [hstart, scoutReplay_of_miss _ (hbytes.trans hbs) hrec he hj.mode hs] at hex
  obtain ⟨hr, hn, -⟩ := h.runs
  have hrun : ((s.modRun r.id f).ctxErr r.id.ctx.val 5).run? r.id = some (f r) := by
    rw [State.ctxErr_frame]
    exact hk.run? hr
  have hmem : ((s.modRun r.id f).ctxErr r.id.ctx.val 5).mem = s.mem := by
    rw [State.ctxErr_frame]
    rfl
  exact ⟨_, hex, ended_refuseRun hrun ((hk r).2.trans hn) (by decide), ctxErr_bit _ _ (by decide), hmem⟩

end

/-! ### The timers of a SCOUT (R146, R147) -/

section
variable {s : State} {r : Run} {x : ScoutRun}

theorem exec_scoutLockLoss_idle {unit : Fin 12} (h : (s.scoutRec unit.val).run = none) : exec (.scoutLockLoss unit) s = .next s := by
  change Outcome.next (s.scoutLoss unit.val) = .next s
  unfold State.scoutLoss
  rw [h]

theorem exec_scoutRelockTimeout_idle {unit : Fin 12} (h : (s.scoutRec unit.val).run = none) :
    exec (.scoutRelockTimeout unit) s = .next s := by
  change Outcome.next (s.scoutRestart unit.val) = .next s
  unfold State.scoutRestart
  rw [h]

theorem exec_scoutLockLoss_busy {unit : Fin 12} {id : CmdId} (h : (s.scoutRec unit.val).run = some id) :
    exec (.scoutLockLoss unit) s = .next ((s.modScout unit.val fun u => { u with losses := satAdd 8 u.losses 1 }).modRun id fun r =>
      { r with scout := r.scout.map fun x => { x with paused := true, since := s.now } }) := by
  change Outcome.next (s.scoutLoss unit.val) = _
  unfold State.scoutLoss
  rw [h]

/-- No relock in time: the SCOUT restarts on the digital path of its stream's chain (R146). -/
theorem exec_scoutRelockTimeout_of_paused {unit : Fin 12} {id : CmdId} (hs : (s.scoutRec unit.val).run = some id) (hr : s.run? id = some r)
    (hn : r.res = none) (hx : r.scout = some x) (hp : x.paused = true) :
    exec (.scoutRelockTimeout unit) s = .next ((s.passTo (x.since + 200)).scoutDigital r { x with restarted := true } (s.scoutDie r)) := by
  change Outcome.next (s.scoutRestart unit.val) = _
  unfold State.scoutRestart
  rw [hs]
  dsimp only
  rw [hr]
  dsimp only
  rw [hx]
  exact congrArg Outcome.next (if_pos (by simp [hp, hn]))

/-- Where no scout is ready for 20 µs, a SCOUT to be scored takes the digital path (R147). -/
theorem exec_scoutReadyTimeout_of_none (sd : Fin 8) (h : unassigned s r x) (hst : ∀ n < 12, (s.scoutRec n).st ≠ .ready)
    (hf : s.scoutFits r = .ok none) (hj : scored s r) (hall : scoutAll r = false) :
    exec (.scoutReadyTimeout r.id sd) s = .next ((s.passTo (s.readySince x + 20)).scoutDigital r x sd.val) := by
  obtain ⟨⟨hr, hn, hop⟩, hb, hx, hu, hd⟩ := h
  have hany : ((List.range 12).any fun u => (s.scoutRec u).st = .ready) = false := by
    simpa using hst
  refine congrArg Outcome.next ((State.onHub_of hr hn (decide_eq_true hop) hb).trans ?_)
  unfold State.scoutLate
  rw [hx]
  dsimp only
  rw [hu, hd, hany, if_neg (by simp), scoutStart_of_scored _ hf hj, if_neg (ne_true_of_eq_false hall)]

theorem exec_scoutReadyTimeout_of_ready (sd : Fin 8) (h : running s r.id r 0x32) (hb : s.bankWait r = false)
    (hst : ∃ n < 12, (s.scoutRec n).st = .ready) : exec (.scoutReadyTimeout r.id sd) s = .next s := by
  obtain ⟨hr, hn, hop⟩ := h
  have hany : ((List.range 12).any fun u => (s.scoutRec u).st = .ready) = true := by
    simpa using hst
  refine congrArg Outcome.next ((State.onHub_of hr hn (decide_eq_true hop) hb).trans ?_)
  unfold State.scoutLate
  split
  · rfl
  · rw [hany, if_pos (by simp)]

/-- A timer's row that brings time to its end and takes a SCOUT to the digital path ends the SCOUT `OK` there. -/
theorem timer_ends_digital {c : Instr} {u : State} {x' : ScoutRun} {r' : Run} {due die : Nat} (hr : s.run? r.id = some r)
    (hn : r.res = none) (he : exec c s = .next ((s.passTo due).scoutDigital r x die))
    (hx' : x' = { x with die := some die, unit := none, paused := false }) (hr' : r' = { r with scout := some x' })
    (ha : (onDigitalPath (s.passTo due) r x').agentStop r' ((onDigitalPath (s.passTo due) r x').agentDies r') = none)
    (hu : (onDigitalPath (s.passTo due) r x').scoutList r' x' = .ok u) :
    completes c s fun t => t = u.freeScout r.id ∧ ended t r.id St.ok 0 ∧ t.clock.now = max s.now due := by
  obtain ⟨heq, hend, hc⟩ := scoutDigital_of_ok (s := s.passTo due) hr hn hx' hr' ha hu
  exact ⟨_, he.trans (congrArg _ heq), rfl, hend, (congrArg Clock.now hc).trans (s.passTo_now due)⟩

end

/-! ### The registers of the pool (R137) -/

section
variable {s : State} (h : s.pageUse pgPool = true)
include h

theorem exec_skrSet : exec .skrSet s = .next s.skrSet := congrArg Outcome.next (State.onPage_of_use h)
theorem exec_skrClear : exec .skrClear s = .next s.skrClear := congrArg Outcome.next (State.onPage_of_use h)
theorem exec_skrRead : exec .skrRead s = .next s.skrRead := congrArg Outcome.next (State.onPage_of_use h)
theorem exec_poolMmClear (v : W32) : exec (.poolMmClear v) s = .next (s.mmClear v) := congrArg Outcome.next (State.onPage_of_use h)

end

theorem exec_pool_of_not_use {s : State} (h : s.pageUse pgPool = false) (v : W32) :
    ∀ i ∈ [Instr.skrSet, .skrRead, .skrClear, .poolMmClear v], exec i s = .next s := by
  intro i hi
  simp only [List.mem_cons, List.not_mem_nil, or_false] at hi
  obtain rfl | rfl | rfl | rfl := hi <;> exact congrArg Outcome.next (State.onPage_of_not h)

section
variable {s : State}

theorem skrSet_of_busy (hi : s.idleOpen s.skrIndex = false) : s.skrSet = s.wr pgPool 0x108 0x01 := by
  unfold State.skrSet
  dsimp only
  rw [hi]
  rfl

theorem skrSet_of_bad (hi : s.idleOpen s.skrIndex = true) (hg : s.recipeGood s.skrIndex (s.rd pgPool 0x10C).toNat = false) :
    s.skrSet = s.wr pgPool 0x108 0x02 := by
  unfold State.skrSet
  dsimp only
  rw [hi, hg]
  rfl

theorem skrSet_of_good (hi : s.idleOpen s.skrIndex = true) (hg : s.recipeGood s.skrIndex (s.rd pgPool 0x10C).toNat = true) :
    s.skrSet = (s.modCx s.skrIndex fun r => { r with recipe := some (s.rd pgPool 0x10C).toNat }).wr pgPool 0x108 0 := by
  unfold State.skrSet
  dsimp only
  rw [hi, hg]
  rfl

theorem skrClear_of_busy (hi : s.idleOpen s.skrIndex = false) : s.skrClear = s.wr pgPool 0x108 0x01 := by
  unfold State.skrClear
  dsimp only
  rw [hi]
  rfl

theorem skrClear_of_idle (hi : s.idleOpen s.skrIndex = true) :
    s.skrClear = (s.modCx s.skrIndex fun r => { r with recipe := none }).wr pgPool 0x108 0 := by
  unfold State.skrClear
  dsimp only
  rw [hi]
  rfl

theorem mmClear_of_set {v : W32} (h : bit v 0 = true) : s.mmClear v = ((s.wr pgPool 0x130 0).wr pgPool 0x134 0).wr pgPool 0x13C 0 := if_pos h

theorem mmClear_of_not_set {v : W32} (h : bit v 0 = false) : s.mmClear v = s := if_neg (ne_true_of_eq_false h)

end

/-! ### Calibration (R145) -/

/-- The scouts that calibrate are fewer than `MAX_CAL`. -/
def calRoom (s : State) : Prop := (s.scouts.filter fun p => p.2.st = .cal).length < fld (s.rd pgPool 0x124) 19 16

theorem modScout_congr {s : State} {u : Nat} {f g : ScoutRec → ScoutRec} (h : f (s.scoutRec u) = g (s.scoutRec u)) :
    s.modScout u f = s.modScout u g := by
  unfold State.modScout; rw [h]

section
variable {s : State} {u : Nat}

/-- A scout that has been calibrated before begins its next calibration as it falls due. -/
theorem calibrate_of_due (hr : (s.scoutRec u).run = none) (hroom : calRoom s)
    (hst : (s.scoutRec u).st = .ready ∨ (s.scoutRec u).st = .fenced ∧ (s.scoutRec u).fails < 3) :
    s.calibrate u =
      let due := s.passTo ((s.scoutRec u).last + 1000 * fld (s.rd pgPool 0x124) 15 0)
      due.modScout u fun x => { x with st := .cal, left := if x.st = .ready then due.now else x.left } := by
  have hroom' : ¬ (s.scouts.filter fun p => p.2.st = .cal).length ≥ fld (s.rd pgPool 0x124) 19 16 := Nat.not_le.mpr hroom
  have hoff : ¬ (s.scoutRec u).st = .off := by
    obtain h | ⟨h, -⟩ := hst <;> rw [h] <;> decide
  unfold State.calibrate
  dsimp only
  rw [if_neg, if_neg hoff]
  obtain h | ⟨h, hf⟩ := hst
  · simp [h, hr, hroom']
  · simp [h, hf, hr, hroom']

/-- When it leaves `SCOUT_READY` is noted (R147). -/
theorem calibrate_of_ready (hr : (s.scoutRec u).run = none) (hroom : calRoom s) (hst : (s.scoutRec u).st = .ready) :
    s.calibrate u =
      let due := s.passTo ((s.scoutRec u).last + 1000 * fld (s.rd pgPool 0x124) 15 0)
      due.modScout u fun x => { x with st := .cal, left := due.now } :=
  (calibrate_of_due hr hroom (.inl hst)).trans
    (modScout_congr (congrArg (fun n => { s.scoutRec u with st := .cal, left := n }) (if_pos hst)))

theorem calibrate_of_fenced (hr : (s.scoutRec u).run = none) (hroom : calRoom s) (hst : (s.scoutRec u).st = .fenced)
    (hf : (s.scoutRec u).fails < 3) :
    s.calibrate u = (s.passTo ((s.scoutRec u).last + 1000 * fld (s.rd pgPool 0x124) 15 0)).modScout u fun x => { x with st := .cal } := by
  have hn : (s.scoutRec u).st ≠ .ready := by rw [hst]; decide
  exact (calibrate_of_due hr hroom (.inr ⟨hst, hf⟩)).trans
    (modScout_congr (congrArg (fun n => { s.scoutRec u with st := .cal, left := n }) (if_neg hn)))

theorem calibrate_of_off (hr : (s.scoutRec u).run = none) (hroom : calRoom s) (hst : (s.scoutRec u).st = .off)
    (hf : (s.scoutRec u).fails < 3) (hmay : s.scoutMay u = true) : s.calibrate u = s.modScout u fun x => { x with st := .cal } := by
  have hroom' : ¬ (s.scouts.filter fun p => p.2.st = .cal).length ≥ fld (s.rd pgPool 0x124) 19 16 := Nat.not_le.mpr hroom
  unfold State.calibrate
  dsimp only
  rw [if_neg (by simp [hst, hf, hmay, hr, hroom']), if_pos hst]

theorem calibrate_of_not (h : (s.scoutRec u).run ≠ none ∨ ¬ calRoom s ∨ (s.scoutRec u).st = .cal ∨
    ((s.scoutRec u).fails ≥ 3 ∧ (s.scoutRec u).st ≠ .ready)) : s.calibrate u = s := by
  unfold State.calibrate
  dsimp only
  refine if_pos ?_
  obtain h | h | h | ⟨h, hst⟩ := h
  · simp [Option.isSome_iff_ne_none.mpr h]
  · simp [show (s.scouts.filter fun p => p.2.st = .cal).length ≥ fld (s.rd pgPool 0x124) 19 16 from Nat.not_lt.mp h]
  · simp [h]
  · simp [hst, Nat.not_lt.mpr h]

theorem calibrated_of_cal (gain offset weight : Nat) (tones : Bool) (h : (s.scoutRec u).st = .cal) :
    s.calibrated u gain offset weight tones = s.modScout u fun x =>
      if gain ≤ 20 ∧ offset ≤ 200 ∧ weight ≤ 20 ∧ tones = true then { x with st := .ready, fails := 0, last := s.now }
      else { x with st := .fenced, fails := x.fails + 1, last := s.now } := by
  unfold State.calibrated
  rw [if_neg (by simp [h])]
  by_cases hg : gain ≤ 20 ∧ offset ≤ 200 ∧ weight ≤ 20 ∧ tones = true
  · rw [if_pos (by simpa [and_assoc] using hg)]
    exact modScout_congr (if_pos hg).symm
  · rw [if_neg (by simpa [and_assoc] using hg)]
    exact modScout_congr (if_neg hg).symm

theorem calibrated_of_not_cal (gain offset weight : Nat) (tones : Bool) (h : (s.scoutRec u).st ≠ .cal) :
    s.calibrated u gain offset weight tones = s := if_pos h

end

/-! ### The obligations -/

/-- Settles O22, clause by clause: a SCOUT that no unit runs yet (refused, kept whole, on a scout, on the digital path, replayed), its end
on a unit, and GATHER_KV. -/
theorem scoutAndGatherComplete : Obligations.ScoutAndGatherComplete := by
  refine ⟨fun s id r x unit hrun hx => ?_, fun s id r hrun => ?_⟩
  · have ⟨hr, hn, _⟩ := hrun
    obtain rfl := run?_id hr
    refine ⟨exec_scout_waits unit hrun, fun hb hu hd => ?_, fun u hb hway hl => ?_⟩
    · have h : unassigned s r x := ⟨hrun, hb, hx, hu, hd⟩
      refine ⟨fun e he => ?_, fun i hi => ?_, fun u hf hj hfew hl => scout_keeps_all unit h hf hj (scoutAll_of_few hfew) hl,
        fun hf hj hmany hdig hst hidle hheld => ?_, fun hf hj hmany hdig hheld => ?_, fun j js hf hj hm ha hp hbs he => ?_⟩
      · rw [exec_scout_of_unassigned unit h, scoutStart_of_error _ he]
      · rw [exec_scout_of_unassigned unit h, scoutStart_of_bad _ hi]
      · rw [exec_scout_of_scored unit h hf hj, scoutScore_of_ready (scoutAll_of_many hmany) hdig hst hidle hheld]
      · have hex := exec_scout_of_scored unit h hf hj
        rw [scoutScore_of_digital unit.val (scoutAll_of_many hmany) hdig hheld] at hex
        refine ⟨fun u ha hl => ?_, fun e ha => hex.trans (congrArg _ (scoutDigital_of_stopped rfl rfl ha))⟩
        obtain ⟨heq, hend, -⟩ := scoutDigital_of_ok hr hn rfl rfl ha hl
        exact ⟨_, hex.trans (congrArg _ heq), rfl, hend⟩
      · have hready : replayReady s r j := ⟨hf, hj, hm, ha, hp⟩
        exact ⟨fun p u hrec hw => scout_replays unit h hready hbs he hrec hw, fun hrec hs => scout_misses unit h hready hbs he hrec hs⟩
    · obtain ⟨t, ht, rfl, hend⟩ := completes_scoutEnd hr hn (exec_scout_of_assigned unit hrun hb hx hway) hl
      exact ⟨_, ht, rfl, hend, freeScout_run u r.id⟩
  · have ⟨hr, _, _⟩ := hrun
    obtain rfl := run?_id hr
    exact ⟨exec_gatherKv_waits hrun, fun hb e ha => exec_gatherKv_stopped hrun hb ha, fun hb ha =>
      ⟨fun u hu => gatherKv_gathers hrun hb ha hu, fun e he hs => gatherKv_fails hrun hb ha he hs⟩⟩

/-- Settles O23, clause by clause: the timers of a SCOUT, the recipe registers, the margin-miss counters, and calibration. -/
theorem scoutTimersAndPoolComplete : Obligations.ScoutTimersAndPoolComplete := by
  refine ⟨⟨fun s unit h => ⟨exec_scoutLockLoss_idle h, exec_scoutRelockTimeout_idle h⟩, fun s unit id h => exec_scoutLockLoss_busy h,
    fun s u unit id r x hs hr hid hn hx hp => ?_, fun s u sd id r x hrun hb hx hu hd hst hf hj hmany => ?_,
    fun s sd id r hrun hb hst => ?_⟩, fun s c vpn h hc hv => ?_, fun s v => ⟨fun h => exec_pool_of_not_use h v, fun h => ?_⟩,
    fun s u gain offset weight tones => ?_⟩
  · obtain rfl := hid
    exact timer_ends_digital hr hn (exec_scoutRelockTimeout_of_paused hs hr hn hx hp) rfl rfl
  · have ⟨hr, hn, _⟩ := hrun
    obtain rfl := run?_id hr
    exact timer_ends_digital hr hn
      (exec_scoutReadyTimeout_of_none sd ⟨hrun, hb, hx, hu, hd⟩ hst hf hj (scoutAll_of_many (Nat.not_le.mpr hmany))) rfl rfl
  · have ⟨hr, _, _⟩ := hrun
    obtain rfl := run?_id hr
    exact exec_scoutReadyTimeout_of_ready sd hrun hb hst
  · subst hc hv
    exact ⟨fun hi => ⟨(exec_skrSet h).trans (congrArg _ (skrSet_of_busy hi)), (exec_skrClear h).trans (congrArg _ (skrClear_of_busy hi))⟩,
      fun hi hg => (exec_skrSet h).trans (congrArg _ (skrSet_of_bad hi hg)),
      fun hi hg => (exec_skrSet h).trans (congrArg _ (skrSet_of_good hi hg)),
      fun hi => (exec_skrClear h).trans (congrArg _ (skrClear_of_idle hi)), exec_skrRead h⟩
  · exact ⟨fun hv => (exec_poolMmClear h v).trans (congrArg _ (mmClear_of_set hv)),
      fun hv => (exec_poolMmClear h v).trans (congrArg _ (mmClear_of_not_set hv))⟩
  · exact ⟨fun hr hroom hst => congrArg Outcome.next (calibrate_of_ready hr hroom hst),
      fun hr hroom hst hf => congrArg Outcome.next (calibrate_of_fenced hr hroom hst hf),
      fun hr hroom hst hf hmay => congrArg Outcome.next (calibrate_of_off hr hroom hst hf hmay),
      fun hnot => congrArg Outcome.next (calibrate_of_not hnot),
      fun hst => congrArg (fun t : State => Outcome.next (t.notify s)) (calibrated_of_cal gain offset weight tones hst),
      fun hst => congrArg (fun t : State => Outcome.next (t.notify s)) (calibrated_of_not_cal gain offset weight tones hst)⟩

end Sys2Proof.Proofs.Scouts
end
